-- ==== Sys2Proof/Word.lean ====
section
/-!
DEFINITION. The word types of the TK48 model and the shape of its sparse maps. Every register, field and address that the
spec numbers in bits is a bit vector (00 R6); collections are sorted association lists, so that a state is plain data.
-/

namespace Sys2Proof

/-- A byte of memory (00 R7: byte offset 0 holds the least significant byte). -/
abbrev Byte := BitVec 8

/-- A control register, a general register, a global address: 64 bits (00 R9, 02 R58, 08 R293). -/
abbrev Word := BitVec 64

/-- The bits of an FP32 value (04 Table 4-2). -/
abbrev F32 := BitVec 32

/-- A sparse map: key and value pairs, keys rising; a key that is absent has the default its reader names. -/
abbrev SMap (α : Type) := List (Nat × α)

/-- The 512 lanes of a long-vector register, lane 0 first (03 R134); a lane beyond the list is +0.0. -/
abbrev Lanes := List F32

end Sys2Proof
end

