-- ==== Sys2Proof/Syntax.lean ====
section
/-!
DEFINITION. The commands of the TK48 block: `Instr` has one constructor per row of spec/opcode_table.json, in the table's
order, with the row's operands. What the device's surroundings alone decide (a training outcome, a temperature, a hardware
upset, the bytes a host read returns) is an operand of the command that meets it.
-/

namespace Sys2Proof

/-- The two worlds (15). -/
inductive World where
  | ns | s
  deriving DecidableEq, Repr

/-- A core: lathe n, physical core c of that lathe (00 Table 0-2). -/
structure Cid where
  lathe : Fin 68
  core : Fin 68
  deriving DecidableEq, Repr

/-- A thread: thread 0 to 7 of a core (02 R52). -/
structure Tid where
  lathe : Fin 68
  core : Fin 68
  thread : Fin 8
  deriving DecidableEq, Repr

/-- The fields of an instruction word but its opcode, as they stand in the word (02 R61, Table 2-4). -/
structure Fld where
  gp : BitVec 4
  gi : Bool
  d : BitVec 6
  s1 : BitVec 6
  s2 : BitVec 6
  imm : BitVec 32
  deriving DecidableEq, Repr

/-- Who reads or writes a register: the host through BAR0, a supervisor pair, a thread (09 Table 9-7). -/
inductive Agent where
  | host
  | sup (pair : Fin 4)
  | thread (t : Tid)
  deriving DecidableEq, Repr

/-- A clock island (01 Table 1-3). -/
inductive Island where
  | lathe (l : Fin 68)
  | fabric (d : Fin 4)
  | hbm (stack : Fin 8)
  | mrdimm (c : Fin 12)
  | link (b : Fin 2)
  | hostComplex (b : Fin 2)
  | ferrule (b : Fin 2)
  | benchCore (b : Fin 2)
  | management (b : Fin 2)
  deriving DecidableEq, Repr

/-- What is fitted to an MRDIMM channel, and whether it trained (08 R302, R303). -/
structure Module where
  present : Bool
  mrdimm : Bool
  ecc : Bool
  capGiB : Nat
  /-- rated transfers in units of 100 MT/s -/
  rate : Nat
  /-- DRAM device width: 1 x4, 2 x8 -/
  width : Nat
  trained : Bool
  deriving DecidableEq, Repr

/-- The readings of the sensors in degrees C: lathe dies, bench dies, HBM stacks (16 R521). -/
structure Temps where
  lathe : List Nat
  bench : List Nat
  hbm : List Nat
  deriving DecidableEq, Repr

/-- What a start meets in its surroundings (01 R35 and R45, 17 Table 17-1 and Table 17-2). -/
structure StartEnv where
  chainHead : Bool
  bootSel : Bool
  altRom : Bool
  /-- a rail is out of order or below tolerance (01 R39) -/
  railBad : Bool
  /-- the ROM of bench die b passes its self-check -/
  romOk : Bool × Bool
  /-- image slots A and B read without an uncorrectable error (17 R534) -/
  slotOk : Bool × Bool
  /-- clocks present: CREFCLK0, CREFCLK1, PCIe reference -/
  clocks : Bool × Bool × Bool
  hbmFail : Option (Fin 8)
  modules : List Module
  /-- lanes found failed in training: port and lane (11 R405) -/
  lanesFailed : List (Fin 40 × Fin 9)
  temps : Temps
  /-- lathes whose self-test tile fails at step 11 -/
  selfTestFail : List (Fin 68)
  deriving DecidableEq, Repr

/-- How a chain port trains (11 R398, R401). -/
inductive Training where
  | up (pol : BitVec 9) (rev : Bool) (partner : BitVec 16) (pport : BitVec 8)
  | miswired
  | badOrder
  | failed
  deriving DecidableEq, Repr

/-- What a heartbeat flit carries (11 R406). -/
structure Beat where
  addr : BitVec 16
  epoch : BitVec 16
  state : BitVec 4
  port : BitVec 8
  serial : Word
  deriving DecidableEq, Repr

/-- An element of a long-vector access that received an error response, with the response's code (03 R145, 11 Table 11-4). -/
structure ElemErr where
  elem : Fin 512
  code : Nat
  deriving DecidableEq, Repr

/-- A chunk of a shard-step (12 R433). -/
structure ChunkId where
  job : BitVec 12
  shard : BitVec 16
  step : BitVec 32
  chunk : BitVec 16
  deriving DecidableEq, Repr

/-- A fault as it is detected: cause code (14 Table 14-3), unit (Table 14-4), address, thread and detail where they apply. -/
structure FaultEv where
  cause : BitVec 16
  kind : Byte
  index : BitVec 16
  addr : Word
  thread : Option Tid
  detail : BitVec 32
  /-- the fault is an uncorrectable one (14 R461) -/
  hard : Bool
  deriving DecidableEq, Repr

/-- What a scrubber finds in the line it reads (08 R321, R322). -/
inductive ScrubFinding where
  | clean
  | corrected (positions : Nat)
  | uncorrectableClean
  | uncorrectableSole
  deriving DecidableEq, Repr

/-- A scrub of one line at a local address: the structure's unit kind and index (14 Table 14-4), and what it finds. -/
structure ScrubEv where
  kind : Byte
  index : BitVec 16
  addr : Word
  finding : ScrubFinding
  deriving DecidableEq, Repr

/-- The commands of the block, in the order of spec/opcode_table.json. A core instruction names its thread `t` and the
fields `f` of the word the thread fetched. A KCP command names its queue `q` and the index `n` of its packet in it, and,
where it reads memory outside this device (the host's, or another device's), what was returned (`none`: an error response). A
register access names its agent; `bar2`: the host's access is through BAR2. A packet command names the port at which the
packet arrived. -/
inductive Instr where
  /-- DEVICE_START (R35). -/
  | deviceStart (env : StartEnv)
  /-- THERMAL_START_HOLD_RELEASE (R525). -/
  | thermalStartHoldRelease
  /-- DEV_READY (R528). -/
  | devReady
  /-- MRDIMM_GRANULE_ZERO (R531). -/
  | mrdimmGranuleZero
  /-- HOST_RESET (R37). -/
  | hostReset (pwrOk : Bool) (perstN : Bool)
  /-- RAIL_FAULT (R38). -/
  | railFault (rail : Nat)
  /-- CLOCK_HOLD (R21). -/
  | clockHold (island : Island)
  /-- CLOCK_RESUME (R21). -/
  | clockResume (island : Island)
  /-- DEV_TIME_TICK (R27). -/
  | devTimeTick
  /-- CLOCK_SOURCE_CHANGE (R28). -/
  | clockSourceChange (clk : Fin 2) (present : Bool)
  /-- HBM_PLL_RELOCK (R44). -/
  | hbmPllRelock (stack : Fin 8)
  /-- CHAIN_REFCLK_LOSS (R43). -/
  | chainRefclkLoss (b : Fin 2)
  /-- CHAIN_REFCLK_RETURN (R43). -/
  | chainRefclkReturn (b : Fin 2)
  /-- DEV_TIME_LOW_READ (R31). -/
  | devTimeLowRead (a : Agent)
  /-- DEV_TIME_HIGH_READ (R31). -/
  | devTimeHighRead (a : Agent)
  /-- SMBUS_BLOCK_READ (R48). -/
  | smbusBlockRead (code : Byte)
  /-- SMBUS_WRITE (R48). -/
  | smbusWrite (code : Byte) (data : List Byte)
  /-- BYPASS (R50). -/
  | bypass (tdi : List Bool)
  /-- IDCODE (R50). -/
  | idcode
  /-- SAMPLE_PRELOAD (R51). -/
  | samplePreload (pins : List Bool) (load : List Bool)
  /-- EXTEST (R51). -/
  | extest
  /-- HIGHZ (R51). -/
  | highz
  /-- ADD (R67). -/
  | add (t : Tid) (f : Fld)
  /-- SUB (R67). -/
  | sub (t : Tid) (f : Fld)
  /-- AND (R67). -/
  | andd (t : Tid) (f : Fld)
  /-- OR (R67). -/
  | orr (t : Tid) (f : Fld)
  /-- XOR (R67). -/
  | xorr (t : Tid) (f : Fld)
  /-- SHL (R67). -/
  | shl (t : Tid) (f : Fld)
  /-- SHR (R67). -/
  | shr (t : Tid) (f : Fld)
  /-- SRA (R67). -/
  | sra (t : Tid) (f : Fld)
  /-- MUL (R67). -/
  | mul (t : Tid) (f : Fld)
  /-- MULH (R67). -/
  | mulh (t : Tid) (f : Fld)
  /-- MULHU (R67). -/
  | mulhu (t : Tid) (f : Fld)
  /-- DIV (R68). -/
  | divv (t : Tid) (f : Fld)
  /-- DIVU (R68). -/
  | divu (t : Tid) (f : Fld)
  /-- REM (R68). -/
  | remm (t : Tid) (f : Fld)
  /-- REMU (R68). -/
  | remu (t : Tid) (f : Fld)
  /-- MIN (R67). -/
  | minn (t : Tid) (f : Fld)
  /-- MAX (R67). -/
  | maxx (t : Tid) (f : Fld)
  /-- MINU (R67). -/
  | minu (t : Tid) (f : Fld)
  /-- MAXU (R67). -/
  | maxu (t : Tid) (f : Fld)
  /-- ADDI (R67). -/
  | addi (t : Tid) (f : Fld)
  /-- ANDI (R67). -/
  | andi (t : Tid) (f : Fld)
  /-- ORI (R67). -/
  | ori (t : Tid) (f : Fld)
  /-- XORI (R67). -/
  | xori (t : Tid) (f : Fld)
  /-- SHLI (R67). -/
  | shli (t : Tid) (f : Fld)
  /-- SHRI (R67). -/
  | shri (t : Tid) (f : Fld)
  /-- SRAI (R67). -/
  | srai (t : Tid) (f : Fld)
  /-- MULI (R67). -/
  | muli (t : Tid) (f : Fld)
  /-- LI (R67). -/
  | li (t : Tid) (f : Fld)
  /-- LIH (R67). -/
  | lih (t : Tid) (f : Fld)
  /-- CMPEQ (R69). -/
  | cmpeq (t : Tid) (f : Fld)
  /-- CMPNE (R69). -/
  | cmpne (t : Tid) (f : Fld)
  /-- CMPLT (R69). -/
  | cmplt (t : Tid) (f : Fld)
  /-- CMPLE (R69). -/
  | cmple (t : Tid) (f : Fld)
  /-- CMPLTU (R69). -/
  | cmpltu (t : Tid) (f : Fld)
  /-- CMPLEU (R69). -/
  | cmpleu (t : Tid) (f : Fld)
  /-- CMPEQI (R69). -/
  | cmpeqi (t : Tid) (f : Fld)
  /-- CMPNEI (R69). -/
  | cmpnei (t : Tid) (f : Fld)
  /-- CMPLTI (R69). -/
  | cmplti (t : Tid) (f : Fld)
  /-- CMPLEI (R69). -/
  | cmplei (t : Tid) (f : Fld)
  /-- CMPLTUI (R69). -/
  | cmpltui (t : Tid) (f : Fld)
  /-- CMPLEUI (R69). -/
  | cmpleui (t : Tid) (f : Fld)
  /-- PAND (R69). -/
  | pand (t : Tid) (f : Fld)
  /-- POR (R69). -/
  | por (t : Tid) (f : Fld)
  /-- PXOR (R69). -/
  | pxor (t : Tid) (f : Fld)
  /-- PANDN (R69). -/
  | pandn (t : Tid) (f : Fld)
  /-- PSET (R69). -/
  | pset (t : Tid) (f : Fld)
  /-- PGET (R67). -/
  | pget (t : Tid) (f : Fld)
  /-- PSETI (R69). -/
  | pseti (t : Tid) (f : Fld)
  /-- BR (R70). -/
  | br (t : Tid) (f : Fld)
  /-- JAL (R70). -/
  | jal (t : Tid) (f : Fld)
  /-- JALR (R70). -/
  | jalr (t : Tid) (f : Fld)
  /-- LDB (R79). -/
  | ldb (t : Tid) (f : Fld)
  /-- LDH (R79). -/
  | ldh (t : Tid) (f : Fld)
  /-- LDW (R79). -/
  | ldw (t : Tid) (f : Fld)
  /-- LDD (R79). -/
  | ldd (t : Tid) (f : Fld)
  /-- LDBU (R79). -/
  | ldbu (t : Tid) (f : Fld)
  /-- LDHU (R79). -/
  | ldhu (t : Tid) (f : Fld)
  /-- LDWU (R79). -/
  | ldwu (t : Tid) (f : Fld)
  /-- STB (R72). -/
  | stb (t : Tid) (f : Fld)
  /-- STH (R72). -/
  | sth (t : Tid) (f : Fld)
  /-- STW (R72). -/
  | stw (t : Tid) (f : Fld)
  /-- STD (R72). -/
  | std (t : Tid) (f : Fld)
  /-- AMOADD_W (R551). -/
  | amoaddW (t : Tid) (f : Fld)
  /-- AMOADD_D (R551). -/
  | amoaddD (t : Tid) (f : Fld)
  /-- AMOSWAP_W (R551). -/
  | amoswapW (t : Tid) (f : Fld)
  /-- AMOSWAP_D (R551). -/
  | amoswapD (t : Tid) (f : Fld)
  /-- CAS_W (R551). -/
  | casW (t : Tid) (f : Fld)
  /-- CAS_D (R551). -/
  | casD (t : Tid) (f : Fld)
  /-- FENCE (R73). -/
  | fence (t : Tid) (f : Fld)
  /-- FADD (R75). -/
  | fadd (t : Tid) (f : Fld)
  /-- FSUB (R75). -/
  | fsub (t : Tid) (f : Fld)
  /-- FMUL (R75). -/
  | fmul (t : Tid) (f : Fld)
  /-- FDIV (R75). -/
  | fdiv (t : Tid) (f : Fld)
  /-- FSQRT (R75). -/
  | fsqrt (t : Tid) (f : Fld)
  /-- FMA (R75). -/
  | fma (t : Tid) (f : Fld)
  /-- FMIN (R75). -/
  | fmin (t : Tid) (f : Fld)
  /-- FMAX (R75). -/
  | fmax (t : Tid) (f : Fld)
  /-- FCVTI (R77). -/
  | fcvti (t : Tid) (f : Fld)
  /-- FCVTF (R77). -/
  | fcvtf (t : Tid) (f : Fld)
  /-- FCVTW (R75). -/
  | fcvtw (t : Tid) (f : Fld)
  /-- FCMPEQ (R77). -/
  | fcmpeq (t : Tid) (f : Fld)
  /-- FCMPLT (R77). -/
  | fcmplt (t : Tid) (f : Fld)
  /-- FCMPLE (R77). -/
  | fcmple (t : Tid) (f : Fld)
  /-- FCMPUN (R77). -/
  | fcmpun (t : Tid) (f : Fld)
  /-- CSRR (R89). -/
  | csrr (t : Tid) (f : Fld)
  /-- CSRW (R105). -/
  | csrw (t : Tid) (f : Fld)
  /-- CORE_TCMP_WRITE (R94). -/
  | coreTcmpWrite (t : Tid) (f : Fld)
  /-- XRET (R100). -/
  | xret (t : Tid) (f : Fld)
  /-- YIELD (R55). -/
  | yieldOp (t : Tid) (f : Fld)
  /-- BRK (R92). -/
  | brk (t : Tid) (f : Fld)
  /-- DONE (R342). -/
  | doneTask (t : Tid) (f : Fld)
  /-- TOKEN (R333). -/
  | tokenOp (t : Tid) (f : Fld)
  /-- MBXSEND (R353). -/
  | mbxsend (t : Tid) (f : Fld)
  /-- MBXRECV (R353). -/
  | mbxrecv (t : Tid) (f : Fld)
  /-- REP_I (R83). -/
  | repI (t : Tid) (f : Fld) (word : Word)
  /-- REP_N (R86). -/
  | repN (t : Tid) (f : Fld) (word : Word)
  /-- REPETITION (R85). -/
  | repetition (t : Tid)
  /-- RESERVED_OPCODE (R66). -/
  | reservedOpcode (t : Tid) (op : BitVec 9) (f : Fld)
  /-- TIMER_EXPIRY (R94). -/
  | timerExpiry (t : Tid)
  /-- TAKE_INTERRUPT (R95). -/
  | takeInterrupt (t : Tid)
  /-- FETCH_FILL (R54). -/
  | fetchFill (t : Tid)
  /-- LOAD_DATA_ARRIVAL (R80). -/
  | loadDataArrival (t : Tid) (slot : Fin 2)
  /-- STORE_BUFFER_DRAIN (R54). -/
  | storeBufferDrain (t : Tid)
  /-- LONG_LATENCY_RESULT (R56). -/
  | longLatencyResult (t : Tid)
  /-- WRITE_COMPLETE (R313). -/
  | writeComplete (t : Tid)
  /-- BANK_ACCEPT (R325). -/
  | bankAccept (bank : Nat) (requester : Nat)
  /-- VADD (R115). -/
  | vadd (t : Tid) (f : Fld)
  /-- VSUB (R115). -/
  | vsub (t : Tid) (f : Fld)
  /-- VMUL (R115). -/
  | vmul (t : Tid) (f : Fld)
  /-- VAND (R115). -/
  | vand (t : Tid) (f : Fld)
  /-- VOR (R115). -/
  | vor (t : Tid) (f : Fld)
  /-- VXOR (R115). -/
  | vxor (t : Tid) (f : Fld)
  /-- VSHL (R115). -/
  | vshl (t : Tid) (f : Fld)
  /-- VSHR (R115). -/
  | vshr (t : Tid) (f : Fld)
  /-- VSRA (R115). -/
  | vsra (t : Tid) (f : Fld)
  /-- VMIN (R115). -/
  | vmin (t : Tid) (f : Fld)
  /-- VMAX (R115). -/
  | vmax (t : Tid) (f : Fld)
  /-- VMINU (R115). -/
  | vminu (t : Tid) (f : Fld)
  /-- VMAXU (R115). -/
  | vmaxu (t : Tid) (f : Fld)
  /-- VFADD (R116). -/
  | vfadd (t : Tid) (f : Fld)
  /-- VFSUB (R116). -/
  | vfsub (t : Tid) (f : Fld)
  /-- VFMUL (R116). -/
  | vfmul (t : Tid) (f : Fld)
  /-- VFMA (R116). -/
  | vfma (t : Tid) (f : Fld)
  /-- VFMIN (R116). -/
  | vfmin (t : Tid) (f : Fld)
  /-- VFMAX (R116). -/
  | vfmax (t : Tid) (f : Fld)
  /-- VCVT (R120). -/
  | vcvt (t : Tid) (f : Fld)
  /-- VCMP (R118). -/
  | vcmp (t : Tid) (f : Fld)
  /-- VFCMP (R118). -/
  | vfcmp (t : Tid) (f : Fld)
  /-- VWMUL (R121). -/
  | vwmul (t : Tid) (f : Fld)
  /-- VDOT (R122). -/
  | vdot (t : Tid) (f : Fld)
  /-- VLD (R124). -/
  | vld (t : Tid) (f : Fld)
  /-- VST (R124). -/
  | vst (t : Tid) (f : Fld)
  /-- VGATHER (R128). -/
  | vgather (t : Tid) (f : Fld)
  /-- VSCATTER (R131). -/
  | vscatter (t : Tid) (f : Fld)
  /-- VBCAST (R119). -/
  | vbcast (t : Tid) (f : Fld)
  /-- VINS (R119). -/
  | vins (t : Tid) (f : Fld)
  /-- VEXT (R119). -/
  | vext (t : Tid) (f : Fld)
  /-- VECTOR_LOAD_ARRIVAL (R125). -/
  | vectorLoadArrival (t : Tid)
  /-- LVLD (R145). -/
  | lvld (t : Tid) (f : Fld)
  /-- LVST (R146). -/
  | lvst (t : Tid) (f : Fld)
  /-- LV_ALU (R141). -/
  | lvAlu (t : Tid) (f : Fld)
  /-- LV_CMP (R142). -/
  | lvCmp (t : Tid) (f : Fld)
  /-- LV_RED (R144). -/
  | lvRed (t : Tid) (f : Fld)
  /-- LV_MASK (R143). -/
  | lvMask (t : Tid) (f : Fld)
  /-- LONG_VECTOR_OP_COMPLETE (R148). -/
  | longVectorOpComplete (c : Cid)
  /-- LONG_VECTOR_ACCESS_COMPLETE (R145). -/
  | longVectorAccessComplete (t : Tid) (errs : List ElemErr)
  /-- TCFG (R199). -/
  | tcfg (t : Tid) (f : Fld)
  /-- TCFG_APPLY (R203). -/
  | tcfgApply (t : Tid)
  /-- TCFG_GRANT (R202). -/
  | tcfgGrant (l : Fin 68)
  /-- TREL (R206). -/
  | trel (t : Tid) (f : Fld)
  /-- TILE_CONTEXT_RELEASE (R192). -/
  | tileContextRelease (c : Cid)
  /-- TLD (R213). -/
  | tld (t : Tid) (f : Fld)
  /-- TST (R214). -/
  | tst (t : Tid) (f : Fld)
  /-- TZERO (R209). -/
  | tzero (t : Tid) (f : Fld)
  /-- TMMA (R219). -/
  | tmma (t : Tid) (f : Fld)
  /-- TILE_OP_COMPLETE (R227). -/
  | tileOpComplete (c : Cid) (err : Option Nat)
  /-- TDRAIN (R278). -/
  | tdrain (t : Tid) (f : Fld)
  /-- TDRAIN_END (R275). -/
  | tdrainEnd (c : Cid)
  /-- TAMAX (R289). -/
  | tamax (t : Tid) (f : Fld)
  /-- FTAB (R285). -/
  | ftab (t : Tid) (f : Fld)
  /-- FTAB_LOAD (R285). -/
  | ftabLoad (t : Tid)
  /-- FAPPLY (R287). -/
  | fapply (t : Tid) (f : Fld)
  /-- FDERIV (R287). -/
  | fderiv (t : Tid) (f : Fld)
  /-- PASS_GRANT (R252). -/
  | passGrant (l : Fin 68) (band : Fin 4)
  /-- ARRAY_STOP (R253). -/
  | arrayStop (l : Fin 68)
  /-- PASS_CHECK (R258). -/
  | passCheck (l : Fin 68) (band : Fin 4) (hwFail : Bool)
  /-- CATCH_RETRY (R261). -/
  | catchRetry (l : Fin 68) (hwFail : Bool)
  /-- LOCALISATION_PASS (R262). -/
  | localisationPass (l : Fin 68) (marks : List (Nat × Nat))
  /-- SELF_TEST_TILE (R264). -/
  | selfTestTile (l : Fin 68) (pass : Bool)
  /-- ARR_SHAPE_WRITE (R251). -/
  | arrShapeWrite (a : Agent) (l : Fin 68) (v : Word)
  /-- SHAPE_CHANGE_APPLY (R251). -/
  | shapeChangeApply (l : Fin 68)
  /-- SIGNAL_TOKEN (R334). -/
  | signalToken (w : World) (addr : Word)
  /-- ARM_TOKEN (R334). -/
  | armToken (w : World) (addr : Word)
  /-- OVERFLOW_PLACEMENT (R340). -/
  | overflowPlacement
  /-- TASK_START (R341). -/
  | taskStart (t : Tid)
  /-- TASK_COMPLETION (R342). -/
  | taskCompletion (t : Tid)
  /-- DEV_TASKDB_WRITE (R335). -/
  | devTaskdbWrite (a : Agent) (v : Word)
  /-- MBX_SEND (R355). -/
  | mbxSendReg (a : Agent) (m : Fin 64) (e : Fin 2) (v : BitVec 32)
  /-- MBX_COMMIT (R355). -/
  | mbxCommit (a : Agent) (m : Fin 64) (e : Fin 2)
  /-- MBX_RECV (R355). -/
  | mbxRecvReg (a : Agent) (m : Fin 64) (e : Fin 2)
  /-- MBX_LOCK_READ (R356). -/
  | mbxLockRead (a : Agent) (m : Fin 64)
  /-- MBX_LOCK_WRITE (R356). -/
  | mbxLockWrite (a : Agent) (m : Fin 64) (v : Word)
  /-- MAILBOX_WAIT_RELEASE (R354). -/
  | mailboxWaitRelease (t : Tid)
  /-- HOST_LINK_UP (R362). -/
  | hostLinkUp (rate : Nat) (width : Nat)
  /-- HOST_LINK_RESET (R396). -/
  | hostLinkReset
  /-- BAR4_RESIZE (R367). -/
  | bar4Resize (log2 : Nat)
  /-- BAR4_READ (R367). -/
  | bar4Read (off : Nat) (len : Nat)
  /-- BAR4_WRITE (R367). -/
  | bar4Write (off : Nat) (data : List Byte)
  /-- REGISTER_WRITE (R11). -/
  | registerWrite (a : Agent) (bar2 : Bool) (off : Nat) (bytes : Nat) (v : Word)
  /-- QUEUE0_CREATE (R373). -/
  | queue0Create (v : Word)
  /-- QUEUE0_DESTROY (R373). -/
  | queue0Destroy (v : Word)
  /-- QUEUE1_CREATE (R374). -/
  | queue1Create (a : Agent) (v : Word)
  /-- QUEUE1_DESTROY (R374). -/
  | queue1Destroy (a : Agent) (v : Word)
  /-- DOORBELL (R375). -/
  | doorbell (a : Agent) (bytes : Nat) (v : Word)
  /-- COMPLETION_DOORBELL (R377). -/
  | completionDoorbell (a : Agent) (bytes : Nat) (v : Word)
  /-- COMMAND_FETCH (R379). -/
  | commandFetch (b : Fin 2) (host : List (Option (List Byte)))
  /-- COMMAND_COMPLETE (R392). -/
  | commandComplete (q : Nat) (n : Nat) (err : Bool)
  /-- NOP (R385). -/
  | nopCmd (q : Nat) (n : Nat)
  /-- QUEUE_CREATE (R385). -/
  | queueCreate (q : Nat) (n : Nat)
  /-- QUEUE_DESTROY (R386). -/
  | queueDestroy (q : Nat) (n : Nat)
  /-- MEM_COPY (R387). -/
  | memCopy (q : Nat) (n : Nat) (host : Option (List Byte))
  /-- MEM_FILL (R387). -/
  | memFill (q : Nat) (n : Nat)
  /-- PROGRAM_LOAD (R388). -/
  | programLoad (q : Nat) (n : Nat) (host : Option (List Byte))
  /-- TASK_GRAPH_SUBMIT (R389). -/
  | taskGraphSubmit (q : Nat) (n : Nat) (host : Option (List Byte))
  /-- TASK_SIGNAL (R385). -/
  | taskSignal (q : Nat) (n : Nat)
  /-- TENSOR_BIND (R390). -/
  | tensorBind (q : Nat) (n : Nat)
  /-- PARAM_BIND (R430). -/
  | paramBind (q : Nat) (n : Nat)
  /-- REDUCE_JOB_OPEN (R426). -/
  | reduceJobOpen (q : Nat) (n : Nat)
  /-- REDUCE_JOB_CLOSE (R429). -/
  | reduceJobClose (q : Nat) (n : Nat)
  /-- SET_LATENCY_TOLERANCE (R507). -/
  | setLatencyTolerance (q : Nat) (n : Nat)
  /-- SET_PROFILE (R520). -/
  | setProfile (q : Nat) (n : Nat)
  /-- PROFILE_IN_FORCE (R520). -/
  | profileInForce
  /-- FAULT_LOG_READ (R479). -/
  | faultLogRead (q : Nat) (n : Nat)
  /-- FAULT_CLEAR (R480). -/
  | faultClear (q : Nat) (n : Nat)
  /-- ATTEST_QUOTE (R504). -/
  | attestQuote (q : Nat) (n : Nat)
  /-- FW_STAGE (R385). -/
  | fwStage (q : Nat) (n : Nat) (host : Option (List Byte))
  /-- FW_ACTIVATE (R499). -/
  | fwActivate (q : Nat) (n : Nat)
  /-- CHAIN_ENUMERATE (R413). -/
  | chainEnumerate (q : Nat) (n : Nat)
  /-- CHAIN_STATUS (R424). -/
  | chainStatus (q : Nat) (n : Nat)
  /-- CHAIN_RELEASE (R422). -/
  | chainRelease (q : Nat) (n : Nat)
  /-- PORT_TRAINING (R401). -/
  | portTraining (p : Fin 40) (r : Training)
  /-- DATA_FLIT (R403). -/
  | dataFlit (p : Fin 40) (flit : List Byte) (decoded : Bool)
  /-- HEARTBEAT (R420). -/
  | heartbeat (p : Fin 40) (hb : Beat)
  /-- NAK (R403). -/
  | nak (p : Fin 40) (seq : BitVec 16)
  /-- LANE_CONTROL (R404). -/
  | laneControl (p : Fin 40)
  /-- PORT_RETRAIN (R403). -/
  | portRetrain (p : Fin 40) (ok : Bool)
  /-- PORT_DOWN (R403). -/
  | portDown (p : Fin 40)
  /-- LANE_DEGRADE (R404). -/
  | laneDegrade (p : Fin 40) (lane : Fin 9)
  /-- HEARTBEAT_SEND (R406). -/
  | heartbeatSend (p : Fin 40)
  /-- HEARTBEAT_MISS (R416). -/
  | heartbeatMiss (p : Fin 40)
  /-- PROBE_TIMEOUT (R416). -/
  | probeTimeout (addr : BitVec 16)
  /-- HEAD_PROBE_TIMEOUT (R419). -/
  | headProbeTimeout (reach : List (BitVec 16))
  /-- READ (R408). -/
  | readPkt (p : Fin 40)
  /-- WRITE (R408). -/
  | writePkt (p : Fin 40)
  /-- ATOMIC (R408). -/
  | atomicPkt (p : Fin 40)
  /-- TOKEN_PACKET (R552). -/
  | tokenPacket (p : Fin 40)
  /-- READ_RESP (R408). -/
  | readResp (p : Fin 40)
  /-- ACK (R408). -/
  | ackPkt (p : Fin 40)
  /-- ERROR_RESP (R408). -/
  | errorResp (p : Fin 40)
  /-- FENCED (R421). -/
  | fencedPkt (p : Fin 40)
  /-- REROUTE (R421). -/
  | reroutePkt (p : Fin 40)
  /-- ENUM (R413). -/
  | enumPkt (p : Fin 40)
  /-- TOPO (R413). -/
  | topoPkt (p : Fin 40)
  /-- MEMBER (R415). -/
  | memberPkt (p : Fin 40)
  /-- PROBE (R416). -/
  | probePkt (p : Fin 40)
  /-- PROBE_RESP (R416). -/
  | probeResp (p : Fin 40)
  /-- JOIN (R414). -/
  | joinPkt (p : Fin 40)
  /-- CLAIM (R413). -/
  | claimPkt (p : Fin 40)
  /-- LEAVE (R422). -/
  | leavePkt (p : Fin 40)
  /-- RED_BF16 (R434). -/
  | redBf16 (p : Fin 40)
  /-- RED_BFP16 (R434). -/
  | redBfp16 (p : Fin 40)
  /-- GATHER (R445). -/
  | gatherPkt (p : Fin 40)
  /-- MIRROR (R450). -/
  | mirrorPkt (p : Fin 40)
  /-- MIRROR_ACK (R450). -/
  | mirrorAck (p : Fin 40)
  /-- NOJOB (R433). -/
  | nojobPkt (p : Fin 40)
  /-- RESTART (R451). -/
  | restartPkt (p : Fin 40)
  /-- STEP_ABORT (R447). -/
  | stepAbort (p : Fin 40)
  /-- CONTRIBUTION_DEADLINE (R435). -/
  | contributionDeadline (k : ChunkId)
  /-- PARTIAL_WAIT_EXPIRY (R436). -/
  | partialWaitExpiry (k : ChunkId)
  /-- FAULT_DETECTED (R456). -/
  | faultDetected (e : FaultEv)
  /-- HANDLING_START (R473). -/
  | handlingStart
  /-- HANDLING_END (R456). -/
  | handlingEnd
  /-- PREEMPT_TIMEOUT (R463). -/
  | preemptTimeout (l : Fin 68)
  /-- SPARE_SELF_TEST (R467). -/
  | spareSelfTest (l : Fin 68) (pass : Bool)
  /-- LATHE_POLL (R469). -/
  | lathePoll (l : Fin 68) (answered : Bool)
  /-- SUPERVISOR_MISMATCH (R460). -/
  | supervisorMismatch (pair : Fin 4) (pass : Bool)
  /-- FLT_STICKY_WRITE (R482). -/
  | fltStickyWrite (a : Agent) (n : Fin 8) (v : Word)
  /-- SCRUB (R321). -/
  | scrub (e : ScrubEv)
  /-- ROW_COPY_COMPLETE (R323). -/
  | rowCopyComplete
  /-- MEM_MODE_WRITE (R311). -/
  | memModeWrite (a : Agent) (v : Word)
  /-- MEM_MODE_APPLY (R311). -/
  | memModeApply
  /-- MEM_RINV_GO (R316). -/
  | memRinvGo (a : Agent)
  /-- INVALIDATION_COMPLETE (R316). -/
  | invalidationComplete
  /-- RAT_WRITE (R307). -/
  | ratWrite (a : Agent) (n : Fin 256) (lim : Bool) (v : Word)
  /-- RAT_WRITE_COMPLETE (R308). -/
  | ratWriteComplete
  /-- WORLD_WRITE (R487). -/
  | worldWrite (a : Agent) (reg : Fin 3) (v : Word)
  /-- WORLD_CHANGE_APPLY (R487). -/
  | worldChangeApply (blk : Nat)
  /-- SEC_VSTAT_CLEAR (R490). -/
  | secVstatClear (a : Agent)
  /-- SEC_EXTEND (R503). -/
  | secExtend (a : Agent) (v : Word)
  /-- DEV_RECOVERY_GO (R497). -/
  | devRecoveryGo (v : Word)
  /-- RECOVERY_CHECK_DONE (R497). -/
  | recoveryCheckDone
  /-- LATHE_IDLE (R509). -/
  | latheIdle (l : Fin 68)
  /-- A4_ENTRY (R511). -/
  | a4Entry
  /-- WAKE_COMPLETE (R508). -/
  | wakeComplete (l : Option (Fin 68))
  /-- POWER_SAMPLE (R519). -/
  | powerSample (watts : Nat) (limited : Bool)
  /-- THERMAL_SAMPLE (R521). -/
  | thermalSample (temps : Temps)
  /-- HARDWARE_SHUTDOWN (R524). -/
  | hardwareShutdown (die : Fin 6)
  /-- COMPACTION (R541). -/
  | compaction
  /-- COMPACTION_STEP_DONE (R541). -/
  | compactionStepDone
  /-- POWER_LOSS (R36). -/
  | powerLoss (torn : Nat)
  /-- BAR0_READ (R366). -/
  | bar0Read (bar2 : Bool) (off : Nat) (bytes : Nat)
  /-- COMPLETION_TIMEOUT (R363). -/
  | completionTimeout (q : Nat) (n : Nat)
  deriving DecidableEq, Repr

end Sys2Proof
end

