-- ==== Sys2Proof/Decode.lean ====
section
/-!
DEFINITION. Table words. No row of spec/opcode_table.json gives bits: the block takes commands, and a word spells none of them.
The words of core instructions stand in memory and in the commands' own operands (02 Table 2-4).
-/

namespace Sys2Proof

/-- The command that a word of the table spells: none. -/
def decodeTableWord (_nbits _w : Nat) : Option Instr := none

end Sys2Proof
end

