-- ==== Sys2Proof/Config.lean ====
section
/-!
DEFINITION. What the spec leaves open: constants without a body, so that no proof can see a value. Those with a `Nat` first
argument are applied to the free-value counter of the state, or to the operands they depend on (notes/assumptions/4.md).
-/

namespace Sys2Proof

/-- XINST of a trap raised before its word was fetched (02 R74, R97). -/
opaque Config.fetchWord : Nat → Word

/-- How many ns a read of DEV_TIME lags behind the counter; the model takes it modulo 21 (01 R29). -/
opaque Config.timeLag : Nat → Nat

/-- A byte that an engine of this device reads from another device (08 R294), or from memory whose contents the spec does not
give. -/
opaque Config.remoteByte : Nat → Byte

/-- Version of the boot ROM of a bench die (15 R502). -/
opaque Config.romVersion : Nat → BitVec 32

/-- Whether an SLH-DSA-SHAKE-256s signature verifies: public key, message, signature (15 R494). -/
opaque Config.slhVerify : List Byte → List Byte → List Byte → Bool

/-- Byte `k` of the hedged signature of quote `n` (15 R504). -/
opaque Config.slhSign : Nat → Nat → Byte

/-- Coefficient word `k` of the standard function image of a slot, forward (`false`) or derivative (07 R286). -/
opaque Config.standardImage : Nat → Bool → Nat → F32

/-- The controller's row that holds an address of a memory: unit kind, unit index, address (08 R323). -/
opaque Config.dramRow : Nat → Nat → Nat → Word

/-- The DRAM bank queue that serves a local address at its memory controller (08 R323, R324). -/
opaque Config.dramBank : Nat → Nat

/-- Where start-up firmware places an area of reserved HBM, in units of its alignment (04 DEV_SCALE_BASE, 15 SEC_VBASE). -/
opaque Config.firmwarePlace : Nat → Nat

/-- The trap base that the runtime gives a core (02 XTVEC). -/
opaque Config.trapBase : Nat → Word

/-- The cells of the boundary-scan register, and the signal of each: 1 to 3 the straps, 4 THERM_N, 5 FAULT_N, 6 READY, 7 PWR_OK,
8 PERST_N, 9 SMB_ALERT_N, any other number another covered signal (01 R51). -/
opaque Config.scanCells : Nat
opaque Config.scanSignal : Nat → Nat

/-- A choice that the device makes and the spec does not determine. -/
opaque Config.choice : Nat → Nat

end Sys2Proof
end

