-- ==== Sys2Proof/Machine/Maps.lean ====
section
/-!
DEFINITION. Sparse maps, bytes and bit fields: the plain data operations under every command. A map is read at its first
entry for a key and written in key order; memory keeps one canonical form, in which no cell holds the value that an unlisted
address reads as (0, 17 R531 and 08 R299).
-/

namespace Sys2Proof.Machine

/-- The value at key `k`, if it is listed. -/
def mget? {α : Type} : SMap α → Nat → Option α
  | [], _ => none
  | (j, v) :: r, k => if j = k then some v else mget? r k

/-- The value at key `k`, or `d`. -/
def mget {α : Type} (m : SMap α) (k : Nat) (d : α) : α := (mget? m k).getD d

/-- The map with `v` at key `k`. -/
def mset {α : Type} : SMap α → Nat → α → SMap α
  | [], k, v => [(k, v)]
  | (j, w) :: r, k, v =>
    if j = k then (k, v) :: r else if k < j then (k, v) :: (j, w) :: r else (j, w) :: mset r k v

/-- The map without key `k`. -/
def mdel {α : Type} (m : SMap α) (k : Nat) : SMap α := m.filter (fun p => p.1 != k)

/-- The map with the value at `k` changed by `f`, from `d` where it is not listed. -/
def mmod {α : Type} (m : SMap α) (k : Nat) (d : α) (f : α → α) : SMap α := mset m k (f (mget m k d))

/-- Bits [lo+n-1:lo] of a natural number. -/
def nbits (x lo n : Nat) : Nat := (x >>> lo) % 2 ^ n

/-- Bits [lo+n-1:lo] of a word, as a number. -/
def wbits (x : Word) (lo n : Nat) : Nat := nbits x.toNat lo n

/-- `x` with bits [lo+n-1:lo] replaced by the low `n` bits of `v`. -/
def wput (x : Word) (lo n : Nat) (v : Word) : Word :=
  let m : Word := BitVec.ofNat 64 (2 ^ n - 1) <<< lo
  (x &&& ~~~m) ||| ((v <<< lo) &&& m)

/-- A flag as a bit at position `p`. -/
def flagAt (b : Bool) (p : Nat) : Word := if b then (1 : Word) <<< p else 0

/-- Little-endian value of a list of bytes (00 R7). -/
def leNat : List Byte → Nat
  | [] => 0
  | b :: r => b.toNat + 256 * leNat r

/-- The `n` little-endian bytes of `v`. -/
def leBytes : Nat → Nat → List Byte
  | 0, _ => []
  | n + 1, v => BitVec.ofNat 8 v :: leBytes n (v / 256)

/-- The little-endian word that begins at byte `off` of a list and is `n` bytes long; bytes beyond the list are 0. -/
def leAt (d : List Byte) (off n : Nat) : Nat := leNat ((d.drop off).take n)

/-- `d` written into `l` at offset `off`. -/
def putAt {α : Type} (l : List α) (off : Nat) (d : List α) : List α :=
  l.take off ++ d ++ l.drop (off + d.length)

/-- `l` with entry `k` set to `v`, filled with `z` up to it. -/
def listSet {α : Type} (z : α) : List α → Nat → α → List α
  | [], 0, v => [v]
  | [], k + 1, v => z :: listSet z [] k v
  | _ :: r, 0, v => v :: r
  | a :: r, k + 1, v => a :: listSet z r k v

/-- Pairs of a list element and its index. -/
def indexed {α : Type} (l : List α) : List (Nat × α) := (List.range l.length).zip l

/-- `l` cut into pieces of `n`; the count of pieces bounds the recursion. -/
def pieces {α : Type} (n : Nat) : Nat → List α → List (List α)
  | 0, _ => []
  | k + 1, l => l.take n :: pieces n k (l.drop n)

/-- ceil(a / b). -/
def cdiv (a b : Nat) : Nat := (a + b - 1) / b

/-- Number of bits of `m`: 0 for 0, else floor(log2 m) + 1. -/
def bitLen (m : Nat) : Nat := if m = 0 then 0 else Nat.log2 m + 1

/-! ## Memory cells -/

/-- The byte at local address `a`; an unlisted address reads 0. -/
def cellGet (m : List (Nat × Byte)) (a : Nat) : Byte := mget m a 0

/-- Write one byte, keeping the canonical form. -/
def cellSet (m : List (Nat × Byte)) (a : Nat) (b : Byte) : List (Nat × Byte) :=
  if b = 0 then mdel m a else mset m a b

/-- The `n` bytes from address `a`. -/
def cellRead (m : List (Nat × Byte)) (a n : Nat) : List Byte := (List.range n).map (fun k => cellGet m (a + k))

/-- Write bytes from address `a` on. -/
def cellWrite : List (Nat × Byte) → Nat → List Byte → List (Nat × Byte)
  | m, _, [] => m
  | m, a, b :: r => cellWrite (cellSet m a b) (a + 1) r

/-- The canonical form: addresses strictly rising, and no cell holds 0. -/
def cellsWf : List (Nat × Byte) → Bool
  | [] => true
  | [(_, b)] => b != 0
  | (a, b) :: (a', b') :: r => b != 0 && (decide (a < a') && cellsWf ((a', b') :: r))

end Sys2Proof.Machine
end

