-- ==== Sys2Proof/Machine/State.lean ====
section
/-!
DEFINITION. The state of the TK48 block as plain data, the reasons a step can stop, and the state after reset: before the
device's first start, with both pins low (01 R35). A field that the spec resets to a stated value has that value here; a field
for which it states none has the value named in notes/assumptions/3.md.
-/

namespace Sys2Proof.Machine

/-! ## Threads and cores (02) -/

/-- Privilege levels (02 R88). -/
inductive Level where
  | u | k | s
  deriving DecidableEq, Repr

/-- What a WAITING thread waits for (02 Table 2-2, 05 Table 5-9, and the waits named in 03, 07, 09, 14, 16). -/
inductive Wait where
  /-- instruction cache line absent: that of the PC, or (`next`) of the word after it, which a REP repeats -/
  | fetch (next : Bool)
  /-- load data due and absent; `all`: a trap or XRET waits for every pending load (02 R97, R100) -/
  | loadData (all : Bool)
  | storeBuffer
  | longLatency
  | fence
  | bank
  /-- MBXSEND or MBXRECV on mailbox m, end e; words the send needs -/
  | mbx (m : Nat) (e : Nat) (send : Bool) (words : Nat)
  /-- interlock or storage of a TCFG: its word, and its changed tiles with rows, cols, fmt; `granted`: not interruptible -/
  | tcfg (inst : Word) (shapes : List (Nat × Nat × Nat × Nat)) (granted : Bool)
  /-- tile context owned by another thread -/
  | tileContext
  | tileQueue
  | lvQueue
  /-- TREL of the named tiles -/
  | trel (mask : BitVec 10)
  /-- an instruction that acts after the thread's queues are empty: TOKEN, DONE, LV.RED, TAMAX, LVLD, LVST, CORE_FPCSR -/
  | queues
  /-- a release point behind earlier stores and atomics (08 R314) -/
  | stores
  /-- elements of an LVLD or LVST in flight -/
  | lvAccess
  /-- VLD or VGATHER data in flight -/
  | vecLoad
  /-- elements of a VST or VSCATTER on other devices not yet answered -/
  | vecStore
  /-- a record or image on another device -/
  | record
  /-- FTAB waiting or loading slot k -/
  | ftab (slot : Nat) (addr : Word)
  /-- lathe asleep (16 R512) -/
  | wake (l : Nat)
  /-- an MRDIMM granule not yet zeroed (17 R531), or a DRAM row being copied (08 R323) -/
  | memory
  /-- poison met (08 R320) -/
  | poison
  /-- double trap (02 R99) -/
  | doubleTrap
  /-- DONE issued; completion under way (09 R342) -/
  | completing
  /-- the lathe is fenced (14 R470) -/
  | latheFenced
  deriving DecidableEq, Repr

/-- Thread states (02 Table 2-1). -/
inductive TState where
  | idle | ready | running
  | waiting (w : Wait)
  deriving DecidableEq, Repr

/-- The operation of an atomic (02 R551). -/
inductive AmoKind where
  | add | swap | cas
  deriving DecidableEq, Repr

/-- A repeat in progress: the prefix at `a`, its kind, step register and stride, repetitions left, repeated word (02 R82). -/
structure Rep where
  a : Word
  intr : Bool
  step : Nat
  stride : BitVec 16
  n : Nat
  word : Word
  /-- a repetition has issued and waits for its result; its step follows the write (02 R85) -/
  held : Bool := false
  deriving DecidableEq, Repr

/-- A load or atomic whose value is not yet in its register (02 R79). -/
structure PendLoad where
  dst : Nat
  /-- instructions the thread must still issue before the value is visible -/
  cnt : Nat
  addr : Word
  size : Nat
  signed : Bool
  amo : Option (AmoKind × Word × Word)
  /-- bytes forwarded from the thread's own store buffer: address and byte -/
  fwd : List (Nat × Byte)
  /-- the value, once the data has arrived -/
  val : Option Word
  /-- the value that the memory has given and that is on its way -/
  got : Option Word := none
  /-- the bank queue that holds its request (08 R324), and the request's place in the order of first presentations (R326) -/
  bank : Option Nat := none
  age : Nat := 0
  /-- tag of the chain request, for a remote access -/
  tag : Option (BitVec 16)
  /-- address and word of the load, for an error response -/
  pc : Word
  inst : Word
  /-- issued between a trap's entry and its XRET -/
  inTrap : Bool := false
  /-- the repetition that issued it, and the step register then (02 R87) -/
  rep : Option (Rep × Word) := none
  deriving DecidableEq, Repr

/-- A store that has issued and is not yet performed (02 R54). -/
structure StoreEnt where
  addr : Word
  data : List Byte
  /-- address and word of the store, for an error response -/
  pc : Word
  inst : Word
  /-- issued between a trap's entry and its XRET -/
  inTrap : Bool := false
  deriving DecidableEq, Repr

/-- A write performed or sent and not yet complete (08 R313): the chain tag of a remote one, the bank queue of a local one. -/
structure InFlight where
  tag : Option (BitVec 16)
  bank : Option Nat := none
  deriving DecidableEq, Repr

/-- An active element of a VLD or VGATHER in flight: its address, the tag of its READ while one is out to another device, its
value or the cause of its fault. An element with none of the three is not yet read (03 R130). -/
structure VecPart where
  elem : Nat
  addr : Word
  tag : Option (BitVec 16)
  val : Option Nat
  err : Option Nat
  deriving DecidableEq, Repr

/-- A VLD or VGATHER whose elements have not all arrived (03 R125). -/
structure VecLoad where
  gather : Bool
  d : Nat
  /-- element width in bits -/
  w : Nat
  parts : List VecPart
  inst : Word
  deriving DecidableEq, Repr

/-- A line of another device that an LVLD or LVST accesses: the tag of its request while it is out, its bytes or the code of its
error response. -/
structure LvLine where
  line : Word
  tag : Option (BitVec 16)
  data : List Byte
  err : Option Nat
  deriving DecidableEq, Repr

/-- A VST or VSCATTER with elements on other devices, each of which answers before the next is sent (03 R124, R129, R130). -/
structure VecStore where
  scatter : Bool
  /-- elements whose targets a READ asks first, so that a VST that faults stores nothing -/
  probes : List (Nat × Word)
  /-- elements still to be stored, in order, with their bytes -/
  elems : List (Nat × Word × List Byte)
  /-- tag of the request that is out -/
  tag : Option (BitVec 16)
  /-- the element behind them whose checks failed: its number, cause and address -/
  bad : Option (Nat × Nat × Word)
  inst : Word
  /-- the last element stored -/
  last : Option Word := none
  deriving DecidableEq, Repr

/-- A trap of an access whose error response came after the access had issued. -/
structure LateErr where
  cause : Nat
  xtval : Word
  pc : Word
  inst : Word
  /-- the access issued between a trap's entry and its XRET -/
  inTrap : Bool
  /-- the repetition that issued it, and the step register then -/
  rep : Option (Rep × Word)
  deriving DecidableEq, Repr

/-- The snapshot of a firing (09 R337). -/
structure Snapshot where
  desc : Word
  entry : Word
  win : List (Word × Word × BitVec 4)
  arg0 : Word
  arg1 : Word
  affinity : BitVec 128
  step : BitVec 32
  seed : Word
  flags : Byte
  seq : Option (Word × Word × Word)
  firedAt : Word
  deriving DecidableEq, Repr

/-- A task on a thread: its snapshot, its staged tokens (address, arm), abandonments of this firing, and faults that count
under 14 Table 14-2. -/
structure TaskRun where
  snap : Snapshot
  staged : List (Word × Bool) := []
  abandoned : Nat := 0
  strikes : Nat := 0
  deriving DecidableEq, Repr

/-- An address window (02 CORE_WBASE, CORE_WLIM, CORE_WATTR): first and last 64-byte granule, v x w r. -/
structure Window where
  base : BitVec 58 := 0
  limit : BitVec 58 := 0
  attr : BitVec 4 := 0
  deriving DecidableEq, Repr

/-- A hardware thread (02 R52). -/
structure Thread where
  st : TState := .idle
  pc : Word := 0
  g : SMap Word := []
  p : SMap (BitVec 16) := []
  v : SMap (BitVec 128) := []
  level : Level := .u
  /-- CORE_FPCSR: nv dz of uf nx in [9:5], rm in [1:0] -/
  fpcsr : Word := 0
  tk16 : Bool := false
  vprog : BitVec 5 := 0
  tfault : Word := 0
  nest : Bool := false
  tl : Bool := false
  ppl : Level := .u
  pie : Bool := false
  ie : Bool := false
  xepc : Word := 0
  xcause : Word := 0
  xtval : Word := 0
  xinst : Word := 0
  xscratch : Word := 0
  xrep : Word := 0
  xdlyc : Word := 0
  xdly0 : Word := 0
  xdly1 : Word := 0
  ieMbx : Bool := false
  ieTim : Bool := false
  ipPre : Bool := false
  ipTim : Bool := false
  tcmp : Word := 0xFFFFFFFFFFFFFFFF#64
  coreTask : Word := 0
  win : SMap Window := []
  loads : List PendLoad := []
  sbuf : List StoreEnt := []
  inflight : List InFlight := []
  /-- the write of a general register that a long-latency instruction makes when it ends: register, value -/
  result : Option (Nat × Word) := none
  vld : Option VecLoad := none
  vst : Option VecStore := none
  rep : Option Rep := none
  /-- repetitions left of a repeat that XRET resumes (02 R87) -/
  resume : Option Nat := none
  task : Option TaskRun := none
  /-- a bank has accepted the thread's refused request (08 R325): the bank, and the request's place in the order -/
  bankGrant : Option (Nat × Nat) := none
  /-- a line that arrived for this thread alone, which no cache keeps (08 Table 8-4, UC) -/
  fetched : List Nat := []
  /-- lines of a record or image on another device -/
  recLines : List LvLine := []
  /-- its instruction has entered a wait that is not interruptible: no interrupt comes before the instruction's end (02 R96) -/
  bound : Bool := false
  /-- its writes of RAT registers that are not yet complete (08 R308) -/
  ratWrites : Nat := 0
  /-- DEV_TIME at which CORE_IP.pre was set for abandonment (14 R463) -/
  preemptAt : Option Word := none
  /-- traps of accesses whose error response came late, oldest first; the next boundary takes one -/
  late : List LateErr := []
  deriving DecidableEq, Repr

/-- A way of a cache set: tag, reference bit, age (08 R317). -/
structure Way where
  tag : Nat
  ref : Bool
  age : Nat
  deriving DecidableEq, Repr

/-- A tile register or accumulator tile (05 R189, R191): shape 0 x 0 is unconfigured; an element beyond `data` is +0.0. -/
structure Tile where
  rows : Nat := 0
  cols : Nat := 0
  fmt : BitVec 4 := 0
  loaded : Bool := false
  /-- element codes, row-major -/
  data : List F32 := []
  /-- block exponents, row-major; beyond the list -127 -/
  exps : List Int := []
  version : Nat := 0
  deriving DecidableEq, Repr

/-- A tensor descriptor as an instruction reads it (04 Table 4-9). -/
structure TDesc where
  at_ : Word
  data : Word
  shift : Word
  escape : Word
  rows : Nat
  cols : Nat
  tensor : BitVec 16
  fmt : BitVec 4
  base : Int
  initBase : Int
  escGroup : Nat
  deriving DecidableEq, Repr

/-- Kinds of tile-queue operations (05 R224). -/
inductive TileKind where
  | tld | tst | tzero | tmma
  deriving DecidableEq, Repr

/-- A queued tile operation with the operands it read at issue. `seq` orders it among the context's queued work. -/
structure TileOp where
  seq : Nat
  thread : Nat
  kind : TileKind
  d : Nat
  s1 : Nat := 0
  s2 : Nat := 0
  desc : Option TDesc := none
  r0 : Nat := 0
  c0 : Nat := 0
  tr : Bool := false
  conv : Bool := false
  rm : BitVec 2 := 0
  k : Nat := 0
  band : Nat := 0
  shallow : Bool := false
  /-- TMMA: changes of shape written before its issue (06 R251) -/
  gen : Nat := 0
  escapes : Bool := false
  seed : Word := 0
  step : BitVec 32 := 0
  /-- TST: the base exponent drawn at issue (04 R184) -/
  base : Int := 0
  /-- TMMA: its pass has been granted -/
  granted : Bool := false
  deriving DecidableEq, Repr

/-- A drain record (07 Table 7-2) with the descriptors, bias and scale addresses it names. -/
structure Drain where
  rec_ : Word
  out : Option TDesc
  save : Option TDesc
  bias : Word
  cscale : Word
  alpha : F32
  fnEn : Bool
  outTile : Option Nat
  outTr : Bool
  outMerge : Option (BitVec 16)
  saveEn : Bool
  saveTile : Option Nat
  saveTr : Bool
  saveMerge : Option (BitVec 16)
  z : Bool
  /-- base exponents drawn at issue (04 R184) -/
  outBase : Int
  saveBase : Int
  deriving DecidableEq, Repr

/-- Kinds of finishing-queue operations (03 R147, 07 R270). -/
inductive FinKind where
  | alu | cmp | mask | tdrain | fapply | fderiv
  deriving DecidableEq, Repr

/-- A queued long-vector or finishing operation with the operands it read at issue. -/
structure FinOp where
  seq : Nat
  thread : Nat
  kind : FinKind
  d : Nat
  s1 : Nat := 0
  s2 : Nat := 0
  sub : Nat := 0
  scalar : Option F32 := none
  rm : BitVec 2 := 0
  me : Bool := false
  mreg : Nat := 0
  slot : Nat := 0
  tile : Bool := false
  bare : Bool := false
  drain : Option Drain := none
  r0 : Nat := 0
  c0 : Nat := 0
  escapes : Bool := false
  seed : Word := 0
  step : BitVec 32 := 0
  /-- threads whose FTAB of the slot holds the operation back (07 R285) -/
  hold : List Nat := []
  deriving DecidableEq, Repr

/-- What a drain that has run still merges when it ends (07 R275): tensor, amax, non-finite count. -/
structure DrainEnd where
  out : Option (BitVec 16 × F32 × Nat)
  save : Option (BitVec 16 × F32 × Nat)
  step : BitVec 32
  deriving DecidableEq, Repr

/-- An LVLD or LVST in flight. -/
structure LvAccess where
  thread : Nat
  store : Bool
  d : Nat
  addr : Word
  stride : Int
  fmt : BitVec 4
  rm : BitVec 2
  me : Bool
  mreg : Nat
  key : Word
  src : Nat
  seed : Word
  step : BitVec 32
  inst : Word
  lines : List LvLine := []
  deriving DecidableEq, Repr

/-- A core: what its eight threads share (02, 05 R189, 03 R134). `lines`: those of other devices that the operation at the head of
its tile or finishing queue has asked for. -/
structure Core where
  lines : List LvLine := []
  inService : Bool := true
  running : Option Nat := none
  /-- the thread that left last (02 R55) -/
  last : Nat := 7
  /-- L1 instruction cache: set number to ways -/
  icache : SMap (List Way) := []
  /-- PROGRAM_LOAD has marked the instruction cache for discard (10 R388) -/
  discard : Bool := false
  xtvec : Word := 0
  owner : Option Nat := none
  /-- t0-t7 are 0-7, acc0 and acc1 are 8 and 9 -/
  tiles : SMap Tile := []
  lv : SMap Lanes := []
  lm : SMap (BitVec 512) := []
  tileQ : List TileOp := []
  finQ : List FinOp := []
  drainEnd : Option DrainEnd := none
  lvAccess : Option LvAccess := none
  nextSeq : Nat := 0
  deriving DecidableEq, Repr

/-! ## Lathes (05, 06, 07, 09, 14, 16) -/

/-- Service state of a lathe, as FLT_LATHEn.state codes it (14). -/
inductive Svc where
  | inService | spare | retired | fenced | underTest
  deriving DecidableEq, Repr

/-- A function table (07 Table 7-4). -/
structure FTable where
  lo : F32
  hi : F32
  scale : F32
  la : F32
  lb : F32
  ra : F32
  rb : F32
  coef : List (F32 × F32 × F32)
  deriving DecidableEq, Repr

/-- A loaded function slot (07 R280, R284). -/
structure FSlot where
  ident : BitVec 32
  fwd : FTable
  der : FTable
  deriving DecidableEq, Repr

/-- A pass whose checks are not yet made: the accumulator it changes, what it held, what the pass leaves (06 R260). -/
structure Pass where
  core : Nat
  acc : Nat
  held : Tile
  result : Tile
  /-- 8-bit or 4-bit class -/
  exact : Bool
  /-- the checks of the pass hold on sound hardware (06 R258) -/
  inTol : Bool
  /-- some check of the pass is made (06 R259) -/
  checked : Bool := true
  /-- ARR_TOL.ulps at its grant -/
  ulps : Nat := 0
  /-- elements per cell, and the reduction length (06 R235) -/
  pack : Nat := 1
  k : Nat := 0
  deriving DecidableEq, Repr

/-- Stages of catch handling (06 Table 6-5). -/
inductive CatchStage where
  | retry | localise | selfTest | last
  /-- step 9: the lathe's retirement has been asked for -/
  | dead
  deriving DecidableEq, Repr

/-- A catch being handled. -/
structure Catch where
  band : Nat
  stage : CatchStage
  /-- step 6 ran: physical row, column removed -/
  remap : Option (Nat × Nat)
  deriving DecidableEq, Repr

/-- The weight latch of a band (05 R230). -/
structure Latch where
  core : Nat
  tile : Nat
  version : Nat
  k : Nat
  deriving DecidableEq, Repr

/-- The activation latch of a feeder (05 R230). -/
structure RowLatch where
  core : Nat
  tile : Nat
  version : Nat
  /-- the rows read: one block, as a pass reads the whole tile -/
  block : Nat
  deriving DecidableEq, Repr

/-- The array of a lathe (06). -/
structure ArrayUnit where
  removedRows : List Nat := []
  removedCols : List Nat := []
  shallow : Bool := false
  running : Bool := false
  passes : SMap Pass := []
  caught : Option Catch := none
  /-- bands whose catch waits (06 R266) -/
  catchQ : List Nat := []
  /-- core granted last, and its run of latch matches, per band (06 R252) -/
  last : SMap Nat := []
  streak : SMap Nat := []
  latch : SMap Latch := []
  rowLatch : Option RowLatch := none
  /-- changes of shape that have applied, and the shapes written since, in order (06 R251) -/
  gen : Nat := 0
  shapeQ : List Bool := []
  deriving DecidableEq, Repr

/-- A task in a queue: its snapshot and what earlier runs of the firing counted. -/
structure Queued where
  snap : Snapshot
  replay : Bool
  abandoned : Nat
  strikes : Nat
  deriving DecidableEq, Repr

/-- A lathe. -/
structure Lathe where
  svc : Svc := .spare
  epoch : BitVec 16 := 0
  /-- the epoch the lathe's own requests carry (14 R470) -/
  carried : BitVec 16 := 0
  world : World := .ns
  /-- A0 to A3 (16 Table 16-1) -/
  power : Nat := 0
  /-- the lathe is waking -/
  waking : Bool := false
  spareCores : Nat := 4
  /-- FIFOs by priority (09 R340) -/
  queue : SMap (List Queued) := []
  /-- waiting TCFGs, oldest first: core and thread (05 R202) -/
  tcfgQ : List (Nat × Nat) := []
  tileFree : Nat := 4096
  accFree : Nat := 2048
  arr : ArrayUnit := {}
  slots : SMap FSlot := []
  /-- missed polls (14 R469) -/
  polls : Nat := 0
  /-- a retirement has been decided: no task is placed (14 Table 14-5) -/
  retiring : Bool := false
  /-- retired for a fault of its own: it never returns as a spare (14 R471) -/
  ownFault : Bool := false
  idleNoted : Bool := false
  /-- DEV_TIME at which the lathe entered its power state (16 R511) -/
  powerSince : Word := 0
  deriving DecidableEq, Repr

/-! ## Memory (08) -/

/-- A copy of a remote line in the die cache of lathe die `die` (08 R316). -/
structure RCopy where
  die : Nat
  line : Nat
  data : List Byte
  deriving DecidableEq, Repr

/-- A way of a data cache: the number of the line it holds, with the reference bit and age of R317; the line's data is that of
memory, which the caches keep coherent (R312). `dirty`: not yet written to the level below, by the task of thread `writer`.
`out`: taken out of use until the next start (R319). -/
structure DWay where
  line : Option Nat := none
  ref : Bool := false
  age : Nat := 3
  dirty : Bool := false
  writer : Option Nat := none
  out : Bool := false
  deriving DecidableEq, Repr

/-- The data caches (Table 8-3), set number to ways: the L1 data caches by 64 * core + set, the LM caches by 16,384 * lathe + set,
the die caches by (32 * die + slice) * 1,536 + set. -/
structure Caches where
  l1d : SMap (List DWay) := []
  lm : SMap (List DWay) := []
  die : SMap (List DWay) := []
  deriving DecidableEq, Repr

/-- Corrected errors of a DRAM row and its retirement (08 R323). -/
structure DramRow where
  kind : Byte
  index : BitVec 16
  row : Word
  times : List Word
  spare : Option Nat
  deriving DecidableEq, Repr

/-- A request that a bank queue refused (08 R325): of the thread's waiting instruction, or of the oldest entry of its store
buffer. -/
structure BankWait where
  bank : Nat
  requester : Nat
  thread : Tid
  store : Bool := false
  age : Nat := 0
  deriving DecidableEq, Repr

/-- Memory and what governs it. `cells` is canonical: addresses strictly rising, no cell zero. -/
structure Mem where
  cells : List (Nat × Byte) := []
  /-- poisoned 64-byte lines, by local line address -/
  poison : List Nat := []
  rcopies : List RCopy := []
  modeE : Bool := false
  lmCache : Nat := 12
  /-- 4 KiB MRDIMM granules zeroed since DEV_READY (17 R531) -/
  zeroed : Nat := 0
  rinvBusy : Bool := false
  /-- RAT values in force: key 2i is RAT_BASEi, 2i+1 RAT_LIMi, 512 MEM_RATDEF (08 R308) -/
  rat : SMap Word := []
  /-- RAT writes not yet complete, oldest first, each with the thread that made it, if one did -/
  ratPend : List (Nat × Word × Option Tid) := []
  rows : List DramRow := []
  /-- rows that are copied, or wait to be, oldest first (R323) -/
  rowCopy : List (Byte × BitVec 16 × Word) := []
  bankWait : List BankWait := []
  /-- requests presented to bank queues so far (R326) -/
  presented : Nat := 0
  deriving DecidableEq, Repr

/-! ## Mailboxes (09) -/

/-- One end of a mailbox: messages queued toward it (each its words, header first), the words left of a message read in part,
words staged toward it, and its sticky bits. -/
structure MbxEnd where
  msgs : List (List (BitVec 32)) := []
  part : List (BitVec 32) := []
  staged : List (BitVec 32) := []
  aborted : Bool := false
  full : Bool := false
  deriving DecidableEq, Repr

structure Mailbox where
  e0 : MbxEnd := {}
  e1 : MbxEnd := {}
  owner : BitVec 16 := 0
  underrun : Bool := false
  lockViol : Bool := false
  world : World := .ns
  deriving DecidableEq, Repr

/-! ## Host interface (10) -/

inductive QState where
  | active | destroying | stopped
  deriving DecidableEq, Repr

/-- A queue context (10 Table 10-5). A free queue ID has none. -/
structure Queue where
  cmd : Word
  cmdHost : Bool
  cqLog2 : Nat
  cpl : Word
  cplHost : Bool
  cplLog2 : Nat
  prod : BitVec 24
  cons : BitVec 24
  tail : BitVec 24
  head : BitVec 24
  irq : Bool
  vec : BitVec 11
  world : World
  st : QState
  deriving DecidableEq, Repr

/-- Where a copy takes its bytes: what a host source returned, a repeated pattern, or device memory. -/
inductive MoveSrc where
  | bytes (d : List Byte)
  | pattern (p : Word)
  | mem (a : Word)
  deriving DecidableEq, Repr

/-- A MEM_COPY, MEM_FILL or PROGRAM_LOAD with an end on another device, at work on one line of its destination (10 R387). -/
structure Move where
  src : MoveSrc
  dst : Word
  /-- the destination is host memory -/
  host : Bool
  n : Nat
  /-- bytes written, in order -/
  at_ : Nat := 0
  /-- the request whose answer it awaits -/
  tag : Option (BitVec 16) := none
  /-- the bytes of the line, read and not yet written -/
  got : Option (List Byte) := none
  deriving DecidableEq, Repr

/-- What a command in progress waits for before its record can be written. -/
inductive CmdWait where
  /-- fetched, not started -/
  | fetched
  /-- takes time; its record is due at COMMAND_COMPLETE -/
  | busy
  /-- a sink's completion (10 R389) -/
  | sink (desc : Word)
  /-- a reduction step (12 R446) -/
  | bind (job : Nat) (shard : Nat) (step : BitVec 32)
  /-- a job closing (12 R429) -/
  | close (job : Nat)
  | enumeration
  /-- the end of a queue's commands (10 R386) -/
  | destroy (q : Nat)
  | profile
  /-- the accesses of a copy to another device (10 R387) -/
  | move (m : Move)
  /-- the ACK of a remote token (09 R552) -/
  | remoteToken (tag : BitVec 16)
  /-- the record is due -/
  | done
  deriving DecidableEq, Repr

/-- A fetched command: queue, index, packet, time of fetch, and the outcome gathered so far. -/
structure Cmd where
  q : Nat
  n : BitVec 24
  packet : List Byte
  fetchedAt : Word
  /-- FLT_SEQ at the fetch (14 R480) -/
  fltSeq : Word
  wait : CmdWait := .fetched
  status : Byte := 0
  result : BitVec 32 := 0
  aux : Word := 0
  ldrop : Bool := false
  /-- the queue was stopped, or reset with the host link: the record is discarded -/
  discard : Bool := false
  /-- the queue was reset with the host link: host reads fail and host writes are discarded (10 R396) -/
  linkLost : Bool := false
  deriving DecidableEq, Repr

/-- An entry of the MSI-X table (10 R363). -/
structure MsixEntry where
  addr : Word := 0
  data : BitVec 32 := 0
  masked : Bool := true
  deriving DecidableEq, Repr

structure HostIf where
  linkUp : Bool := false
  /-- the uncorrectable error status of Advanced Error Reporting (10 R363); bit 20: unsupported request -/
  aer : BitVec 32 := 0
  rate : Nat := 0
  width : Nat := 0
  /-- BAR4 size is 2^bar4Log2 GiB -/
  bar4Log2 : Nat := 6
  msix : SMap MsixEntry := []
  /-- vectors pending in the PBA -/
  pba : List Nat := []
  queues : SMap Queue := []
  cmds : List Cmd := []
  /-- ready lists of the two host complexes (10 R379) -/
  ready0 : List Nat := []
  ready1 : List Nat := []
  /-- remote list entries of TASK_GRAPH_SUBMITs not yet answered: queue, index, chain tag, arm -/
  tokenWait : List (Nat × BitVec 24 × BitVec 16 × Bool) := []
  deriving DecidableEq, Repr

/-! ## Chain (11) -/

/-- A chain packet (11 Table 11-3). -/
structure Packet where
  dst : BitVec 16
  src : BitVec 16
  epoch : BitVec 16
  type : Byte
  vc : Nat
  hops : BitVec 12
  tag : BitVec 16
  job : BitVec 12
  addr : BitVec 48
  ext : Word
  payload : List Byte
  deriving DecidableEq, Repr

inductive PState where
  | down | training | up | up4 | partnerFenced
  deriving DecidableEq, Repr

/-- A chain port (11 R397 to R406). -/
structure Port where
  st : PState := .down
  partner : BitVec 16 := 0
  pport : BitVec 8 := 0xFF#8
  pol : BitVec 9 := 0
  rev : Bool := false
  /-- degraded lanes, in the order found -/
  degraded : List Nat := []
  spareUsed : Bool := false
  /-- a lane move not yet agreed (11 R404) -/
  moving : Bool := false
  /-- lane 8 carries a lane that this end transmits and the partner found degraded -/
  txSpare : Bool := false
  /-- at width 4, with the lanes in use where the repair map gives them (17 Table 17-8) -/
  narrow : Bool := false
  width4 : List Nat := []
  txSeq : BitVec 16 := 0
  rxSeq : BitVec 16 := 0
  /-- sent flits not acknowledged: sequence number and packet bytes, oldest first, at most 512 -/
  replay : List (BitVec 16 × List Byte) := []
  naks : Nat := 0
  nakSeq : BitVec 16 := 0
  /-- NAKs received in a row for one sequence number -/
  txNaks : Nat := 0
  txNakSeq : BitVec 16 := 0
  miss : Nat := 0
  /-- packet bytes received and not yet a whole packet -/
  rx : List Byte := []
  deriving DecidableEq, Repr

/-- A membership record (11 R415): epoch, head, members and spares with serial numbers, addresses changed by the last 16
transitions (the epoch each led to), and the topology: device, port, partner, partner's port. -/
structure Membership where
  epoch : BitVec 16
  head : BitVec 16
  members : List (BitVec 16 × Word)
  spares : List (BitVec 16 × Word)
  trans : List (BitVec 16 × List (BitVec 16))
  topo : List (BitVec 16 × Nat × BitVec 16 × Nat)
  deriving DecidableEq, Repr

/-- Who waits for the answer of a chain request (11 R408). -/
inductive Origin where
  | load (t : Tid)
  /-- a store of a thread -/
  | store (t : Tid) (e : StoreEnt)
  /-- an element of a VLD or VGATHER -/
  | vec (t : Tid)
  /-- an element of a VST or VSCATTER -/
  | vecStore (t : Tid)
  /-- a line of an LVLD or LVST -/
  | lv (t : Tid)
  /-- a line that the operation at the head of a queue of `t`'s core reads -/
  | path (t : Tid)
  /-- a line of the record or image that an instruction of `t` reads -/
  | record (t : Tid)
  /-- bytes at `w` that a tile or drain operation of `t` writes -/
  | pathWrite (t : Tid) (w : Word)
  /-- a line of the copy of command `n` of queue `q` -/
  | mover (q : Nat) (n : BitVec 24)
  /-- an access of an engine or command for whose error responses the spec states no outcome -/
  | engine
  /-- a staged or host-sent token -/
  | token
  | cmdToken (q : Nat) (n : BitVec 24) (arm : Bool) (graph : Bool)
  deriving DecidableEq, Repr

structure Outstanding where
  tag : BitVec 16
  dst : BitVec 16
  origin : Origin
  /-- the request, for a resend -/
  pkt : Packet
  /-- the port it left by; none while it is held -/
  port : Option Nat := none
  /-- a READ of a whole line: this device's own stores to the line since it was sent (08 R316) -/
  own : List (Nat × Byte) := []
  /-- the line may be kept as a copy when it arrives -/
  keep : Bool := true
  deriving DecidableEq, Repr

inductive ChState where
  | unaddressed | enumerating | member | spare | fenced
  deriving DecidableEq, Repr

structure Chain where
  st : ChState := .unaddressed
  addr : BitVec 16 := 0xFFFF#16
  epoch : BitVec 16 := 0
  head : BitVec 16 := 0
  rec_ : Option Membership := none
  adoptedAt : Word := 0
  ports : SMap Port := []
  /-- packets received and delivered to this device, with the port, oldest first -/
  rxq : List (Nat × Packet) := []
  /-- packets held for a newer record (11 R420), or for a changed route (11 R411) -/
  heldRx : List (Nat × Packet) := []
  heldTx : List Packet := []
  outst : List Outstanding := []
  nextTag : BitVec 16 := 0
  /-- addresses under probe and the time of the probe -/
  probes : List (BitVec 16 × Word) := []
  /-- destinations whose route the fenced hop answered, removed from routes -/
  noRoute : List (BitVec 16) := []
  headMiss : Nat := 0
  /-- a probe of the head is out -/
  headProbe : Bool := false
  claiming : Bool := false
  /-- a strapped device took over the claim of another issuer -/
  counted : Nat := 0
  /-- port tables collected by the head -/
  topo : List (BitVec 16 × Nat × BitVec 16 × Nat) := []
  found : List (BitVec 16 × Word) := []
  joining : Bool := false
  /-- heartbeats held for a newer record (11 R420) -/
  heldBeats : List (Nat × Beat) := []
  /-- records and returned packets of which parts have arrived: port, type, source, bytes -/
  parts : List (Nat × Byte × BitVec 16 × List Byte) := []
  /-- the port by which ENUM came: the way to the head while there is no record -/
  enumPort : Option Nat := none
  /-- a packet to the head has found no route (11 R419) -/
  headLost : Bool := false
  deriving DecidableEq, Repr

/-! ## Ferrule engines (12) -/

/-- A job (12 R425 to R429). -/
structure Job where
  world : World
  /-- microseconds -/
  deadline : Nat
  rule : Nat
  ringNo : Nat
  /-- the job ring, by position -/
  ring : List (BitVec 16)
  nominal : Nat
  lr : F32
  p1 : F32
  p2 : F32
  eps : F32
  wd : F32
  task : Word
  bfp : Bool
  closing : Bool := false
  /-- taken over with an adopted address (12 R452) -/
  restored : Bool := false
  deriving DecidableEq, Repr

/-- A binding (12 R430): its command, its step, its ranges, and when its contribution became present. -/
structure Binding where
  step : BitVec 32
  elements : Nat
  bf16 : Bool
  params : Word
  grad : Word
  state : Word
  q : Nat
  n : BitVec 24
  presentAt : Word
  deriving DecidableEq, Repr

/-- A shard record (12 R431). -/
structure ShardRec where
  elements : Nat
  bf16 : Bool
  params : Word
  state : Word
  boundStep : BitVec 32
  doneStep : Option (BitVec 32) := none
  minCount : Nat := 0
  t : Nat := 0
  pi1 : F32
  pi2 : F32
  /-- the exponent plane, by block; 0 where not listed -/
  expo : SMap Nat := []
  deriving DecidableEq, Repr

/-- A partial sum that waits at a hop for its contribution (12 R435). -/
structure Partial where
  chunk : Nat
  payload : List Byte
  ext : Word
  count : Nat
  arrived : Word
  deriving DecidableEq, Repr

/-- What this device holds of one shard-step. `tag` is the step's low 16 bits. -/
structure Work where
  job : Nat
  shard : Nat
  tag : BitVec 16
  bind : Option Binding := none
  /-- the binding has completed -/
  done : Bool := false
  /-- the shard-step ended by STEP_ABORT -/
  ended : Bool := false
  /-- chunks started or passed at this device -/
  passed : List Nat := []
  /-- chunks that passed without this device's contribution -/
  missing : List Nat := []
  raises : Nat := 0
  waits : List Partial := []
  /-- units written here, with the contributor count of each -/
  units : List (Nat × Nat) := []
  /-- units passed while no record told where they belong (12 R445) -/
  noRecord : Bool := false
  /-- epoch of the RESTART (12 R451) -/
  restarted : Option (BitVec 16) := none
  /-- owner: count used for each chunk reduced -/
  counts : List (Nat × Nat) := []
  /-- owner: chunks whose parameters are updated -/
  updated : List Nat := []
  /-- owner, rule 2: reduced gradients of each chunk -/
  ghat : SMap (List F32) := []
  /-- owner: the update count has been advanced (12 R442) -/
  advanced : Bool := false
  /-- owner: mirroring was on when the update began -/
  mirror : Bool := false
  /-- owner: the mirror is sent and not acknowledged -/
  mirrorWait : Bool := false
  /-- reduction packets sent, kept for a NOJOB -/
  sent : List Packet := []
  deriving DecidableEq, Repr

/-- A mirror held (12 R449): where it lies, the offsets of its planes, and the units of the step in `tag` that have arrived. -/
structure Mirror where
  job : Nat
  shard : Nat
  owner : BitVec 16
  base : Nat
  size : Nat
  tag : BitVec 16
  got : List (Nat × Nat)
  /-- the mirror of some step is whole -/
  whole : Bool
  deriving DecidableEq, Repr

/-- A shard being restored to this device from mirrors (12 R452): units received, by plane. -/
structure Restore where
  job : Nat
  shard : Nat
  tag : BitVec 16
  got : List (Nat × Nat)
  deriving DecidableEq, Repr

/-- A shard handed to its update task, or waiting for its turn (12 R444). -/
structure Handoff where
  job : Nat
  shard : Nat
  tag : BitVec 16
  desc : Word
  started : Bool
  /-- the next end of the descriptor: normal completion, or FAULTED -/
  ended : Option Bool := none
  deriving DecidableEq, Repr

structure Ferrule where
  jobs : SMap Job := []
  /-- key job * 65,536 + shard -/
  recs : SMap ShardRec := []
  works : List Work := []
  mirrors : List Mirror := []
  restores : List Restore := []
  handoffs : List Handoff := []
  deriving DecidableEq, Repr

/-! ## Faults (14) -/

/-- A fault record (14 Table 14-6). -/
structure FaultRec where
  seq : Word
  time : Word
  parent : Word
  cls : Nat
  flags : Byte
  cause : BitVec 16
  kind : Byte
  index : BitVec 16
  chainEpoch : BitVec 16
  latheEpoch : BitVec 16
  count : Nat
  addr : Word
  task : Word
  detail : BitVec 32
  duration : Nat
  deriving DecidableEq, Repr

/-- A nested fault that joined a handling: sequence number, time, fault, task, and the chain epoch at detection. -/
structure Joined where
  seq : Word
  time : Word
  ev : FaultEv
  task : Word
  epoch : BitVec 16
  deriving DecidableEq, Repr

/-- A handling in progress or queued (14 R456, R472, R473). -/
structure Handling where
  seq : Word
  time : Word
  ev : FaultEv
  cls : Nat
  nested : Bool
  escalated : Bool
  supFailover : Bool
  count : Nat
  task : Word
  /-- chain epoch at detection -/
  epoch : BitVec 16
  joined : List Joined
  /-- step of Table 14-5: 0 before it begins; 3 done; 5 a lathe is under test; 7 done -/
  step : Nat
  spare : Option Nat
  /-- one more than the class whose first steps have been taken; 0 before any -/
  begun : Nat
  /-- a task abandoned for the fifth time: its lathe and descriptor (14 Table 14-2) -/
  lost : Option (Nat × Word)
  /-- its records, journalled and not yet in the ring -/
  recs : List FaultRec
  /-- a catch that the array still handles (06 R261, R266) -/
  catching : Bool := false
  deriving DecidableEq, Repr

inductive SupState where
  | active | standby | out
  deriving DecidableEq, Repr

structure Faults where
  ring : List FaultRec := []
  cur : Option Handling := none
  queue : List Handling := []
  /-- sticky registers, S copies; the NS copies are in `State.ctl` -/
  stickyS : SMap Word := []
  /-- faults that count under 14 Table 14-2: cause, unit kind and index, time -/
  strikes : List (BitVec 16 × Byte × BitVec 16 × Word) := []
  sup : SMap SupState := []
  /-- recovery supervisor, 2b + p -/
  recovery : Nat := 0
  /-- physical cores kept out of replay placement (14 R462) -/
  avoid : List Nat := []
  deriving DecidableEq, Repr

/-! ## Security (15) -/

/-- A violation log entry (15 Table 15-4). -/
structure VioEntry where
  time : Word
  addr : Word
  agent : BitVec 16
  src : BitVec 16
  kind : Byte
  info : Byte
  deriving DecidableEq, Repr

/-- Fuses (15 Table 15-5): vendor key digests as they stand in slots 0 to 3. -/
structure Fuses where
  keys : SMap (BitVec 512) := []
  revoke : BitVec 4 := 0
  fused : Nat := 0
  lifecycle : BitVec 2 := 1
  serial : Word := 0
  sealed : Bool := false
  deriving DecidableEq, Repr

structure Sec where
  fuses : Fuses := {}
  /-- pending world changes, by block: lathe 0-67, ferrule 72-73, DMA 80-95, mailbox 128-191 -/
  pend : SMap World := []
  ferruleWorld : SMap World := []
  dmaWorld : SMap World := []
  vlog : List VioEntry := []
  meas : SMap (BitVec 512) := []
  /-- the sealed identity key opens (15 R506) -/
  keyOk : Bool := true
  deriving DecidableEq, Repr

/-! ## Power (16) -/

/-- A host access held while the device is in A4 (16 R513): at an offset of BAR0, BAR2 or BAR4. -/
inductive Posted where
  | regWrite (bar2 : Bool) (off bytes : Nat) (v : Word)
  | regRead (bar2 : Bool) (off bytes : Nat)
  | memWrite (off : Nat) (d : List Byte)
  | memRead (off len : Nat)
  deriving DecidableEq, Repr

structure Power where
  tolNs : BitVec 32 := 0
  tolS : BitVec 32 := 0
  profile : BitVec 2 := 1
  /-- the profile last named by SET_PROFILE and not yet in force -/
  target : Option (BitVec 2) := none
  /-- device in A4, or waking from it -/
  standby : Bool := false
  waking : Bool := false
  temps : Temps := ⟨[], [], []⟩
  /-- power samples of 10 us, newest first -/
  samples : List Nat := []
  throttled : Bool := false
  gated : List Nat := []
  refresh2x : List Nat := []
  halfBw : List Nat := []
  capLimited : Bool := false
  /-- host accesses held in A4, oldest first -/
  posted : List Posted := []
  deriving DecidableEq, Repr

/-! ## Start-up and store (17) -/

/-- A repair item (17 Table 17-8). -/
structure RepairItem where
  kind : Byte
  action : Byte
  index : BitVec 16
  a : BitVec 32
  b : Word
  deriving DecidableEq, Repr

/-- A journal entry (17 Table 17-4). -/
structure JEntry where
  type : BitVec 16
  seq : Word
  payload : List Byte
  deriving DecidableEq, Repr

/-- A unit of the stop log (17 R537). -/
inductive StopUnit where
  | stop (seq : Word) (cause : BitVec 16) (fail : Nat) (index : Nat) (time : Word)
  | highWater (v : Word)
  deriving DecidableEq, Repr

/-- A journal half: its valid entries in order, and whether anything invalid follows them. -/
structure Half where
  entries : List JEntry := []
  torn : Bool := false
  erased : Bool := true
  deriving DecidableEq, Repr

/-- Stages of a compaction (17 Table 17-7). -/
inductive Compact where
  | erase | snapshot | commit | eraseOld
  deriving DecidableEq, Repr

structure Store where
  /-- valid selector units in blocks 0 and 1: slot and sequence number (17 R536) -/
  sel0 : Option (Bool × Word) := none
  sel1 : Option (Bool × Word) := none
  imgA : List (Nat × Byte) := []
  imgB : List (Nat × Byte) := []
  staging : List (Nat × Byte) := []
  /-- identity partition: public key, certificate key slot, certificate -/
  idPub : List Byte := []
  idSlot : Byte := 0
  idCert : List Byte := []
  factory : List RepairItem := []
  stops : List StopUnit := []
  half0 : Half := {}
  half1 : Half := {}
  /-- active half -/
  active : Bool := false
  nextSeq : Word := 1
  compact : Option Compact := none
  /-- entries that wait behind a compaction -/
  jqueue : List (BitVec 16 × List Byte) := []
  /-- the repair map in force, and configuration items, fault summary -/
  repair : List RepairItem := []
  config : SMap (List Byte) := []
  summary : List FaultRec := []
  deriving DecidableEq, Repr

/-! ## Platform (01) -/

/-- Why the device is in protective stop. -/
inductive StopCause where
  | rail (r : Nat) | order | thermal | supervisors
  deriving DecidableEq, Repr

/-- TAP instructions (01 R50). -/
inductive TapIr where
  | bypass | idcode | sample | extest | highz
  deriving DecidableEq, Repr

structure Plat where
  pwrOk : Bool := false
  perstN : Bool := false
  started : Bool := false
  stop : Option StopCause := none
  /-- a start held because a die is hot (16 R525) -/
  held : Option StartEnv := none
  stage : BitVec 4 := 0
  ready : Bool := false
  faultHold : Bool := false
  therm : Bool := false
  straps : BitVec 3 := 0
  devTime : Word := 0
  cref0 : Bool := false
  cref1 : Bool := false
  pcieRef : Bool := false
  timeSrc : BitVec 2 := 0
  /-- chain ports and MRDIMM channels of bench die b are down for want of its clock (01 R43) -/
  clockDown0 : Bool := false
  clockDown1 : Bool := false
  /-- PLL reference of each HBM stack, and stacks whose change of reference is due (01 R44) -/
  hbmRef : SMap Nat := []
  hbmDue : List Nat := []
  heldClocks : List Island := []
  /-- DEV_TIME upper halves latched for agents, and the latest value returned to each (01 R29, R31) -/
  shadow : SMap (BitVec 32) := []
  lastTime : SMap Word := []
  tap : TapIr := .idcode
  /-- boundary-scan register as last captured, and its cells as last loaded (01 R51) -/
  bsr : List Bool := []
  bsrUpdate : List Bool := []
  recovery : Bool := false
  bootFailed : Bool := false
  /-- bench management's image of the SMBus registers 0x01 to 0x03, and the DEV_TIME at which it was taken (01 R49) -/
  smbState : BitVec 32 := 0xFFFF0004#32
  smbThermal : BitVec 32 := 0
  smbFault : BitVec 32 := 0xFF00#32
  smbAt : Word := 0
  /-- SMB_FAULT count and last class -/
  fltCount : BitVec 16 := 0
  fltLast : Byte := 0xFF#8
  /-- causes kept for LOST records of the next start: cause, unit index, number of the stop unit (14 R481) -/
  kept : List (BitVec 16 × BitVec 16 × Option Word) := []
  /-- fused version to be reached after DEV_READY (15 R498) -/
  advance : Option Nat := none
  compactDue : Bool := false
  deriving DecidableEq, Repr

/-! ## Outputs -/

/-- What leaves the block: answers of reads, messages, packets, pin changes, in the order in which they leave. -/
inductive Out where
  /-- a register or memory read: agent, value -/
  | readData (a : Agent) (v : Word)
  | readBytes (d : List Byte)
  /-- unsupported request, completer abort (10 Table 10-4) -/
  | ur
  | completerAbort
  /-- an unsupported request logged through AER for a dropped write -/
  | aer
  | smbus (d : List Byte) (pec : Byte)
  | tdo (d : List Bool)
  | msix (vec : Nat)
  /-- a firmware interrupt of a supervisor pair (09 R357) -/
  | supIrq (pair : Nat)
  | hostWrite (addr : Word) (d : List Byte)
  /-- a chain packet put on a port -/
  | packet (port : Nat) (p : Packet)
  /-- a heartbeat flit put on a port -/
  | beat (port : Nat) (b : Beat)
  /-- a flit put on a port: port, the fields of its header that Table 11-2 gives it, and its packet bytes; `flitBytes` writes it
  out -/
  | flit (p : Nat) (seq ack : BitVec 16) (kind : Byte) (body : List Byte)
  deriving DecidableEq, Repr

/-! ## The state -/

structure State where
  /-- commands that wait, first in first out -/
  pending : List Instr := []
  out : List Out := []
  /-- counter that names the next free value (the model's own; notes/assumptions/4.md) -/
  free : Nat := 0
  /-- control registers, by control-space offset; an absent one has its reset value -/
  ctl : SMap Word := []
  plat : Plat := {}
  threads : SMap Thread := []
  cores : SMap Core := []
  lathes : SMap Lathe := []
  mem : Mem := {}
  caches : Caches := {}
  /-- tasks in the overflow list (09 R340) -/
  overflow : List Queued := []
  mbx : SMap Mailbox := []
  host : HostIf := {}
  chain : Chain := {}
  fer : Ferrule := {}
  flt : Faults := {}
  sec : Sec := {}
  pwr : Power := {}
  store : Store := {}
  deriving DecidableEq, Repr

/-- The block before its first start (01 R35): every field at its reset value. -/
def State.reset : State := {}

/-- Reasons a step faults. The spec gives every command an effect, so none is raised; the type is kept for the interface. -/
inductive Fault where
  /-- Raised by no command: the spec describes every fault of the device as an effect on its state. Safe. -/
  | none_
  deriving DecidableEq, Repr

/-- Reasons a step refuses. -/
inductive Refusal where
  /-- Raised by an arm of `exec` whose command has no meaning yet. Safe: nothing is claimed of it. -/
  | notModelled (mnemonic : String)
  deriving DecidableEq, Repr

end Sys2Proof.Machine
end

