-- ==== Sys2Proof/Machine/Regs.lean ====
section
/-!
DEFINITION. The control registers as the register maps give them (00 R8 to R13): where each lies, which of its bits software
writes and how, and what they hold before firmware writes them. A field that the maps leave to firmware ("FW") is 0 before
the start sets it (notes/assumptions/3.md).
-/

namespace Sys2Proof.Machine

/-- A row of the register maps: offset in control space, how it repeats (stride, count), the bits that are RW, RWS and W1C
(00 Table 0-5), and the value before firmware writes it. -/
structure RegRow where
  base : Nat
  stride : Nat
  count : Nat
  rw : Word
  rws : Word
  w1c : Word
  reset : Word
  deriving DecidableEq, Repr

/-! ## Offsets -/

def rQ0Cmd : Nat := 0x100
def rQ0Cpl : Nat := 0x108
def rQ0Cfg : Nat := 0x110
def rApctl : Nat := 0x200
def rEvvec : Nat := 0x208
def rHifErr : Nat := 0x300
def rDoorbell : Nat := 0x1000
def rCpldb : Nat := 0x1008
def rDevId : Nat := 0x100000
def rDevTime : Nat := 0x100008
def rClksrc : Nat := 0x100010
def rStraps : Nat := 0x100018
def rAlarm : Nat := 0x100020
def rStart : Nat := 0x100028
def rBoot : Nat := 0x100030
def rRecovery : Nat := 0x100038
def rStore : Nat := 0x100040
def rScaleBase : Nat := 0x100100
def rScalePolicy : Nat := 0x100108
def rGradClass : Nat := 0x100110
def rTaskstat : Nat := 0x100200
def rTaskdb : Nat := 0x100208
def rSeed (i : Nat) : Nat := 0x100800 + 8 * i
def rSeq (s : Nat) : Nat := 0x110000 + 32 * s
def rPwrStat : Nat := 0x200000
def rTolNs : Nat := 0x200008
def rTolS : Nat := 0x200010
def rTemp : Nat := 0x200018
def rPower : Nat := 0x200020
def rSticky (n : Nat) : Nat := 0x300000 + 8 * n
def rFltSeq : Nat := 0x300040
def rFltDropped : Nat := 0x300048
def rFltFill : Nat := 0x300050
def rFltRecov : Nat := 0x300058
def rFltLathe (n : Nat) : Nat := 0x300400 + 8 * n
def rMbx (m : Nat) : Nat := 0x400000 + 0x100 * m
def rChnCtl : Nat := 0x500000
def rChnStat : Nat := 0x500008
def rChnPort (p : Nat) : Nat := 0x500100 + 8 * p
def rMirror : Nat := 0x600000
def rMirbase : Nat := 0x600008
def rMirlim : Nat := 0x600010
def rFrlStat : Nat := 0x600018
def rFrlLate : Nat := 0x600020
def rFrlEng (e : Nat) : Nat := 0x600100 + 8 * e
def rMemMode : Nat := 0x700000
def rMemResv : Nat := 0x700008
def rMemMrd : Nat := 0x700010
def rRinv : Nat := 0x700018
def rRatdef : Nat := 0x700020
def rMrdch (c : Nat) : Nat := 0x700100 + 8 * c
def rRatBase (i : Nat) : Nat := 0x701000 + 16 * i
def rRatLim (i : Nat) : Nat := 0x701008 + 16 * i
def rWorld (k : Nat) : Nat := 0x800000 + 8 * k
def rSecCtl : Nat := 0x800018
def rSecStat : Nat := 0x800020
def rVstat : Nat := 0x800028
def rVbase : Nat := 0x800030
def rQ1Cmd : Nat := 0x800100
def rQ1Cpl : Nat := 0x800108
def rQ1Cfg : Nat := 0x800110
def rLathe (n : Nat) : Nat := 0x1000000 + 0x40000 * n
def rArrShape (n : Nat) : Nat := rLathe n + 0x10000
def rArrTol (n : Nat) : Nat := rLathe n + 0x10008
def rArrStat (n : Nat) : Nat := rLathe n + 0x10010
def rTileStat (n : Nat) : Nat := rLathe n + 0x20000
def rCvtstat (n : Nat) : Nat := rLathe n + 0x30000
def rFnstat (n : Nat) : Nat := rLathe n + 0x30008
def rFuSlot (n k : Nat) : Nat := rLathe n + 0x30100 + 8 * k

/-! ## The maps: chapters 10, 01, 04, 09, 14 -/

def regRowsA : List RegRow :=
  [⟨rQ0Cmd, 8, 1, 0xFFFFFFFFFFFFFFFF#64, 0, 0, 0⟩,
   ⟨rQ0Cpl, 8, 1, 0xFFFFFFFFFFFFFFFF#64, 0, 0, 0⟩,
   ⟨rQ0Cfg, 8, 1, 0x117FF#64, 0, 0, 0⟩,
   ⟨rApctl, 8, 1, 0xFFFFC0000000#64, 0, 0, 0⟩,
   ⟨rEvvec, 8, 1, 0x107FF#64, 0, 0, 0⟩,
   ⟨rHifErr, 8, 1, 0, 0, 0x6F#64, 0⟩,
   ⟨rDoorbell, 8, 2, 0, 0, 0, 0⟩,
   ⟨rDevId, 8, 1, 0, 0, 0, 0x48A101#64⟩,
   ⟨rDevTime, 8, 3, 0, 0, 0, 0⟩,
   ⟨rAlarm, 8, 1, 0, 0, 1, 0⟩,
   ⟨rStart, 8, 2, 0, 0, 0, 0⟩,
   ⟨rRecovery, 8, 1, 0x7FFFFFF#64, 0, 0, 0⟩,
   ⟨rStore, 8, 1, 0, 0, 0xE#64, 0⟩,
   ⟨rScaleBase, 8, 1, 0, 0xFFFFFF800000#64, 0, 0⟩,
   ⟨rScalePolicy, 8, 1, 1, 2, 0, 0⟩,
   ⟨rGradClass, 8, 1, 1, 0, 0, 0⟩,
   ⟨rTaskstat, 8, 1, 0, 0, 0x1F#64, 0⟩,
   ⟨rTaskdb, 8, 1, 0, 0, 0, 0⟩,
   ⟨rSeed 0, 8, 128, 0xFFFFFFFFFFFFFFFF#64, 0, 0, 0⟩,
   ⟨rSeed 128, 8, 128, 0, 0xFFFFFFFFFFFFFFFF#64, 0, 0⟩,
   ⟨rSeq 0, 32, 512, 0xFFFFFFFFFFFFFFC0#64, 0, 0, 0⟩,
   ⟨rSeq 0 + 8, 32, 512, 0xFFFFFFFFFFFFFFFF#64, 0, 0, 0⟩,
   ⟨rSeq 0 + 16, 32, 512, 0xFFFFFFFFFFFFFFFF#64, 0, 0, 0⟩,
   ⟨rSeq 0 + 24, 32, 512, 0xFFFF0003#64, 4, 0, 0⟩]

/-! ## The maps: chapters 16, 14, 09, 11, 12 -/

def regRowsB : List RegRow :=
  [⟨rPwrStat, 8, 5, 0, 0, 0, 0⟩,
   ⟨rSticky 0, 8, 1, 0, 0, 0x73F#64, 0⟩,
   ⟨rSticky 1, 8, 1, 0, 0, 0xFFFFFFFFFFFFFFFF#64, 0⟩,
   ⟨rSticky 2, 8, 1, 0, 0, 0x1FF0FFF0FFF0F#64, 0⟩,
   ⟨rSticky 3, 8, 1, 0, 0, 0x3FFFFFFFFFF#64, 0⟩,
   ⟨rSticky 4, 8, 1, 0, 0, 0x3FFFFFFFFE#64, 0⟩,
   ⟨rSticky 5, 8, 3, 0, 0, 0, 0⟩,
   ⟨rFltSeq, 8, 4, 0, 0, 0, 0⟩,
   ⟨rFltLathe 0, 8, 68, 0, 0, 0, 0⟩,
   ⟨rMbx 0, 0x100, 64, 0x1FFFFFFFFFFF#64, 0, 0, 0⟩,
   ⟨rMbx 0 + 8, 0x100, 64, 0, 0, 0x3300000300000#64, 0⟩,
   ⟨rMbx 0 + 0x10, 0x100, 64, 0, 0, 0, 0⟩,
   ⟨rMbx 0 + 0x20, 0x100, 64, 0, 0, 0, 0⟩,
   ⟨rMbx 0 + 0x28, 0x100, 64, 0, 0, 0, 0⟩,
   ⟨rMbx 0 + 0x30, 0x100, 64, 0, 0, 0, 0⟩,
   ⟨rMbx 0 + 0x38, 0x100, 64, 0, 0, 0, 0⟩,
   ⟨rMbx 0 + 0x40, 0x100, 64, 0, 0, 0, 0⟩,
   ⟨rMbx 0 + 0x48, 0x100, 64, 0, 0, 0, 0⟩,
   ⟨rChnCtl, 8, 1, 0xFF01#64, 0, 0, 0x400#64⟩,
   ⟨rChnStat, 8, 1, 0, 0, 0, 0⟩,
   ⟨rChnPort 0, 8, 40, 0, 0, 0, 0⟩,
   ⟨rMirror, 8, 1, 1, 0, 0, 0⟩,
   ⟨rMirbase, 8, 1, 0xFFFFFFFFF000#64, 0, 0, 0⟩,
   ⟨rMirlim, 8, 1, 0xFFFFFFFFF000#64, 0, 0, 0⟩,
   ⟨rFrlStat, 8, 1, 0, 0, 0xFB#64, 0⟩,
   ⟨rFrlLate, 8, 1, 0, 0, 0, 0⟩,
   ⟨rFrlEng 0, 8, 2, 0, 0, 0, 0⟩]

/-! ## The maps: chapters 08, 15, 05, 06, 07 -/

def regRowsC : List RegRow :=
  [⟨rMemMode, 8, 1, 0xF1#64, 0, 0, 0⟩,
   ⟨rMemResv, 8, 2, 0, 0, 0, 0⟩,
   ⟨rRinv, 8, 1, 0, 0, 0, 0⟩,
   ⟨rRatdef, 8, 1, 0, 0x7F0#64, 0, 0⟩,
   ⟨rMrdch 0, 8, 12, 0, 0, 0, 0⟩,
   ⟨rRatBase 0, 16, 256, 0xFFFFFFFFF7E1#64, 0x10#64, 0, 0⟩,
   ⟨rRatLim 0, 16, 256, 0xFFFFFFFFF001#64, 0, 0, 0⟩,
   ⟨rWorld 0, 8, 1, 0, 0xFFFFFFFFFFFFFFFF#64, 0, 0⟩,
   ⟨rWorld 1, 8, 1, 0, 0xFFFF030F#64, 0, 0⟩,
   ⟨rWorld 2, 8, 1, 0, 0xFFFFFFFFFFFFFFFF#64, 0, 0⟩,
   ⟨rSecCtl, 8, 1, 0, 1, 0, 0⟩,
   ⟨rSecStat, 8, 1, 0, 0, 1, 0⟩,
   ⟨rVstat, 8, 2, 0, 0, 0, 0⟩,
   ⟨rQ1Cmd, 8, 1, 0, 0xFFFFFFFFFFFFFFFE#64, 0, 0⟩,
   ⟨rQ1Cpl, 8, 1, 0, 0xFFFFFFFFFFFFFFDF#64, 0, 0⟩,
   ⟨rQ1Cfg, 8, 1, 0, 0x10000#64, 0x40000#64, 0⟩,
   ⟨rArrShape 0, 0x40000, 68, 1, 0, 0, 0⟩,
   ⟨rArrTol 0, 0x40000, 68, 0xFFFF#64, 0, 0, 0x200#64⟩,
   ⟨rArrStat 0, 0x40000, 68, 0, 0, 0, 0⟩,
   ⟨rTileStat 0, 0x40000, 68, 0, 0, 0, 0⟩,
   ⟨rCvtstat 0, 0x40000, 68, 0, 0, 0x1F#64, 0⟩,
   ⟨rFnstat 0, 0x40000, 68, 0, 0, 3, 0⟩] ++
  (List.range 16).map (fun k => ⟨rFuSlot 0 k, 0x40000, 68, 0, 0, 0, 0⟩)

def regRows : List RegRow := regRowsA ++ (regRowsB ++ regRowsC)

/-- Whether an 8-byte slot lies in a row. -/
def RegRow.has (r : RegRow) (off : Nat) : Bool :=
  decide (r.base ≤ off) && decide ((off - r.base) % r.stride = 0) && decide ((off - r.base) / r.stride < r.count)

/-- The row that holds the register at an 8-byte aligned offset. -/
def regRow? (off : Nat) : Option RegRow := regRows.find? (fun r => r.has off)

/-- The value before firmware writes the register. -/
def regReset (off : Nat) : Word := match regRow? off with
  | some r => r.reset
  | none => 0

/-- The blocks of Table 0-4 whose spans R298 gives, with the world of each: an offset inside holds a register or reads 0. -/
def inBlockSpan (off : Nat) : Bool :=
  decide (off < 0x900000) || (decide (0x1000000 ≤ off) && decide (off < 0x2100000))

/-- The value a control register holds. -/
def ctlGet (s : State) (off : Nat) : Word := mget s.ctl off (regReset off)

def ctlSet (s : State) (off : Nat) (v : Word) : State := { s with ctl := mset s.ctl off v }

/-- Set bits of a register, as hardware sets status bits. -/
def ctlOr (s : State) (off : Nat) (v : Word) : State := ctlSet s off (ctlGet s off ||| v)

/-- What a register holds after a write of `v` to the bits of `mask`: RW bits, RWS bits from the S world, W1C bits. -/
def RegRow.write (r : RegRow) (w : World) (old v mask : Word) : Word :=
  let set := (if w = .s then r.rw ||| r.rws else r.rw) &&& mask
  ((old &&& ~~~set) ||| (v &&& set)) &&& ~~~(v &&& r.w1c &&& mask)

/-- An NS write would change a field that only the S world writes (R489). -/
def RegRow.violates (r : RegRow) (w : World) (old v mask : Word) : Bool :=
  w == .ns && ((old ^^^ v) &&& r.rws &&& mask) != 0

end Sys2Proof.Machine
end

