-- ==== Sys2Proof/Machine/Ops.lean ====
section
/-!
DEFINITION. The named operations over the state: where a thread, core or lathe stands, reads of DEV_TIME, the violation log,
the address map with its world check (08, 15), reads and writes of memory, the issue slot (02 R55), and taking a trap or an
interrupt (02 R97).
-/

namespace Sys2Proof.Machine

/-- What a command answers. -/
abbrev Oc := Host.Outcome State Fault Refusal

/-! ## Where things stand -/

def ckey (l c : Nat) : Nat := l * 68 + c
def tkey (t : Tid) : Nat := (t.lathe.val * 68 + t.core.val) * 8 + t.thread.val

def State.thr (s : State) (t : Tid) : Thread := mget s.threads (tkey t) {}
def State.setThr (s : State) (t : Tid) (x : Thread) : State := { s with threads := mset s.threads (tkey t) x }
def State.modThr (s : State) (t : Tid) (f : Thread → Thread) : State := s.setThr t (f (s.thr t))

/-- With an empty repair map, cores 64 to 67 of a lathe are spares (14 R466); XTVEC is the runtime's. -/
def coreInit (l c : Nat) : Core := { inService := decide (c < 64), xtvec := Config.trapBase (ckey l c) &&& ~~~0xFFF }

def State.core (s : State) (l c : Nat) : Core := mget s.cores (ckey l c) (coreInit l c)
def State.setCore (s : State) (l c : Nat) (x : Core) : State := { s with cores := mset s.cores (ckey l c) x }
def State.modCore (s : State) (l c : Nat) (f : Core → Core) : State := s.setCore l c (f (s.core l c))

/-- With an empty repair map, lathe 17d + 16 is the spare of lathe die d (01 R16). -/
def latheInit (n : Nat) : Lathe := { svc := if n % 17 = 16 then .spare else .inService }

def State.lathe (s : State) (n : Nat) : Lathe := mget s.lathes n (latheInit n)
def State.setLathe (s : State) (n : Nat) (x : Lathe) : State := { s with lathes := mset s.lathes n x }
def State.modLathe (s : State) (n : Nat) (f : Lathe → Lathe) : State := s.setLathe n (f (s.lathe n))

def emit (s : State) (o : Out) : State := { s with out := s.out ++ [o] }

/-- The clock of an island is not held (01 R21). -/
def clockOn (s : State) (i : Island) : Bool := !s.plat.heldClocks.contains i

/-- The next free value's name, and the state past it. -/
def fresh (s : State) : Nat × State := (s.free, { s with free := s.free + 1 })

/-! ## Agents and worlds -/

/-- Agent IDs (09 Table 9-7). -/
def agentId : Agent → BitVec 16
  | .host => 1
  | .sup p => 0x10#16 + BitVec.ofNat 16 p.val
  | .thread t => 0x1000#16 + BitVec.ofNat 16 (tkey t)

/-- The world of an agent is that of its block (15 R484, R485). -/
def agentWorld (s : State) : Agent → World
  | .host => .ns
  | .sup _ => .s
  | .thread t => (s.lathe t.lathe.val).world

def threadId (t : Tid) : BitVec 16 := agentId (.thread t)

/-- The level that traps enter (02 R88). -/
def runtimeLevel (w : World) : Level := if w = .s then .s else .k

def levelCode : Level → Nat
  | .u => 0
  | .k => 1
  | .s => 2

/-! ## DEV_TIME (01 R27 to R31) -/

/-- A read of DEV_TIME by the agent with key `k`: at most 20 ns old, and never lower than a value the agent read before. -/
def readTime (s : State) (k : Nat) : Word × State :=
  let raw : Nat := s.plat.devTime.toNat - Config.timeLag s.free % 21
  let v : Word := BitVec.ofNat 64 (max raw (mget s.plat.lastTime k 0).toNat)
  (v, { s with free := s.free + 1, plat := { s.plat with lastTime := mset s.plat.lastTime k v } })

/-! ## The violation log (15 R490) -/

def worldBit (w : World) : Nat := if w = .s then 1 else 0

def vioBytes (e : VioEntry) : List Byte :=
  leBytes 8 e.time.toNat ++ leBytes 8 e.addr.toNat ++ leBytes 2 e.agent.toNat ++ leBytes 2 e.src.toNat ++
    [e.kind, e.info] ++ List.replicate 10 0

/-- Write one refusal to the log, or count it as dropped when the log is full. -/
def logVio (s : State) (addr : Word) (agent src : BitVec 16) (kind info : Nat) : State :=
  let n := s.sec.vlog.length
  if n < 4096 then
    let e : VioEntry := ⟨s.plat.devTime, addr, agent, src, BitVec.ofNat 8 kind, BitVec.ofNat 8 info⟩
    { s with
      sec := { s.sec with vlog := s.sec.vlog ++ [e] }
      mem := { s.mem with cells := cellWrite s.mem.cells ((ctlGet s rVbase).toNat + 32 * n) (vioBytes e) } }
  else
    let d := wbits (ctlGet s rVstat) 32 32
    ctlSet s rVstat (BitVec.ofNat 64 (min (d + 1) 0xFFFFFFFF) <<< 32)

/-! ## The address map (08 R293 to R304) -/

def gib : Nat := 2 ^ 30
def mib : Nat := 2 ^ 20

/-- What a local address reaches: a byte of memory (by its one local address), control space, the secure-only control
range, nothing, or the window of a lathe that must first wake. -/
inductive Place where
  | ram (a : Nat)
  | ctl (off : Nat)
  | sec (off : Nat)
  | none_
  | asleep (l : Nat)
  deriving DecidableEq, Repr

/-- Enabled channels in increasing number. -/
def mrdChannels (s : State) : List Nat :=
  let m := wbits (ctlGet s rMemMrd) 0 12
  (List.range 12).filter (fun c => m.testBit c)

/-- A channel of a bench die whose chain reference clock is absent is down (01 R43). That an access to it then meets no memory is the
model's choice (DESIGN CHOICE, notes/assumptions/72.md). -/
def mrdUp (s : State) (c : Nat) : Bool := if c < 6 then !s.plat.clockDown0 else !s.plat.clockDown1

/-- The MRDIMM channel that holds offset `o` of the MRDIMM range, if memory is present there (08 R304). -/
def mrdChannel (s : State) (o : Nat) : Option Nat :=
  let r := ctlGet s rMemMrd
  let c? : Option Nat :=
    if wbits r 16 1 = 1 then
      let chs := mrdChannels s
      if o < wbits r 32 16 * gib then chs[(o / 4096) % chs.length]? else none
    else
      let c := o / (256 * gib)
      if c < 12 ∧ (mrdChannels s).contains c ∧ o % (256 * gib) < wbits (ctlGet s (rMrdch c)) 16 16 * gib then some c
      else none
  c?.filter (mrdUp s)

/-- Size of a lathe's LM scratchpad in bytes (08 R297). -/
def lmScratch (s : State) : Nat := (12 - s.mem.lmCache) * mib

def lmBase (n : Nat) : Nat := 0x200000000000 + n * 0x1000000

/-- Offset `o` of lathe n's LM window (08 R296, R297). -/
def lmPlace (s : State) (n o : Nat) : Place :=
  let L := s.lathe n
  if L.svc = .inService ∧ o < lmScratch s then
    if L.power ≠ 0 ∨ L.waking ∨ s.pwr.standby then .asleep n else .ram (lmBase n + o)
  else .none_

/-- The local map (08 Table 8-2) for a requester on lathe `own`, or off the lathes. -/
def place (s : State) (own : Option Nat) (a : Nat) : Place :=
  if a < 0x9000000000 then .ram a
  else if 0x100000000000 ≤ a ∧ a < 0x130000000000 then
    if (mrdChannel s (a - 0x100000000000)).isSome then .ram a else .none_
  else if 0x200000000000 ≤ a ∧ a < 0x200044000000 then
    lmPlace s ((a - 0x200000000000) / 0x1000000) ((a - 0x200000000000) % 0x1000000)
  else if 0x2F0000000000 ≤ a ∧ a < 0x2F0001000000 then
    match own with
    | some l => lmPlace s l (a - 0x2F0000000000)
    | none => .none_
  else if 0x300000000000 ≤ a ∧ a < 0x300004000000 then
    if inBlockSpan (a - 0x300000000000) then .ctl (a - 0x300000000000) else .none_
  else if 0x3F0000000000 ≤ a ∧ a < 0x3F0004000000 then .sec (a - 0x3F0000000000)
  else .none_

/-! ## The region attribute table (08 R305) -/

structure Attr where
  world : World
  policy : Nat
  wa : Bool
  stream : Bool
  spec : Bool
  rcache : Bool
  deriving DecidableEq, Repr

def attrOf (w : Word) : Attr :=
  ⟨if w.getLsbD 4 then .s else .ns, wbits w 5 2, w.getLsbD 7, w.getLsbD 8, w.getLsbD 9, w.getLsbD 10⟩

/-- Entry `p` (an index 2i and RAT_BASEi) matches address `a` in scope `sc` for world bit `wd`. -/
def ratHit (rat : SMap Word) (sc wd a : Nat) (p : Nat × Word) : Bool :=
  let lim := mget rat (p.1 + 1) 0
  decide (p.1 < 512) && decide (p.1 % 2 = 0) && p.2.getLsbD 0 && decide (wbits p.2 4 1 = wd) &&
    decide (wbits lim 0 1 = sc) && decide (wbits p.2 12 36 ≤ a / 4096) && decide (a / 4096 ≤ wbits lim 12 36)

/-- The attributes of local address `a`: S entries first, then NS entries, each in index order, then MEM_RATDEF. -/
def ratLookup (s : State) (sc a : Nat) : Attr :=
  let rat := s.mem.rat
  match rat.find? (ratHit rat sc 1 a) with
  | some p => attrOf p.2
  | none =>
    match rat.find? (ratHit rat sc 0 a) with
    | some p => attrOf p.2
    | none => attrOf (mget rat 512 0)

/-- The first address of an access in each 4 KiB granule it touches. -/
def granules (a n : Nat) : List Nat :=
  (List.range ((a + (n - 1)) / 4096 - a / 4096 + 1)).map (fun k => if k = 0 then a else (a / 4096 + k) * 4096)

/-! ## Access checks (08 R294, R296; 15 R489) -/

/-- Trap causes (02 Table 2-9). -/
def xIllegal : Nat := 1
def xPriv : Nat := 2
def xReserved : Nat := 3
def xWindow : Nat := 4
def xAlign : Nat := 5
def xShape : Nat := 6
def xCapacity : Nat := 7
def xFormat : Nat := 8
def xWorld : Nat := 9
def xVmem : Nat := 10
def xBreak : Nat := 11
def xMbxErr : Nat := 12
def xFenced : Nat := 13

/-- Who accesses: its world, and the lathe it issues from. -/
structure Req where
  world : World
  own : Option Nat
  deriving DecidableEq, Repr

/-- The outcome of the checks of an access. -/
inductive Acc where
  /-- every byte lies in this device and may be accessed -/
  | ok
  | remote (dst : BitVec 16)
  | trap (cause : Nat) (at_ : Word)
  /-- the window's lathe must wake first (16 R512) -/
  | wake (l : Nat)
  deriving DecidableEq, Repr

def chainOf (a : Word) : BitVec 16 := (a >>> 48).setWidth 16
def localOf (a : Word) : Nat := a.toNat % 2 ^ 48

/-- The device's own chain addresses (08 Table 8-1). -/
def isSelf (s : State) (c : BitVec 16) : Bool := c == 0 || c == 0xFFFF#16 || c == s.chain.addr

/-- Whether some device holds a chain address under the record in force (11 R415). -/
def chainHolds (s : State) (c : BitVec 16) : Bool :=
  match s.chain.rec_ with
  | some r => r.members.any (fun m => m.1 == c) || r.spares.any (fun m => m.1 == c)
  | none => false

/-- World of a place: the RAT for memory (by the address the access reaches), the block's world for control space (R298). -/
def placeWorld (s : State) : Place → World
  | .ram a => (ratLookup s 0 a).world
  | .ctl off =>
    if 0x800000 ≤ off ∧ off < 0x900000 then .s
    else if 0x1000000 ≤ off then (s.lathe ((off - 0x1000000) / 0x40000)).world
    else .ns
  | .sec _ => .s
  | .none_ => .ns
  | .asleep _ => .ns

/-- World of a local address for a requester: an asleep or absent window has the world that the RAT gives its address. -/
def addrWorld (s : State) (own : Option Nat) (a : Nat) : World :=
  match place s own a with
  | .none_ => if a < 0x300000000000 then (ratLookup s 0 a).world else .ns
  | .asleep _ => (ratLookup s 0 a).world
  | p => placeWorld s p

/-- A lathe that carries a stale epoch (14 R470). -/
def staleLathe (s : State) : Option Nat → Bool
  | some l => (s.lathe l).carried != (s.lathe l).epoch
  | none => false

/-- A place with no memory; with `mem`, an access that control space does not serve either (02 R72, R74; 05 R217). -/
def Place.barred (mem : Bool) : Place → Bool
  | .none_ => true
  | .ctl _ => mem
  | .sec _ => mem
  | _ => false

/-- Checks of a local access of `n` bytes at local address `a`, in the order of 02 R93; `w` is the address as issued. `mem`: the
access is served by memory alone. -/
def checkLocal (s : State) (q : Req) (w : Word) (a n : Nat) (mem : Bool := false) : Acc :=
  let gs := granules a n
  if q.world = .ns ∧ gs.any (fun g => addrWorld s q.own g == .s) then .trap xWorld w
  else
    match gs.find? (fun g => (place s q.own g).barred mem) with
    | some g => .trap xVmem (w + BitVec.ofNat 64 (g - a))
    | none =>
      if staleLathe s q.own then .trap xFenced w
      else
        match (gs.map (place s q.own)).find? (fun p => match p with | .asleep _ => true | _ => false) with
        | some (.asleep l) => .wake l
        | _ => .ok

/-- The first two rows of 08 R294: the world check that a requester makes of a remote access before it leaves the device. -/
def remoteBarred (s : State) (q : Req) (a n : Nat) : Bool :=
  q.world == .s || (granules a n).any (fun g => (ratLookup s 1 g).world == .s)

/-- Checks of an access of `n` bytes at global address `w` (08 R293, R294). -/
def checkAcc (s : State) (q : Req) (w : Word) (n : Nat) (mem : Bool := false) : Acc :=
  let c := chainOf w
  let a := localOf w
  if c = 0xFFFE#16 then .trap xVmem w
  else if isSelf s c then checkLocal s q w a n mem
  else if remoteBarred s q a n then .trap xWorld w
  else if s.chain.st = .fenced then .trap xFenced w
  else if !chainHolds s c then .trap xVmem w
  else if staleLathe s q.own then .trap xFenced w
  else .remote c

/-! ## Reading and writing memory -/

/-- The one local address of a byte: an LM alias is taken through its lathe's window. -/
def cellOf (own : Option Nat) (a : Nat) : Nat :=
  if 0x2F0000000000 ≤ a ∧ a < 0x2F0001000000 then
    match own with
    | some l => lmBase l + (a - 0x2F0000000000)
    | none => a
  else a

/-- The poisoned line that an access touches, if any (08 R320). -/
def poisonAt (s : State) (a n : Nat) : Option Nat :=
  s.mem.poison.find? (fun l => decide (l < a + n) && decide (a < l + 64))

def memRead (s : State) (a n : Nat) : List Byte := cellRead s.mem.cells a n

/-- Write bytes at local address `a`; a line written whole loses its poison. -/
def memWrite (s : State) (a : Nat) (d : List Byte) : State :=
  { s with mem := { s.mem with
      cells := cellWrite s.mem.cells a d
      poison := s.mem.poison.filter (fun l => !(decide (a ≤ l) && decide (l + 64 ≤ a + d.length))) } }

/-- Mark the line of a local address as poison. -/
def setPoison (s : State) (a : Nat) : State :=
  let l := a / 64 * 64
  { s with mem := { s.mem with poison := if s.mem.poison.contains l then s.mem.poison else s.mem.poison ++ [l] } }

/-- Little-endian value of `n` bytes at local address `a`. -/
def memNat (s : State) (a n : Nat) : Nat := leNat (memRead s a n)

/-- Clear a range of memory. -/
def memClear (s : State) (lo n : Nat) : State :=
  { s with mem := { s.mem with
      cells := s.mem.cells.filter (fun p => !(decide (lo ≤ p.1) && decide (p.1 < lo + n)))
      poison := s.mem.poison.filter (fun p => !(decide (lo ≤ p) && decide (p < lo + n))) } }

/-! ## The issue slot (02 R53 to R55) -/

/-- The next READY thread of core (l, c) in increasing number after the one that left. -/
def nextReady (s : State) (l c last : Nat) : Option Nat :=
  ((List.range 8).map (fun k => (last + 1 + k) % 8)).find? (fun k => (mget s.threads (ckey l c * 8 + k) {}).st == .ready)

/-- An empty issue slot selects a thread. -/
def select (s : State) (l c : Nat) : State :=
  let x := s.core l c
  match x.running, nextReady s l c x.last with
  | none, some k =>
    { s.setCore l c { x with running := some k } with
      threads := mmod s.threads (ckey l c * 8 + k) {} (fun t => { t with st := .running }) }
  | _, _ => s

/-- Thread `t` leaves the issue slot for state `st`. -/
def leave (s : State) (t : Tid) (st : TState) : State :=
  let s := s.modThr t (fun x => { x with st := st })
  let x := s.core t.lathe.val t.core.val
  if x.running = some t.thread.val then
    select (s.setCore t.lathe.val t.core.val { x with running := none, last := t.thread.val }) t.lathe.val t.core.val
  else s

/-- Thread `t` can issue again. -/
def makeReady (s : State) (t : Tid) : State :=
  select (s.modThr t (fun x => { x with st := .ready })) t.lathe.val t.core.val

/-! ## Taking a trap or an interrupt (02 R97) -/

/-- Entry offset of a trap cause (02 Table 2-9). -/
def trapOffset (cause : Nat) : Word := BitVec.ofNat 64 (0x40 * cause)

/-- g0 reads as 0 (02 R58). -/
def Thread.rg (x : Thread) (n : Nat) : Word := if n = 0 then 0 else mget x.g n 0

/-- Writes to g0 are discarded. -/
def Thread.wg (x : Thread) (n : Nat) (v : Word) : Thread := if n = 0 then x else { x with g := mset x.g n v }

/-- Write the values of the loads whose third instruction is due, in program order, and drop them (02 R79, R81). A load into g0
has no delay; its access stays listed until its data arrives. -/
def settleLoads (x : Thread) : Thread :=
  let y := x.loads.foldl (fun y p => if p.cnt = 0 then y.wg p.dst (p.val.getD 0) else y) x
  { y with loads := x.loads.filter (fun p => p.cnt != 0 || (p.dst == 0 && p.val.isNone)) }

/-- XDLYC of the pending loads, older first (02 R98). -/
def dlycOf (ls : List PendLoad) : Word :=
  let slot (p : PendLoad) (at_ : Nat) : Word :=
    (BitVec.ofNat 64 (0x80 + p.cnt * 32 + p.dst)) <<< at_
  match ls with
  | [] => 0
  | [a] => slot a 0
  | a :: b :: _ => slot a 0 ||| slot b 8

def loadVal (ls : List PendLoad) (k : Nat) : Word :=
  match ls[k]? with
  | some p => p.val.getD 0
  | none => 0

/-- Entry to the runtime level. Every pending load's data has arrived, and those due at this boundary are in their registers.
`rep`: repetitions left of a repeat in progress. -/
def enter (s : State) (t : Tid) (epc cause xtval inst off : Word) (rep : Option Nat) : State :=
  let x := settleLoads (s.thr t)
  let ls := x.loads.filter (fun p => p.dst != 0)
  let w := (s.lathe t.lathe.val).world
  let c := s.core t.lathe.val t.core.val
  s.setThr t { x with
    xdly0 := loadVal ls 0
    xdly1 := loadVal ls 1
    xdlyc := dlycOf ls
    loads := x.loads.filter (fun p => p.dst == 0 && p.val.isNone)
    xepc := epc
    xcause := cause
    xtval := xtval
    xinst := inst
    xrep := match rep with
      | some n => BitVec.ofNat 64 (0x8000 + n)
      | none => 0
    rep := none
    resume := none
    bankGrant := none
    bound := false
    ppl := x.level
    pie := x.ie
    ie := false
    tl := true
    nest := false
    level := runtimeLevel w
    pc := c.xtvec + off }

/-- A mailbox end bound to an agent needs attention and is notified (09 R357). -/
def mbxAttention (s : State) (id : BitVec 16) : Bool :=
  s.mbx.any (fun p =>
    let cfg := ctlGet s (rMbx p.1)
    let need0 := !p.2.e0.msgs.isEmpty || !p.2.e0.part.isEmpty || p.2.e1.aborted
    let need1 := !p.2.e1.msgs.isEmpty || !p.2.e1.part.isEmpty || p.2.e0.aborted
    (need0 && cfg.getLsbD 43 && BitVec.ofNat 16 (wbits cfg 0 16) == id) ||
      (need1 && cfg.getLsbD 44 && BitVec.ofNat 16 (wbits cfg 16 16) == id))

/-- The timer's bit of CORE_IP: 1 while DEV_TIME is not below CORE_TCMP (02 Table 2-10). TIMER_EXPIRY latches it. -/
def timerDue (s : State) (x : Thread) : Bool := x.ipTim || decide (x.tcmp.toNat ≤ s.plat.devTime.toNat)

/-- The interrupt that a thread takes at a boundary: XCAUSE and entry offset (02 Table 2-10, R95). -/
def irqOf (s : State) (t : Tid) : Option (Word × Word) :=
  let x := s.thr t
  if !x.ie then none
  else if x.ipPre then some (0x8000000000000003#64, 0x8C0#64)
  else if timerDue s x && x.ieTim then some (0x8000000000000001#64, 0x840#64)
  else if x.ieMbx && mbxAttention s (threadId t) then some (0x8000000000000002#64, 0x880#64)
  else none

end Sys2Proof.Machine
end

