-- ==== Sys2Proof/Machine/Caches.lean ====
section
/-!
DEFINITION. The data caches (08 R299, R306, R309, R317): which caches may hold a line, what an access does to them, and the
copies of remote lines that a die cache holds (R310, R316). The caches hold no data of local memory: it is coherent (R312), so a
line's bytes are those of memory. Which set a line falls in, where Table 8-3 gives only their number, is the model's
(DESIGN CHOICE, notes/assumptions/52.md).
-/

namespace Sys2Proof.Machine

/-! ## One set (R317) -/

def dHas (ws : List DWay) (l : Nat) : Bool := ws.any (fun w => w.line == some l)

/-- A hit on line `l`: the reference bit is set and the age cleared; a store of a write-back line leaves it dirty. -/
def dHit (l : Nat) (dirty : Bool) (writer : Option Nat) (ws : List DWay) : List DWay :=
  ws.map (fun w =>
    if w.line = some l then
      { w with ref := true, age := 0, dirty := w.dirty || dirty, writer := if dirty then writer else w.writer }
    else w)

/-- One sweep of the victim's choice. -/
def dSweep (ws : List DWay) : List DWay :=
  ws.map (fun w => if w.ref then { w with ref := false } else { w with age := min (w.age + 1) 3 })

/-- The victim of a full set. -/
def dVictim : Nat → List DWay → Option Nat × List DWay
  | 0, ws => (none, ws)
  | n + 1, ws =>
    match ws.findIdx? (fun w => !w.ref && w.age == 3 && !w.out) with
    | some k => (some k, ws)
    | none => dVictim n (dSweep ws)

/-- Fill a way of a set of `n` ways: the lowest-numbered invalid one, else the victim. What the victim held is returned. -/
def dPlace (n : Nat) (w : DWay) (ws : List DWay) : List DWay × Option DWay :=
  match ws.findIdx? (fun v => v.line.isNone && !v.out) with
  | some k => (listSet w ws k w, none)
  | none =>
    if ws.length < n then (ws ++ [w], none)
    else
      match dVictim 6 ws with
      | (some k, vs) => (listSet w vs k w, vs[k]?)
      | (none, vs) => (vs, none)

/-- A line as it is filled: STREAM fills enter already old. -/
def newWay (l : Nat) (stream dirty : Bool) (writer : Option Nat) : DWay :=
  { line := some l, ref := !stream, age := if stream then 3 else 0, dirty := dirty, writer := writer }

/-- Invalidate the lines that `p` selects. -/
def dDrop (p : Nat → Bool) (ws : List DWay) : List DWay :=
  ws.map (fun w => match w.line with
    | some l => if p l then { out := w.out } else w
    | none => w)

def dropAll (p : Nat → Bool) (m : SMap (List DWay)) : SMap (List DWay) := m.map (fun e => (e.1, dDrop p e.2))

/-! ## Which caches may hold a line (Table 8-5, R306) -/

def inHbm (a : Nat) : Bool := decide (a < 0x9000000000)
def inMrd (a : Nat) : Bool := decide (0x100000000000 ≤ a) && decide (a < 0x130000000000)

/-- The lathe whose window holds a local address. -/
def lmOf (a : Nat) : Option Nat :=
  if 0x200000000000 ≤ a ∧ a < 0x200044000000 then some ((a - 0x200000000000) / 0x1000000) else none

def Attr.uc (r : Attr) : Bool := r.policy == 2
def Attr.wt (r : Attr) : Bool := r.policy == 1

/-- The home die cache, and with it the LM caches, may hold the line of local address `a`. -/
def homeMay (s : State) (a : Nat) : Bool := !(ratLookup s 0 a).uc && (inHbm a || (inMrd a && s.mem.modeE))

def lmMay (s : State) (a : Nat) : Bool := decide (0 < s.mem.lmCache) && homeMay s a

def l1May (s : State) (lathe a : Nat) : Bool :=
  homeMay s a || (!(ratLookup s 0 a).uc && lmOf a == some lathe)

/-- The lathe die whose die cache is the home of a local address (R300, R304). -/
def homeDie (a : Nat) : Nat := if inHbm a then a / 0x2400000000 else a / 4096 % 4

/-- The slice of a line's address (Table 8-3). -/
def sliceOf (a : Nat) : Nat := (a / 64 ^^^ a / 2048 ^^^ a / 65536 ^^^ a / 2097152) % 32

def l1Key (core l : Nat) : Nat := core * 64 + l % 64
def lmKey (s : State) (lathe l : Nat) : Nat := lathe * 16384 + l % (1024 * max 1 s.mem.lmCache)
def dieKey (die l : Nat) : Nat := (die * 32 + sliceOf (l * 64)) * 1536 + l / 32 % 1536

/-! ## Accesses -/

/-- The number from which lines are those of other devices. -/
def remoteLine (l : Nat) : Bool := decide (2 ^ 42 ≤ l)

/-- Forget the copy of a remote line that a die cache has evicted (R316). -/
def evictCopy (s : State) (die : Nat) (v : Option DWay) : State :=
  match v.bind (fun w => w.line) with
  | some l =>
    if remoteLine l then
      { s with mem := { s.mem with rcopies := s.mem.rcopies.filter (fun c => !(c.die == die && c.line == l * 64)) } }
    else s
  | none => s

/-- An access to line `l` at the die cache `die`; `alloc`: a miss fills the line. -/
def dieUse (s : State) (die l : Nat) (stream dirty alloc : Bool) : State :=
  let k := dieKey die l
  let ws := mget s.caches.die k []
  let put (ws : List DWay) : State := { s with caches := { s.caches with die := mset s.caches.die k ws } }
  if dHas ws l then put (dHit l dirty none ws)
  else if alloc then
    let r := dPlace 16 (newWay l stream dirty none) ws
    evictCopy (put r.1) die r.2
  else s

/-- An access to line `l` at the LM cache of a lathe; a dirty victim is written back to its home. -/
def lmUse (s : State) (lathe l : Nat) (stream dirty : Bool) (writer : Option Nat) (alloc : Bool) : State :=
  let k := lmKey s lathe l
  let ws := mget s.caches.lm k []
  let put (ws : List DWay) : State := { s with caches := { s.caches with lm := mset s.caches.lm k ws } }
  if dHas ws l then put (dHit l dirty writer ws)
  else if alloc then
    let r := dPlace 16 (newWay l stream dirty writer) ws
    match r.2 with
    | some v =>
      (match v.line with
        | some e => if v.dirty then dieUse (put r.1) (homeDie (e * 64)) e false true true else put r.1
        | none => put r.1)
    | none => put r.1
  else s

def lmHas (s : State) (lathe l : Nat) : Bool := dHas (mget s.caches.lm (lmKey s lathe l) []) l

/-- A core's load of local address `a`: each level that may hold the line holds it then (R309). -/
def coreRead (s : State) (lathe core a : Nat) : State :=
  let l := a / 64
  let stream := (ratLookup s 0 a).stream
  let k := l1Key (ckey lathe core) l
  let ws := mget s.caches.l1d k []
  let put (s : State) (ws : List DWay) : State := { s with caches := { s.caches with l1d := mset s.caches.l1d k ws } }
  if !l1May s lathe a then s
  else if dHas ws l then put s (dHit l false none ws)
  else
    let s := put s (dPlace 8 (newWay l stream false none) ws).1
    if lmMay s a then
      if lmHas s lathe l then lmUse s lathe l stream false none true
      else dieUse (lmUse s lathe l stream false none true) (homeDie a) l stream false true
    else if homeMay s a then dieUse s (homeDie a) l stream false true
    else s

/-- A store that acts at the home die cache. -/
def homeWrite (s : State) (a : Nat) : State :=
  let r := ratLookup s 0 a
  if homeMay s a then dieUse s (homeDie a) (a / 64) r.stream (!r.wt) r.wa else s

/-- A read that acts at the home die cache (R310). -/
def homeRead (s : State) (a : Nat) : State :=
  if homeMay s a then dieUse s (homeDie a) (a / 64) (ratLookup s 0 a).stream false true else s

/-- A core's store to local address `a`, by the task of thread `w` (R306). The L1 data cache writes through. -/
def coreWrite (s : State) (lathe core w a : Nat) : State :=
  let l := a / 64
  let r := ratLookup s 0 a
  let k := l1Key (ckey lathe core) l
  let ws := mget s.caches.l1d k []
  let s := if dHas ws l then { s with caches := { s.caches with l1d := mset s.caches.l1d k (dHit l false none ws) } } else s
  if lmMay s a then
    if r.wt then homeWrite (lmUse s lathe l r.stream false none r.wa) a
    else if lmHas s lathe l then lmUse s lathe l r.stream true (some w) true
    else if r.wa then dieUse (lmUse s lathe l r.stream true (some w) true) (homeDie a) l r.stream false true
    else homeWrite s a
  else homeWrite s a

/-- The lines of a run of bytes. -/
def runLines (a n : Nat) : List Nat := if n = 0 then [] else (List.range ((a + n - 1) / 64 - a / 64 + 1)).map (fun k => (a / 64 + k) * 64)

/-- The dirty lines of lathe `lathe` that `p` selects by their writer are written back to their homes. -/
def lmClean (s : State) (lathe : Nat) (p : Option Nat → Bool) : State :=
  let mine (e : Nat × List DWay) : Bool := e.1 / 16384 == lathe
  let ls := ((s.caches.lm.filter mine).flatMap (fun e => e.2)).filterMap (fun w => if w.dirty && p w.writer then w.line else none)
  let clean (w : DWay) : DWay := if w.dirty && p w.writer then { w with dirty := false } else w
  let s := { s with caches := { s.caches with lm := s.caches.lm.map (fun e => if mine e then (e.1, e.2.map clean) else e) } }
  ls.foldl (fun s l => dieUse s (homeDie (l * 64)) l false true true) s

/-- Every LM cache writes back and invalidates its lines (R311). -/
def lmFlush (s : State) : State :=
  let ls := (s.caches.lm.flatMap (fun e => e.2)).filterMap (fun w => if w.dirty then w.line else none)
  let s := { s with caches := { s.caches with lm := dropAll (fun _ => true) s.caches.lm } }
  ls.foldl (fun s l => dieUse s (homeDie (l * 64)) l false true true) s

/-- The instruction caches of lathe `lathe` lose line `l`. -/
def icDrop (s : State) (lathe l : Nat) : State :=
  { s with cores := s.cores.map (fun p =>
      if p.1 / 68 = lathe then
        (p.1, { p.2 with icache := p.2.icache.map (fun e => (e.1, e.2.filter (fun w => w.tag * 64 + e.1 != l))) })
      else p) }

/-- What becomes of the ways of one lathe, or of the die cache of one die, that hold the line of an address: `kind` and `index` name
the unit as in 14 Table 14-4. -/
def atLine (s : State) (kind index : Nat) (a : Word) (f : DWay → DWay) : State :=
  let own := if kind = 1 then index / 68 else index
  let l := cellOf (some own) (localOf a) / 64
  let at_ (p : DWay → Bool) (w : DWay) : DWay := if p w then f w else w
  let mine (w : DWay) : Bool := w.line == some l || w.line == some (a.toNat / 64)
  let go (g : Nat → Nat) (i : Nat) (m : SMap (List DWay)) : SMap (List DWay) :=
    m.map (fun e => if g e.1 = i then (e.1, e.2.map (at_ mine)) else e)
  if kind ≤ 2 then
    { s with caches := { s.caches with l1d := go (fun k => k / 4352) own s.caches.l1d, lm := go (fun k => k / 16384) own s.caches.lm } }
  else { s with caches := { s.caches with die := go (fun k => k / 49152) index s.caches.die } }

/-- A clean line leaves the caches of a unit, and is read again at its next use (R318, R321). -/
def dropLine (s : State) (kind index : Nat) (a : Word) : State :=
  let own := if kind = 1 then index / 68 else index
  let s := atLine s kind index a (fun w => { out := w.out })
  if kind ≤ 2 then icDrop s own (cellOf (some own) (localOf a) / 64)
  else { s with mem := { s.mem with rcopies := s.mem.rcopies.filter (fun c => !(c.die == index && c.line == a.toNat / 64 * 64)) } }

/-- Whether a cache of the unit holds the line dirty. -/
def heldDirty (s : State) (kind index : Nat) (a : Word) : Bool :=
  let own := if kind = 1 then index / 68 else index
  let l := cellOf (some own) (localOf a) / 64
  if kind ≤ 2 then (s.caches.lm.filter (fun e => e.1 / 16384 == own)).any (fun e => e.2.any (fun w => w.dirty && w.line == some l))
  else (s.caches.die.filter (fun e => e.1 / 49152 == index)).any (fun e => e.2.any (fun w => w.dirty && w.line == some l))

/-- A dirty line is lost: its way is out of use until the next start (R319). -/
def loseWay (s : State) (kind index : Nat) (a : Word) : State :=
  atLine s kind index a (fun w => if w.dirty then { out := true } else w)

/-- The 64 bytes at `a` become free values: those that the line's home holds when a newer content is lost. -/
def loseBytes (s : State) (a : Nat) : State :=
  memWrite { s with free := s.free + 64 } a ((List.range 64).map (fun k => Config.remoteByte (s.free + k)))

/-- A dirty line of an LM cache is lost: the bytes that its home holds instead are free values (R319). -/
def loseDirty (s : State) (kind index : Nat) (a : Word) : State :=
  let own := if kind = 1 then index / 68 else index
  loseBytes (loseWay s kind index a) (cellOf (some own) (localOf a) / 64 * 64)

/-- The lines that lathe `lathe` holds dirty in its LM cache. -/
def dirtyLines (s : State) (lathe : Nat) : List Nat :=
  ((s.caches.lm.filter (fun e => e.1 / 16384 == lathe)).flatMap (fun e => e.2)).filterMap (fun w => if w.dirty then w.line else none)

/-! ## Copies of remote lines (R310, R316) -/

/-- Remote lines of this address may be copied. -/
def rcacheAt (s : State) (a : Word) : Bool :=
  let r := ratLookup s 1 (localOf a)
  s.mem.modeE && r.rcache && !r.uc

def copyOf (s : State) (t : Tid) (a : Word) : Option RCopy :=
  s.mem.rcopies.find? (fun c => c.die == t.lathe.val / 17 && c.line == a.toNat / 64 * 64)

/-- A read finds a copy. -/
def copyHit (s : State) (t : Tid) (a : Word) : State := dieUse s (t.lathe.val / 17) (a.toNat / 64) false false false

/-- Bytes `own` in place of those of a line at `line`. -/
def overlay (line : Nat) (d : List Byte) (own : List (Nat × Byte)) : List Byte :=
  own.foldl (fun d p => if line ≤ p.1 ∧ p.1 < line + d.length then putAt d (p.1 - line) [p.2] else d) d

/-- A line of another device arrives at die `die`, with this device's own stores to it since it was asked for. -/
def fillCopy (s : State) (die : Nat) (w : Word) (d : List Byte) : State :=
  let line := w.toNat / 64 * 64
  let s := dieUse s die (line / 64) (ratLookup s 1 (localOf w)).stream false true
  if dHas (mget s.caches.die (dieKey die (line / 64)) []) (line / 64) then
    let cs := s.mem.rcopies.filter (fun c => !(c.die == die && c.line == line))
    { s with mem := { s.mem with rcopies := cs ++ [⟨die, line, d⟩] } }
  else s

/-- The bytes of a run, by address. -/
def addressed (w : Word) (d : List Byte) : List (Nat × Byte) := (indexed d).map (fun b => (w.toNat + b.1, b.2))

/-- A READ of a whole line, which may become a copy. -/
def asksLine (o : Outstanding) (lo n : Nat) : Bool :=
  let line := o.dst.toNat * 2 ^ 48 + o.pkt.addr.toNat
  o.pkt.type == 0x01 && leAt o.pkt.payload 0 2 == 64 && decide (lo < line + 64) && decide (line < lo + n)

/-- The local copies of a remote line follow this device's own stores, also one that is on its way (R316). -/
def storeCopies (s : State) (w : Word) (d : List Byte) : State :=
  let own := addressed w d
  { s with
    mem := { s.mem with rcopies := s.mem.rcopies.map (fun c => { c with data := overlay c.line c.data own }) }
    chain := { s.chain with outst := s.chain.outst.map (fun o =>
      if asksLine o w.toNat d.length then { o with own := o.own ++ own } else o) } }

/-- Discard the die-cache copies of the remote lines of a run (R310, R316); one on its way is not kept. -/
def dropCopies (s : State) (w : Word) (n : Nat) : State :=
  let hit (line : Nat) : Bool := decide (line < w.toNat + n) && decide (w.toNat < line + 64)
  { s with
    mem := { s.mem with rcopies := s.mem.rcopies.filter (fun c => !hit c.line) }
    caches := { s.caches with die := dropAll (fun l => remoteLine l && hit (l * 64)) s.caches.die }
    chain := { s.chain with outst := s.chain.outst.map (fun o =>
      if asksLine o w.toNat n then { o with keep := false } else o) } }

/-- Every copy of a remote line is discarded (R311, R316). -/
def dropRemote (s : State) : State :=
  { s with
    mem := { s.mem with rcopies := [] }
    caches := { s.caches with die := dropAll remoteLine s.caches.die }
    chain := { s.chain with outst := s.chain.outst.map (fun o => { o with keep := false }) } }

end Sys2Proof.Machine
end

