-- ==== Sys2Proof/Machine/Float.lean ====
section
/-!
DEFINITION. Floating-point values as exact dyadic numbers, and their one rounding into a format (04 R152 to R163, R549).
-/

namespace Sys2Proof.Machine

/-- The value of a floating-point code: a NaN with its sign, signalling or not (04 R549), an infinity, or
(-1)^neg * m * 2^e. -/
inductive FVal where
  | nan (neg : Bool) (sig : Bool)
  | inf (neg : Bool)
  | fin (neg : Bool) (m : Nat) (e : Int)
  deriving DecidableEq, Repr

/-- How the largest exponent field of a format is used (04 R152). -/
inductive FKind where
  /-- infinity and NaN, as in IEEE 754 -/
  | ieee
  /-- NaN at all ones, no infinity -/
  | e4m3
  /-- neither -/
  | e2m1
  deriving DecidableEq, Repr

/-- A floating-point format. `sn`: its NaNs can be signalling. -/
structure FFmt where
  eb : Nat
  fb : Nat
  bias : Nat
  kind : FKind
  sn : Bool
  deriving DecidableEq, Repr

def fp32 : FFmt := ⟨8, 23, 127, .ieee, true⟩
def fp64 : FFmt := ⟨11, 52, 1023, .ieee, true⟩
def bf16 : FFmt := ⟨8, 7, 127, .ieee, true⟩
def fp16 : FFmt := ⟨5, 10, 15, .ieee, true⟩
def e4m3 : FFmt := ⟨4, 3, 7, .e4m3, false⟩
def e5m2 : FFmt := ⟨5, 2, 15, .ieee, false⟩
def e2m1 : FFmt := ⟨2, 1, 1, .e2m1, false⟩

/-- The exponent of one unit of the smallest subnormal. -/
def FFmt.emin (F : FFmt) : Int := 1 - (F.bias : Int) - (F.fb : Int)

/-- The code of the largest finite magnitude (04 Table 4-2). -/
def FFmt.maxCode (F : FFmt) : Nat :=
  match F.kind with
  | .ieee => (2 ^ F.eb - 1) * 2 ^ F.fb - 1
  | .e4m3 => 2 ^ (F.eb + F.fb) - 2
  | .e2m1 => 2 ^ (F.eb + F.fb) - 1

/-- The canonical NaN that is written (04 Table 4-2). -/
def FFmt.qnan (F : FFmt) : Nat :=
  match F.kind with
  | .ieee => (2 ^ F.eb - 1) * 2 ^ F.fb + 2 ^ (F.fb - 1)
  | _ => 2 ^ (F.eb + F.fb) - 1

def FFmt.infCode (F : FFmt) : Nat := (2 ^ F.eb - 1) * 2 ^ F.fb

def FFmt.signAt (F : FFmt) (neg : Bool) (mag : Nat) : Nat := if neg then mag + 2 ^ (F.eb + F.fb) else mag

/-- The value of a code (04 R152). -/
def FFmt.decode (F : FFmt) (c : Nat) : FVal :=
  let neg := nbits c (F.eb + F.fb) 1 == 1
  let ef := nbits c F.fb F.eb
  let fr := nbits c 0 F.fb
  let top := 2 ^ F.eb - 1
  if F.kind = .ieee ∧ ef = top then
    if fr = 0 then .inf neg else .nan neg (F.sn && decide (fr < 2 ^ (F.fb - 1)))
  else if F.kind = .e4m3 ∧ ef = top ∧ fr = 2 ^ F.fb - 1 then .nan neg false
  else if ef = 0 then .fin neg fr F.emin
  else .fin neg (2 ^ F.fb + fr) (F.emin + (ef : Int) - 1)

/-- Choice between the two neighbours of a value (04 Table 4-4); `sr r` with the 24 bits of the generator. -/
inductive RMode where
  | rne | rtz
  | sr (r : Nat)
  deriving DecidableEq, Repr

/-- `m * 2^e` in units of `2^q`: quotient, remainder and the divisor of the remainder. -/
def inUnits (m : Nat) (e q : Int) : Nat × Nat × Nat :=
  if q ≤ e then (m * 2 ^ (e - q).toNat, 0, 1)
  else
    let d := 2 ^ (q - e).toNat
    (m / d, m % d, d)

/-- Whether the larger neighbour is taken: quotient, remainder and divisor (04 R154, R162). -/
def takeHi (rm : RMode) (qr : Nat × Nat × Nat) : Bool :=
  match rm with
  | .rtz => false
  | .rne => decide (qr.2.2 < 2 * qr.2.1) || (decide (2 * qr.2.1 = qr.2.2) && decide (qr.1 % 2 = 1) && decide (qr.2.1 ≠ 0))
  | .sr r => decide (r < qr.2.1 * 2 ^ 24 / qr.2.2)

/-- An integer rounding of `m * 2^e`: the integer, and whether it differs. -/
def roundInt (rm : RMode) (m : Nat) (e : Int) : Nat × Bool :=
  let u := inUnits m e 0
  (if takeHi rm u then u.1 + 1 else u.1, decide (u.2.1 ≠ 0))

/-- A rounding into a format with exponents unbounded above: the magnitude code, whether the value lies above the largest
finite magnitude, and whether the code's value differs from it. -/
structure Rounded where
  code : Nat
  above : Bool
  inexact : Bool
  deriving DecidableEq, Repr

def FFmt.roundMag (F : FFmt) (rm : RMode) (m : Nat) (e : Int) : Rounded :=
  if m = 0 then ⟨0, false, false⟩
  else
    let q := max (e + (bitLen m : Int) - ((F.fb : Int) + 1)) F.emin
    let u := inUnits m e q
    let off := (q - F.emin).toNat * 2 ^ F.fb
    let lo := off + u.1
    let ix := decide (u.2.1 ≠ 0)
    ⟨if takeHi rm u then lo + 1 else lo, decide (F.maxCode < lo) || (decide (lo = F.maxCode) && ix), ix⟩

/-! ## Flags (04 R549) -/

/-- nv dz of uf nx, as they stand in CORE_FPCSR[9:5]. -/
abbrev FFlags := BitVec 5

def fNv : FFlags := 16
def fDz : FFlags := 8
def fOf : FFlags := 4
def fUf : FFlags := 2
def fNx : FFlags := 1

def fIf (b : Bool) (f : FFlags) : FFlags := if b then f else 0

/-- The result of an arithmetic operation in a format with infinities: code and flags. -/
def FFmt.deliver (F : FFmt) (rm : RMode) (v : FVal) : Nat × FFlags :=
  match v with
  | .nan _ _ => (F.qnan, 0)
  | .inf neg => (F.signAt neg F.infCode, 0)
  | .fin neg m e =>
    let r := F.roundMag rm m e
    if F.maxCode < r.code then
      (F.signAt neg (if rm = .rtz then F.maxCode else F.infCode), fOf ||| fNx)
    else
      (F.signAt neg r.code, fIf (r.inexact && decide (r.code < 2 ^ F.fb)) fUf ||| fIf r.inexact fNx)

/-! ## Exact arithmetic -/

def FVal.isNan : FVal → Bool
  | .nan _ _ => true
  | _ => false

def FVal.isSig : FVal → Bool
  | .nan _ g => g
  | _ => false

def FVal.isZero : FVal → Bool
  | .fin _ 0 _ => true
  | _ => false

def FVal.neg : FVal → Bool
  | .nan n _ => n
  | .inf n => n
  | .fin n _ _ => n

def FVal.negate : FVal → FVal
  | .nan n g => .nan (!n) g
  | .inf n => .inf (!n)
  | .fin n m e => .fin (!n) m e

def FVal.abs : FVal → FVal
  | .nan _ g => .nan false g
  | .inf _ => .inf false
  | .fin _ m e => .fin false m e

/-- The value times 2^k. -/
def FVal.scale (k : Int) : FVal → FVal
  | .fin n m e => .fin n m (e + k)
  | v => v

/-- The quiet NaN of an invalid operation. -/
def qn : FVal := .nan false false

/-- A signed dyadic from an integer in units of 2^e; `z` is the sign of zero. -/
def ofInt (z : Bool) (i : Int) (e : Int) : FVal :=
  if i = 0 then .fin z 0 e else .fin (decide (i < 0)) i.natAbs e

/-- The integer of a finite value in units of 2^e, for an `e` at or below its own exponent. -/
def intAt (neg : Bool) (m : Nat) (e0 e : Int) : Int :=
  let k : Int := (m * 2 ^ (e0 - e).toNat : Nat)
  if neg then -k else k

/-- Exact sum, with its invalid flag. -/
def FVal.add (a b : FVal) : FVal × FFlags :=
  let sg := fIf (a.isSig || b.isSig) fNv
  match a, b with
  | .nan _ _, _ => (qn, sg)
  | _, .nan _ _ => (qn, sg)
  | .inf x, .inf y => if x = y then (.inf x, 0) else (qn, fNv)
  | .inf x, _ => (.inf x, 0)
  | _, .inf y => (.inf y, 0)
  | .fin x m e, .fin y n f =>
    let k := min e f
    (ofInt (x && y) (intAt x m e k + intAt y n f k) k, 0)

/-- Exact product, with its invalid flag. -/
def FVal.mul (a b : FVal) : FVal × FFlags :=
  let sg := fIf (a.isSig || b.isSig) fNv
  let s := xor a.neg b.neg
  match a, b with
  | .nan _ _, _ => (qn, sg)
  | _, .nan _ _ => (qn, sg)
  | .inf _, v => if v.isZero then (qn, fNv) else (.inf s, 0)
  | v, .inf _ => if v.isZero then (qn, fNv) else (.inf s, 0)
  | .fin _ m e, .fin _ n f => (.fin s (m * n) (e + f), 0)

/-- a * b + c exactly. A NaN addend does not hide an invalid product. -/
def FVal.fma (a b c : FVal) : FVal × FFlags :=
  let p := a.mul b
  let r := p.1.add c
  (r.1, p.2 ||| r.2)

/-- Quotient to at least 130 bits with a sticky bit: exact enough for one rounding in any format here. -/
def FVal.div (a b : FVal) : FVal × FFlags :=
  let sg := fIf (a.isSig || b.isSig) fNv
  let s := xor a.neg b.neg
  match a, b with
  | .nan _ _, _ => (qn, sg)
  | _, .nan _ _ => (qn, sg)
  | .inf _, .inf _ => (qn, fNv)
  | .inf _, _ => (.inf s, 0)
  | _, .inf _ => (.fin s 0 0, 0)
  | .fin _ m e, .fin _ n f =>
    if n = 0 then (if m = 0 then (qn, fNv) else (.inf s, fDz))
    else
      let k := 130 + bitLen n
      let q := (m * 2 ^ k) / n
      (.fin s (2 * q + (if (m * 2 ^ k) % n = 0 then 0 else 1)) (e - f - (k : Int) - 1), 0)

/-- Integer square root by bits, from bit `k - 1` down. -/
def isqrt (n : Nat) : Nat → Nat → Nat
  | 0, r => r
  | k + 1, r => let t := r + 2 ^ k; if t * t ≤ n then isqrt n k t else isqrt n k r

/-- Square root with a sticky bit. -/
def FVal.sqrt (a : FVal) : FVal × FFlags :=
  match a with
  | .nan _ g => (qn, fIf g fNv)
  | .inf n => if n then (qn, fNv) else (.inf false, 0)
  | .fin n m e =>
    if m = 0 then (.fin n 0 0, 0)
    else if n then (qn, fNv)
    else
      let e2 := if e % 2 = 0 then e - 140 else e - 141
      let x := m * 2 ^ (e - e2).toNat
      let r := isqrt x ((bitLen x + 1) / 2) 0
      (.fin false (2 * r + (if r * r = x then 0 else 1)) (e2 / 2 - 1), 0)

/-- Order of two values that are not NaN: a < b. Zeros are equal. -/
def FVal.lt (a b : FVal) : Bool :=
  match a, b with
  | .nan _ _, _ => false
  | _, .nan _ _ => false
  | .inf x, .inf y => x && !y
  | .inf x, _ => x
  | _, .inf y => !y
  | .fin x m e, .fin y n f =>
    let k := min e f
    decide (intAt x m e k < intAt y n f k)

/-- Equality of two values that are not NaN. -/
def FVal.eq (a b : FVal) : Bool :=
  !(a.isNan || b.isNan) && !(a.lt b) && !(b.lt a)

/-- minimumNumber and maximumNumber of IEEE 754-2019: -0 lies below +0, a NaN yields to a number. -/
def FVal.pick (mx : Bool) (a b : FVal) : FVal × FFlags :=
  let sg := fIf (a.isSig || b.isSig) fNv
  if a.isNan && b.isNan then (qn, sg)
  else if a.isNan then (b, sg)
  else if b.isNan then (a, sg)
  else
    let below := a.lt b || (a.eq b && a.neg && !b.neg)
    (if below != mx then a else b, 0)

/-- Two's complement reading of the low `n` bits. -/
def signedOf (n x : Nat) : Int :=
  let y := x % 2 ^ n
  if y < 2 ^ (n - 1) then (y : Int) else (y : Int) - 2 ^ n

/-- The low `n` bits of an integer. -/
def unsignedOf (n : Nat) (i : Int) : Nat := (i % (2 ^ n : Int)).toNat

/-! ## FP32 arithmetic as one rounding -/

def f32v (x : F32) : FVal := fp32.decode x.toNat

def toF32 (rm : RMode) (v : FVal) : F32 := BitVec.ofNat 32 (fp32.deliver rm v).1

/-- FP32 a + b, nearest even. -/
def fadd32 (a b : F32) : F32 := toF32 .rne ((f32v a).add (f32v b)).1
def fmul32 (a b : F32) : F32 := toF32 .rne ((f32v a).mul (f32v b)).1

/-- FP32 a * b + c, one rounding, nearest even. -/
def fma32 (a b c : F32) : F32 := toF32 .rne ((f32v a).fma (f32v b) (f32v c)).1
def fdiv32 (a b : F32) : F32 := toF32 .rne ((f32v a).div (f32v b)).1
def fsqrt32 (a : F32) : F32 := toF32 .rne (f32v a).sqrt.1
def fneg32 (a : F32) : F32 := a ^^^ 0x80000000#32
def fabs32 (a : F32) : F32 := a &&& 0x7FFFFFFF#32

/-- The larger of two magnitudes, an FP32 amax (04 R181): the codes of magnitudes rise with the values. -/
def amaxMerge (a b : F32) : F32 := if a.toNat < b.toNat then b else a

/-- |x| as it enters an amax: a NaN is left out (04 R181). -/
def amaxOf (x : F32) : F32 := if (f32v x).isNan then 0 else fabs32 x
def nonFinite (x : F32) : Bool := nbits x.toNat 23 8 == 255

end Sys2Proof.Machine
end

