-- ==== Sys2Proof/Machine/Formats.lean ====
section
/-!
DEFINITION. Format codes, conversions, block exponents and the rounding generator (04).
-/

namespace Sys2Proof.Machine

/-! ## Format codes (04 Table 4-1) -/

/-- Codes 0x7, 0xE and 0xF are reserved (R150). -/
def fmtReserved (c : Nat) : Bool := c == 7 || 14 ≤ c

/-- The block formats, codes 0x8 to 0xD (R171). -/
def fmtBlock (c : Nat) : Bool := 8 ≤ c && c ≤ 13

/-- The Turler block formats. -/
def fmtTB (c : Nat) : Bool := 11 ≤ c && c ≤ 13

/-- The microscaling formats. -/
def fmtMX (c : Nat) : Bool := 8 ≤ c && c ≤ 10

/-- The element code of a format: a block format's elements have the code of their element format. -/
def fmtElem (c : Nat) : Nat :=
  match c with
  | 8 | 11 => 3
  | 9 | 13 => 4
  | 10 | 12 => 6
  | _ => c

/-- Bits of one element in the data plane. -/
def fmtBits (c : Nat) : Nat :=
  match fmtElem c with
  | 0 => 32
  | 1 | 2 => 16
  | 6 => 4
  | _ => 8

/-- emax of R172: 8 (E4M3), 2 (E2M1), 15 (E5M2). -/
def fmtEmax (c : Nat) : Int :=
  match fmtElem c with
  | 3 => 8
  | 6 => 2
  | _ => 15

/-- The floating-point layout of an element code; INT8 has none. -/
def fmtLayout (c : Nat) : Option FFmt :=
  match fmtElem c with
  | 0 => some fp32
  | 1 => some bf16
  | 2 => some fp16
  | 3 => some e4m3
  | 4 => some e5m2
  | 6 => some e2m1
  | _ => none

/-- The value of an element code (R152, R153). -/
def elemVal (c : Nat) (x : Nat) : FVal :=
  match fmtLayout c with
  | some F => F.decode x
  | none => let i := signedOf 8 x; ofInt false i 0

/-- An element as FP32, exact; a NaN becomes the canonical NaN (R153). -/
def elemF32 (c : Nat) (x : Nat) : F32 := toF32 .rne (elemVal c x)

/-! ## Conversions -/

/-- FU_CVTSTAT bits: escape_miss, scale_escape_full, scale_clamp, nan_squashed, saturated. -/
abbrev CStat := BitVec 5

def cSat : CStat := 1
def cSquash : CStat := 2
def cClamp : CStat := 4
def cFull : CStat := 8
def cMiss : CStat := 16

/-- The outcome of one conversion: code, FU_CVTSTAT bits, CORE_FPCSR flags (R160). -/
structure Cvt where
  code : Nat
  stat : CStat
  fl : FFlags
  deriving DecidableEq, Repr

/-- Conversion to an integer of `n` bits, magnitude limits `hi` (positive) and `lo` (negative) (R159, R188). -/
def cvtInt (n hi lo : Nat) (rm : RMode) (v : FVal) : Cvt :=
  let out (neg : Bool) (k : Nat) : Nat := unsignedOf n (if neg then -(k : Int) else k)
  match v with
  | .nan neg _ => ⟨out neg (if neg then lo else hi), cSquash, fNv⟩
  | .inf neg => ⟨out neg (if neg then lo else hi), cSat, fOf ||| fNx⟩
  | .fin neg m e =>
    let r := roundInt rm m e
    let lim := if neg then lo else hi
    if lim < r.1 then ⟨out neg lim, cSat, fOf ||| fNx⟩
    else ⟨out neg r.1, 0, fIf r.2 fNx ||| fIf (r.2 && r.1 == 0) fUf⟩

/-- Conversion to a floating-point element; `blk`: an element of a block format, in which E5M2 saturates (R155). -/
def cvtFloat (F : FFmt) (blk : Bool) (rm : RMode) (v : FVal) : Cvt :=
  let saturates := blk || F.kind != .ieee
  match v with
  | .nan neg g =>
    if F.kind = .e2m1 then ⟨F.signAt neg F.maxCode, cSquash, fNv⟩ else ⟨F.qnan, 0, fIf g fNv⟩
  | .inf neg =>
    if saturates then ⟨F.signAt neg F.maxCode, cSat, fOf ||| fNx⟩ else ⟨F.signAt neg F.infCode, 0, 0⟩
  | .fin neg m e =>
    let r := F.roundMag rm m e
    if saturates && r.above then ⟨F.signAt neg F.maxCode, cSat, fOf ||| fNx⟩
    else if F.maxCode < r.code then
      if rm = .rtz then ⟨F.signAt neg F.maxCode, 0, fNx⟩ else ⟨F.signAt neg F.infCode, 0, fOf ||| fNx⟩
    else ⟨F.signAt neg r.code, 0, fIf r.inexact fNx ||| fIf (r.inexact && decide (r.code < 2 ^ F.fb)) fUf⟩

/-- Conversion of a value to format code `c` (R153 to R159). -/
def convert (c : Nat) (rm : RMode) (v : FVal) : Cvt :=
  match fmtLayout c with
  | some F => cvtFloat F (fmtBlock c) rm v
  | none => cvtInt 8 127 128 rm v

/-! ## The rounding generator (04 R166) -/

def trgRound (k : BitVec 32) (x : BitVec 32 × BitVec 32 × BitVec 32 × BitVec 32) :
    BitVec 32 × BitVec 32 × BitVec 32 × BitVec 32 :=
  let x0 := x.1 + x.2.1 + k
  let x3 := (x.2.2.2 ^^^ x0).rotateLeft 16
  let x2 := x.2.2.1 + x3
  let x1 := (x.2.1 ^^^ x2).rotateLeft 12
  (x1, x2, x3, x0)

/-- trg(seed, tensor, step, index, tag) (R166). -/
def trg (seed : Word) (tensor : BitVec 16) (step index : BitVec 32) (tag : Nat) : BitVec 32 :=
  let k0 : BitVec 32 := seed.setWidth 32
  let k1 : BitVec 32 := (seed >>> 32).setWidth 32
  let x2 : BitVec 32 := (BitVec.ofNat 32 tag <<< 16) ||| tensor.setWidth 32
  let x := trgRound k1 (trgRound k0 (trgRound k1 (trgRound k0 (index, step, x2, 0x9E3779B9#32))))
  x.1 ^^^ x.2.1 ^^^ x.2.2.1 ^^^ x.2.2.2

/-- Who rounds: seed, tensor, step and use tag of a stochastic conversion (R164, R167). -/
structure Key where
  seed : Word
  tensor : BitVec 16
  step : BitVec 32
  tag : Nat
  deriving DecidableEq, Repr

/-- The mode of a conversion at linear element index `i` (R161, R162); without a key, stochastic is nearest even (R163). -/
def modeAt (rm : Nat) (key : Option Key) (i : Nat) : RMode :=
  match rm, key with
  | 2, _ => .rtz
  | 0, some k => .sr ((trg k.seed k.tensor k.step (BitVec.ofNat 32 i) k.tag).toNat % 2 ^ 24)
  | _, _ => .rne

/-! ## Block exponents (04 R172 to R178, R550) -/

/-- |x| as it enters a block's largest magnitude: a NaN is left out, an infinity is the largest finite value. -/
def blockMag (x : F32) : Nat :=
  let m := (fabs32 x).toNat
  if (f32v x).isNan then 0 else if fp32.maxCode < m then fp32.maxCode else m

def blockMax (xs : List F32) : Nat := xs.foldl (fun a x => max a (blockMag x)) 0

/-- floor(log2 a) and ceil(log2 a) of the magnitude with FP32 code `a`, not 0. -/
def floorLog2 (a : Nat) : Int :=
  match fp32.decode a with
  | .fin _ m e => e + (bitLen m : Int) - 1
  | _ => 127

def ceilLog2 (a : Nat) : Int :=
  match fp32.decode a with
  | .fin _ m e => if m = 2 ^ (bitLen m - 1) then e + (bitLen m : Int) - 1 else e + (bitLen m : Int)
  | _ => 128

def clampI (lo hi x : Int) : Int := if x < lo then lo else if hi < x then hi else x

/-- e_blk of R172 for base B and format c. -/
def tbExp (c : Nat) (B : Int) (xs : List F32) : Int :=
  let a := blockMax xs
  if a = 0 then B - 7 else ceilLog2 a - fmtEmax c

/-- X of R178. -/
def mxExp (c : Nat) (xs : List F32) : Int :=
  let a := blockMax xs
  if a = 0 then -127 else clampI (-127) 127 (floorLog2 a - fmtEmax c)

/-- The base exponent drawn from the largest value `A` of a history (R183). -/
def baseExp (c : Nat) (A : Nat) (headroom : Nat) (initBase : Int) : Int :=
  if A = 0 then initBase
  else clampI (-127) 127 (ceilLog2 (min A fp32.infCode) - fmtEmax c + headroom)

/-- The shift of a 4-bit code other than ESCAPE (R170). -/
def shiftOf (code : Nat) : Int := signedOf 4 code

/-- An element of a block with exponent `e`, as FP32 (R169): x * 2^e rounded to nearest (exact wherever FP32 holds it). -/
def blockElem (c x : Nat) (e : Int) : F32 := toF32 .rne ((elemVal c x).scale e)

/-- Conversion of `x / 2^e` to an element of format `c`. -/
def convertAt (c : Nat) (rm : RMode) (e : Int) (x : F32) : Cvt := convert c rm ((f32v x).scale (-e))

/-! ## BFP16 (04 R187, R188) -/

/-- m * 2^(E - 141), with -32,768 read as -32,767. -/
def bfpVal (m : BitVec 16) (E : Nat) : FVal :=
  let i := m.toInt
  ofInt false (if i = -32768 then -32767 else i) ((E : Int) - 141)

/-- Conversion into a block with exponent `E` (R188): R155 judges the value before it is rounded. -/
def bfpConvert (rm : RMode) (E : Nat) (v : FVal) : Cvt :=
  let x := v.scale (141 - (E : Int))
  match x with
  | .fin neg m e =>
    let r := roundInt .rtz m e
    if 32767 < r.1 ∨ (r.1 = 32767 ∧ r.2) then cvtInt 16 32767 32767 rm (.inf neg) else cvtInt 16 32767 32767 rm x
  | _ => cvtInt 16 32767 32767 rm x

end Sys2Proof.Machine
end

