-- ==== Sys2Proof/Machine/Detect.lean ====
section
/-!
DEFINITION. Detection of a fault (14): its first class, its sequence number, and the handling it starts, joins or queues
behind. Every command that meets a fault calls `detect`.
-/

namespace Sys2Proof.Machine

/-! ## Causes (14 Table 14-3) -/

def cEccSingle : BitVec 16 := 0x01
def cTagParity : BitVec 16 := 0x02
def cCleanReread : BitVec 16 := 0x03
def cLmDirtyLost : BitVec 16 := 0x04
def cTileEcc : BitVec 16 := 0x05
def cCoreParity : BitVec 16 := 0x06
def cCatchRetry : BitVec 16 := 0x07
def cCatchTol : BitVec 16 := 0x08
def cCatchRemap : BitVec 16 := 0x09
def cCatchRetire : BitVec 16 := 0x0A
def cSilent : BitVec 16 := 0x0B
def cStale : BitVec 16 := 0x0C
def cLateError : BitVec 16 := 0x0D
def cPoisonSet : BitVec 16 := 0x0E
def cPoisonRead : BitVec 16 := 0x0F
def cDramRow : BitVec 16 := 0x10
def cSparesOut : BitVec 16 := 0x11
def cLaneSwap : BitVec 16 := 0x12
def cWidth4 : BitVec 16 := 0x13
def cPortDown : BitVec 16 := 0x14
def cMiswired : BitVec 16 := 0x15
def cSupMismatch : BitVec 16 := 0x16
def cDoubleTrap : BitVec 16 := 0x17
def cReplayLimit : BitVec 16 := 0x18
def cFerruleEcc : BitVec 16 := 0x19
def cHostBuffer : BitVec 16 := 0x1A
def cClock : BitVec 16 := 0x1B
def cMrdDisabled : BitVec 16 := 0x1C
def cAdopted : BitVec 16 := 0x1D
def cFenced : BitVec 16 := 0x1E
def cProtStop : BitVec 16 := 0x1F
def cNoLathe : BitVec 16 := 0x20
def cProtocol : BitVec 16 := 0x21
def cMirrorFail : BitVec 16 := 0x22
def cNonfinite : BitVec 16 := 0x23
def cStepAbort : BitVec 16 := 0x24
def cBootFailed : BitVec 16 := 0x25

/-- First class of a cause; `hard`: an error of a ferrule engine cannot be corrected in place (14 R461), or a stopped supervisor
pair fails its test (R460). -/
def firstClass (cause : BitVec 16) (hard : Bool) : Nat :=
  match cause.toNat with
  | 0x04 | 0x05 | 0x06 | 0x0D | 0x17 => 1
  | 0x09 | 0x10 | 0x13 => 2
  | 0x0A | 0x0B => 3
  | 0x0F | 0x18 | 0x1F | 0x20 | 0x24 | 0x25 => 5
  | 0x16 => if hard then 2 else 0
  | 0x19 => if hard then 1 else 0
  | 0x1D | 0x1E => 4
  | _ => 0

/-! ## Units -/

/-- Lathe, core and array of one lathe are one unit (14 Table 14-7). -/
def unitOf (kind : Byte) (index : BitVec 16) : Nat × Nat :=
  match kind.toNat with
  | 0 | 2 => (0, index.toNat)
  | 1 => (0, index.toNat / 68)
  | k => (k, index.toNat)

def Handling.unit (h : Handling) : Nat × Nat := unitOf h.ev.kind h.ev.index

/-- The rungs that Table 14-3 gives for a unit kind, in order. LOST ends work, not a unit: no climb reaches it. -/
def rungs (kind : Nat) : List Nat :=
  match kind with
  | 0 => [0, 1, 3]
  | 1 => [1, 2, 3]
  | 2 => [0, 2, 3]
  | 4 | 5 | 6 | 9 => [0, 2]
  | 8 => [0, 1]
  | 12 => [4]
  | 13 => [5]
  | _ => [0]

/-- One rung above `c`; a handling at the unit's highest rung stays there (14 R472). -/
def climb (kind c : Nat) : Nat := ((rungs kind).find? (fun r => decide (c < r))).getD c

/-- A handling of a catch that has climbed to retirement retires the lathe (14 Table 14-7, step 5). -/
def Handling.retired (h : Handling) : Handling :=
  if h.catching && decide (3 ≤ h.cls) then
    { h with ev := { h.ev with cause := cCatchRetire, kind := 0, detail := 0 }, catching := false }
  else h

/-- A nested fault joins a handling and climbs it (14 R472, R473). -/
def Handling.join (h : Handling) (j : Joined) : Handling :=
  let c := climb h.ev.kind.toNat h.cls
  Handling.retired { h with
    cls := c
    escalated := h.escalated || decide (c ≠ h.cls)
    joined := h.joined ++ [j] }

/-- The causes with which a catch ends short of retirement. -/
def isCatch (cause : BitVec 16) : Bool := cause == cCatchRetry || cause == cCatchTol || cause == cCatchRemap

def joinFirst (u : Nat × Nat) (j : Joined) : List Handling → Option (List Handling)
  | [] => none
  | h :: r =>
    if h.unit = u then some (h.join j :: r) else (joinFirst u j r).map (fun l => h :: l)

/-! ## Escalation by repetition (14 Table 14-2) -/

def nsHour : Nat := 3600 * 10 ^ 9

/-- A fault of the same cause and unit lies within the window. -/
def repeated (s : State) (ev : FaultEv) (window : Nat) : Bool :=
  s.flt.strikes.any (fun k => k.1 == ev.cause && k.2.1 == ev.kind && k.2.2.1 == ev.index &&
    decide (s.plat.devTime.toNat < k.2.2.2.toNat + window))

/-- Strikes of the task that runs on the fault's thread. -/
def taskStrikes (s : State) (ev : FaultEv) : Nat :=
  match ev.thread with
  | some t => match (s.thr t).task with
    | some r => r.strikes
    | none => 0
  | none => 0

def latheOfUnit (ev : FaultEv) : Nat := (unitOf ev.kind ev.index).2

/-- The class on which the handling of a fault begins. -/
def classOf (s : State) (ev : FaultEv) : Nat :=
  let c := firstClass ev.cause ev.hard
  if ev.cause = cCoreParity ∧ repeated s ev (24 * nsHour) then
    (if (s.lathe (latheOfUnit ev)).spareCores = 0 then 3 else 2)
  else if ev.cause = cTileEcc ∧ repeated s ev nsHour then 3
  else if (ev.cause = cLateError ∨ ev.cause = cDoubleTrap) ∧ 1 ≤ taskStrikes s ev then 5
  else c

/-- Count the fault where Table 14-2 counts it. -/
def strike (s : State) (ev : FaultEv) : State :=
  if ev.cause = cCoreParity ∨ ev.cause = cTileEcc then
    { s with flt := { s.flt with strikes := s.flt.strikes ++ [(ev.cause, ev.kind, ev.index, s.plat.devTime)] } }
  else if ev.cause = cLateError ∨ ev.cause = cDoubleTrap then
    match ev.thread with
    | some t => s.modThr t (fun x => { x with task := x.task.map (fun r => { r with strikes := r.strikes + 1 }) })
    | none => s
  else s

/-! ## Sequence numbers (14 R477, 17 R537) -/

/-- The latest high-water value of the stop log. -/
def highWater (l : List StopUnit) : Nat :=
  l.foldl (fun a u => match u with | .highWater v => v.toNat | _ => a) 0

/-- The stop log with one more unit: a ring of four blocks of 4,096 units, each begun by a high-water unit. -/
def putStop (l : List StopUnit) (u : StopUnit) : List StopUnit :=
  if l.length % 4096 ≠ 0 then l ++ [u]
  else
    let r := if 16384 ≤ l.length then l.drop 4096 else l
    match u with
    | .highWater _ => r ++ [u]
    | .stop .. => r ++ [.highWater (BitVec.ofNat 64 (highWater l)), u]

/-- The next sequence number; a high-water unit is programmed before FLT_SEQ comes within 16,384 of the latest value. -/
def takeSeq (s : State) : Word × State :=
  let q := ctlGet s rFltSeq
  let s := ctlSet s rFltSeq (q + 1)
  if highWater s.store.stops ≤ q.toNat + 1 + 16384 then
    (q, { s with store := { s.store with stops := putStop s.store.stops (.highWater (q + 1 + 65536)) } })
  else (q, s)

/-! ## Detection -/

/-- The descriptor of the task that a fault concerns. -/
def taskOf (s : State) (ev : FaultEv) : Word :=
  match ev.thread with
  | some t => match (s.thr t).task with
    | some r => r.snap.desc
    | none => 0
  | none => 0

/-- A detected fault, concerning the task with descriptor `task`, receives a sequence number and joins, or queues, a
handling (14 R456, R472, R473). -/
def detectFor (s : State) (ev : FaultEv) (task : Word) : State :=
  let cls := classOf s ev
  let r := takeSeq (strike s ev)
  let s := r.2
  let time := s.plat.devTime
  let epoch : BitVec 16 := if s.chain.addr = 0xFFFF#16 then 0 else s.chain.epoch
  let j : Joined := ⟨r.1, time, ev, task, epoch⟩
  let u := unitOf ev.kind ev.index
  let inProgress := s.flt.cur.isSome || !s.flt.queue.isEmpty
  let fresh : Handling :=
    { seq := r.1, time := time, ev := ev, cls := cls, nested := inProgress, escalated := false, supFailover := false
      count := 0, task := task, epoch := epoch, joined := [], step := 0, spare := none, begun := 0, lost := none, recs := []
      catching := isCatch ev.cause }
  -- a catch after one whose handling by the array has ended is no nested fault of it (06 R266)
  let next (h : Handling) : Bool := isCatch ev.cause && isCatch h.ev.cause && !h.catching
  match s.flt.cur with
  | some h =>
    if h.unit = u ∧ h.recs.isEmpty ∧ !next h then { s with flt := { s.flt with cur := some (h.join j) } }
    else
      match joinFirst u j s.flt.queue with
      | some q => { s with flt := { s.flt with queue := q } }
      | none => { s with flt := { s.flt with queue := s.flt.queue ++ [fresh] } }
  | none =>
    match joinFirst u j s.flt.queue with
    | some q => { s with flt := { s.flt with queue := q } }
    | none => { s with flt := { s.flt with queue := s.flt.queue ++ [fresh] } }

def detect (s : State) (ev : FaultEv) : State := detectFor s ev (taskOf s ev)

/-- A fault with no thread or address. -/
def plainFault (cause : BitVec 16) (kind : Nat) (index : Nat) : FaultEv :=
  ⟨cause, BitVec.ofNat 8 kind, BitVec.ofNat 16 index, 0, none, 0, false⟩

def coreIndex (t : Tid) : Nat := ckey t.lathe.val t.core.val

/-! ## Lathes that carry a stale epoch (14 R470) -/

/-- Every thread of lathe `l` stops, and the lathe is lathe-fenced; one under retirement keeps its state code (14 R467). -/
def fenceLathe (s : State) (l : Nat) : State :=
  let stop (p : Nat × Thread) : Nat × Thread :=
    if p.1 / 544 = l ∧ p.2.st ≠ .idle then (p.1, { p.2 with st := .waiting .latheFenced }) else p
  let free (p : Nat × Core) : Nat × Core := if p.1 / 68 = l then (p.1, { p.2 with running := none }) else p
  let s := { s with threads := s.threads.map stop, cores := s.cores.map free }
  s.modLathe l (fun x => if x.svc = .inService ∧ !x.retiring then { x with svc := .fenced } else x)

/-- A request of lathe `l` has been refused for its stale epoch. -/
def staleRefused (s : State) (l : Nat) : State := detect (fenceLathe s l) (plainFault cStale 0 l)

/-! ## Synchronous traps (02 R92, R97, R99) -/

/-- A trap of thread `t`, whose pending loads have all arrived. With tl = 1 and nest = 0 it is a double trap: the thread
stops in WAITING with no state changed, and the event is reported to the active supervisor. -/
def takeTrap (s : State) (t : Tid) (cause : Nat) (xtval epc inst : Word) (rep : Option Nat) : State :=
  let x := s.thr t
  if x.tl && !x.nest then
    detect (leave s t (.waiting .doubleTrap))
      ⟨cDoubleTrap, 1, BitVec.ofNat 16 (coreIndex t), 0, some t, 0, false⟩
  else
    let s1 := enter s t epc (BitVec.ofNat 64 cause) xtval inst (trapOffset cause) rep
    if cause = xFenced ∧ staleLathe s (some t.lathe.val) then staleRefused s1 t.lathe.val else s1

end Sys2Proof.Machine
end

