-- ==== Sys2Proof/Machine/Operands.lean ====
section
/-!
DEFINITION. Operand forms of the instruction word (02 R58 to R63): register fields and their checks, predicate and vector
registers, guards, sign-extended immediates, effective addresses and address windows.
-/

namespace Sys2Proof.Machine

/-- The instruction word of opcode `op` with fields `f` (02 Table 2-4). -/
def insWord (op : Nat) (f : Fld) : Word :=
  BitVec.ofNat 64 ((((((f.gp.toNat * 2 + (if f.gi then 1 else 0)) * 512 + op % 512) * 64 + f.d.toNat) * 64 + f.s1.toNat) * 64 +
    f.s2.toNat) * 2 ^ 32 + f.imm.toNat)

/-- The opcode and fields of a word. -/
def wordOp (w : Word) : Nat := wbits w 50 9

def wordFld (w : Word) : Fld :=
  { gp := (w >>> 60).setWidth 4, gi := w.getLsbD 59, d := (w >>> 44).setWidth 6, s1 := (w >>> 38).setWidth 6
    s2 := (w >>> 32).setWidth 6, imm := w.setWidth 32 }

/-! ## Register fields (02 R62) -/

/-- How an instruction uses a register field: general, predicate, short-vector, or not at all. -/
inductive Use where
  | g | p | v | z
  deriving DecidableEq, Repr

def Use.ok (u : Use) (x : BitVec 6) : Bool :=
  match u with
  | .g => decide (x.toNat < 32)
  | .p => decide (x.toNat < 16)
  | .v => decide (x.toNat < 32)
  | .z => x == 0

/-- The register fields d, s1, s2 hold values their uses allow. -/
def fieldsOk (d s1 s2 : Use) (f : Fld) : Bool := d.ok f.d && s1.ok f.s1 && s2.ok f.s2

/-- imm[31:lo] = 0. -/
def immBelow (f : Fld) (lo : Nat) : Bool := decide (f.imm.toNat < 2 ^ lo)

/-- sx(imm). -/
def sxImm (f : Fld) : Word := f.imm.signExtend 64

/-! ## Registers (02 R59) -/

/-- p0 reads as 0xFFFF. -/
def Thread.rp (x : Thread) (n : Nat) : BitVec 16 := if n = 0 then 0xFFFF#16 else mget x.p n 0

/-- Writes to p0 are discarded. -/
def Thread.wp (x : Thread) (n : Nat) (v : BitVec 16) : Thread := if n = 0 then x else { x with p := mset x.p n v }

def Thread.rv (x : Thread) (n : Nat) : BitVec 128 := mget x.v n 0
def Thread.wv (x : Thread) (n : Nat) (v : BitVec 128) : Thread := { x with v := mset x.v n v }

/-- The guard p[gp][0] xor gi (02 R63). -/
def guardOf (x : Thread) (f : Fld) : Bool := xor ((x.rp f.gp.toNat).getLsbD 0) f.gi

/-- The lane mask of a short-vector instruction (02 R63). -/
def laneMask (x : Thread) (f : Fld) : BitVec 16 := if f.gi then ~~~(x.rp f.gp.toNat) else x.rp f.gp.toNat

/-- The effective address g[s1] + sx(imm) (02 R71). -/
def effAddr (x : Thread) (f : Fld) : Word := x.rg f.s1.toNat + sxImm f

/-! ## Address windows (02 R91, R104) -/

/-- Permissions asked of a window. -/
inductive Perm where
  | x | w | r | rw
  deriving DecidableEq, Repr

def Perm.granted (p : Perm) (attr : BitVec 4) : Bool :=
  attr.getLsbD 3 &&
  match p with
  | .x => attr.getLsbD 2
  | .w => attr.getLsbD 1
  | .r => attr.getLsbD 0
  | .rw => attr.getLsbD 1 && attr.getLsbD 0

/-- The access lies wholly within window `k`. -/
def Window.covers (k : Window) (p : Perm) (a n : Nat) : Bool :=
  p.granted k.attr && decide (k.base.toNat * 64 ≤ a) && decide (a + n ≤ k.limit.toNat * 64 + 64)

/-- At U an access lies within one valid window; K and S are not checked. -/
def windowOk (x : Thread) (p : Perm) (a : Word) (n : Nat) : Bool :=
  x.level != .u || x.win.any (fun k => k.2.covers p a.toNat n)

/-- The request of a thread. -/
def reqOf (s : State) (t : Tid) : Req := ⟨(s.lathe t.lathe.val).world, some t.lathe.val⟩

/-- Checks of a data access of a thread in the order of 02 R93: alignment, window, then those of 08 and 15. -/
def checkData (s : State) (t : Tid) (p : Perm) (a : Word) (size : Nat) (mem : Bool := false) : Acc :=
  if a.toNat % size ≠ 0 then .trap xAlign a
  else if !windowOk (s.thr t) p a size then .trap xWindow a
  else checkAcc s (reqOf s t) a size mem

/-- The cause that the byte at `w` meets, window apart. Control space raises XC_VMEM (05 R217). -/
def byteFault (s : State) (t : Tid) (w : Word) : Acc := checkAcc s (reqOf s t) w 1 true

/-- The first byte of a run of `n` bytes at `a` that no window grants. -/
def windowGap (x : Thread) (p : Perm) (a : Word) (n : Nat) : Option Nat :=
  if windowOk x p a n then none
  else (List.range n).find? (fun k => !windowOk x p (a + BitVec.ofNat 64 k) 1)

/-- Checks of every byte of a run when an instruction issues (05 R217): the lowest failing byte gives the cause and the
address, a window before the others at one byte. -/
def checkRun (s : State) (t : Tid) (p : Perm) (a : Word) (n : Nat) : Acc :=
  if n = 0 then .ok
  else
    let gs := (granules a.toNat n).map (fun g => (g - a.toNat, byteFault s t (BitVec.ofNat 64 g)))
    let bad := gs.find? (fun g => match g.2 with | .trap _ _ => true | _ => false)
    match windowGap (s.thr t) p a n, bad with
    | some k, some (j, r) => if k ≤ j then .trap xWindow (a + BitVec.ofNat 64 k) else r
    | some k, none => .trap xWindow (a + BitVec.ofNat 64 k)
    | none, some (_, r) => r
    | none, none =>
      match gs.find? (fun g => g.2 != .ok) with
      | some (_, r) => r
      | none => .ok

end Sys2Proof.Machine
end

