-- ==== Sys2Proof/Machine/Flags.lean ====
section
/-!
DEFINITION. CORE_FPCSR flags and rounding (02 R76 to R78, 04 R549), and the FU_CVTSTAT bits of a lathe (04 R160).
-/

namespace Sys2Proof.Machine

/-- Set sticky flags in CORE_FPCSR[9:5]. -/
def Thread.raise (x : Thread) (fl : FFlags) : Thread := { x with fpcsr := x.fpcsr ||| (fl.setWidth 64 <<< 5) }

/-- CORE_FPCSR.rm. -/
def Thread.frm (x : Thread) : Nat := wbits x.fpcsr 0 2

/-- The mode of a path without tensor identity: toward zero, or nearest even (02 R76, 04 R163). -/
def plainMode (rm : Nat) : RMode := if rm = 2 then .rtz else .rne

/-- An RM field with dynamic rounding resolved at issue (04 R161). -/
def Thread.rmOf (x : Thread) (rm : Nat) : Nat := if rm = 3 then x.frm else rm

/-- Set FU_CVTSTAT bits of lathe `l`. -/
def cvtStat (s : State) (l : Nat) (c : CStat) : State := if c = 0 then s else ctlOr s (rCvtstat l) (c.setWidth 64)

/-- An all-ones or all-zeros predicate (02 R69). -/
def predOf (b : Bool) : BitVec 16 := if b then 0xFFFF#16 else 0

end Sys2Proof.Machine
end

