-- ==== Sys2Proof/Machine/Issue.lean ====
section
/-!
DEFINITION. Issue of an instruction (02): what stands before it (its fetch, the load delay, pending traps), its checks and
guard, and what follows from its outcome. A command whose thread cannot issue changes nothing (notes/assumptions/1.md); a
thread that must wait goes to WAITING and its instruction issues again (notes/assumptions/2.md).
-/

namespace Sys2Proof.Machine

/-- The outcome of an instruction's body. -/
inductive Res where
  /-- done; the PC moves past the instruction -/
  | ok (s : State)
  | jump (s : State) (pc : Word)
  /-- XRET: it takes no position of the load delay, and may leave a repeat to resume -/
  | ret (s : State) (pc : Word)
  /-- the instruction has no effect; `s` holds what is logged of it -/
  | trap (cause : Nat) (xtval : Word) (s : State)
  /-- the instruction does not issue; the thread waits -/
  | wait (w : Wait) (s : State)
  /-- issued; the thread waits for its result -/
  | hold (w : Wait) (s : State)
  /-- issued; the issue slot passes on at once (YIELD) -/
  | yield (s : State)

/-- An instruction: the checks that raise traps whatever the guard (02 R64), and its effect under guard 1. `vec`: a
short-vector instruction, whose mask guards its lanes. -/
structure Body where
  always : State → Option (Nat × Word)
  act : State → Res
  vec : Bool := false

/-- An instruction whose only such check is of its fields (02 R62). -/
def plain (legal : Bool) (act : State → Res) : Body :=
  { always := fun _ => if legal then none else some (xIllegal, 0), act := act }

def Body.run (b : Body) (t : Tid) (f : Fld) (s : State) : Res :=
  match b.always s with
  | some (c, v) => .trap c v s
  | none => if b.vec || guardOf (s.thr t) f then b.act s else .ok s

/-! ## Fetch (02 R54, R74, R91; 08 R317) -/

/-- The line of an address in the L1 instruction cache: set and tag of its physical line. -/
def lineOf (t : Tid) (pc : Word) : Nat :=
  cellOf (some t.lathe.val) (localOf pc) / 64

def icHit (c : Core) (line : Nat) : Bool := (mget c.icache (line % 64) []).any (fun w => w.tag == line / 64)

/-- A hit sets ref and clears the age (08 R317). -/
def icTouch (c : Core) (line : Nat) : Core :=
  { c with icache := mmod c.icache (line % 64) [] (fun ws =>
      ws.map (fun w => if w.tag = line / 64 then { w with ref := true, age := 0 } else w)) }

/-- Checks of the fetch at `pc` (02 R74, R93). -/
def fetchCheck (s : State) (t : Tid) (pc : Word) : Acc :=
  let q := reqOf s t
  if !windowOk (s.thr t) .x pc 8 then .trap xWindow pc
  else if isSelf s (chainOf pc) then checkLocal s q pc (localOf pc) 8 true
  else if chainOf pc ≠ 0xFFFE#16 ∧ remoteBarred s q (localOf pc) 8 then .trap xWorld pc
  else .trap xVmem pc

/-! ## The load delay (02 R79 to R81) -/

def dueAbsent (x : Thread) : Bool := x.loads.any (fun p => p.dst != 0 && p.cnt == 0 && p.val.isNone)

/-- The data of every load with a destination has arrived. -/
def allArrived (x : Thread) : Bool := x.loads.all (fun p => p.dst == 0 || p.val.isSome)

/-- No load or atomic of the thread is still on its way. -/
def noneInFlight (x : Thread) : Bool := x.loads.all (fun p => p.val.isSome)

/-- The thread has issued one more instruction. -/
def countPos (x : Thread) : Thread := { x with loads := x.loads.map (fun p => { p with cnt := p.cnt - 1 }) }

/-! ## Before the instruction -/

/-- Traps wait for the data of every pending load (02 R97). `s0` is the state in which the wait, if any, is entered. -/
def trapOrWait (s0 s : State) (t : Tid) (cause : Nat) (xtval epc inst : Word) (rep : Option Nat) : State :=
  if allArrived (s.thr t) then
    let x := s.thr t
    let y := s0.thr t
    -- a double trap changes nothing of the thread (02 R99)
    takeTrap (if x.tl && !x.nest then s.setThr t { x with tfault := y.tfault, vprog := y.vprog, v := y.v } else s) t cause xtval
      epc inst rep
  else leave (s0.modThr t (fun x => { x with bound := true })) t (.waiting (.loadData true))

/-- Waits that a qualifying interrupt ends (02 Table 2-2, 03 R135, 05 Table 5-9). -/
def interruptible : Wait → Bool
  | .mbx _ _ _ _ => true
  | .tcfg _ _ granted => !granted
  | .tileContext => true
  | _ => false

/-- The thread waits with its instruction, which no interrupt comes before unless the wait is interruptible (02 R96): an
interrupt held back by the wait is taken after the waiting instruction (DEDUCED, notes/assumptions/63.md). -/
def leaveBound (s : State) (t : Tid) (w : Wait) : State :=
  leave (s.modThr t (fun x => { x with bound := !interruptible w })) t (.waiting w)

/-- A late error may be taken now: an access from before a trap's entry traps after the XRET, one of the handler in it. -/
def lateDue (x : Thread) : Option LateErr := x.late.find? (fun e => e.inTrap || !x.tl || x.nest)

/-- A load of a repetition that issued after the one with `r` left. -/
def PendLoad.behind (p : PendLoad) (r : Rep) : Bool :=
  match p.rep with
  | some (q, _) => q.a == r.a && decide (q.n < r.n)
  | none => false

/-- The trap of a late error. One of a repetition leaves the repeat as it stood when that repetition issued (02 R87). -/
def lateTake (s : State) (t : Tid) (e : LateErr) : State :=
  let x := s.thr t
  let back (y : Thread) : Thread := match e.rep with
    | some (r, v) => { y.wg r.step v with loads := y.loads.filter (fun p => !p.behind r) }
    | none => y
  let left := match e.rep with
    | some (r, _) => some r.n
    | none => none
  trapOrWait s (s.setThr t (back { x with late := x.late.erase e, rep := none })) t e.cause e.xtval e.pc e.inst left

/-- What stands before an instruction's issue: the command stops with a state, or the instruction goes on. -/
inductive Start where
  | stop (s : State)
  | go (s : State)

/-- The lathe's clock runs (01 R21). -/
def clockRuns (s : State) (t : Tid) : Bool := clockOn s (.lathe t.lathe)

/-- The kind code of an access in the violation log (15 Table 15-4). -/
def noteWorld (s : State) (t : Tid) (a : Word) (kind size : Nat) : State :=
  if (s.lathe t.lathe.val).world = .ns then logVio s a (threadId t) 0 kind size else s

/-- A fetch that fails: its trap, with the word that was not fetched as a free value. -/
def fetchTrap (s : State) (t : Tid) (cause : Nat) (v epc : Word) (rep : Option Nat) : State :=
  let s1 := if cause = xWorld then noteWorld s t v 2 8 else s
  trapOrWait s { s1 with free := s1.free + 1 } t cause v epc (Config.fetchWord s1.free) rep

/-- The stages before an instruction at `pc`; `irq`: an instruction boundary at which interrupts are taken (02 R95). -/
def startAt (s : State) (t : Tid) (pc epc : Word) (irq : Bool) (rep : Option Nat) : Start :=
  let x := s.thr t
  let l := t.lathe.val
  if x.st ≠ .running ∨ !clockRuns s t then .stop s
  else if (s.lathe l).svc = .fenced then .stop (leave s t (.waiting .latheFenced))
  else
    match lateDue x with
    | some e => .stop (lateTake s t e)
    | none =>
      if irq && !x.bound && (irqOf s t).isSome then .stop s
      else
        match fetchCheck s t pc with
        | .trap c v => .stop (fetchTrap s t c v epc rep)
        | .wake k => .stop (leave s t (.waiting (.wake k)))
        | .remote _ => .stop (fetchTrap s t xVmem pc epc rep)
        | .ok =>
          let line := lineOf t pc
          let c := s.core l t.core.val
          if !icHit c line && !x.fetched.contains line then .stop (leave s t (.waiting (.fetch (pc != x.pc))))
          else if dueAbsent x then .stop (leave s t (.waiting (.loadData false)))
          else .go ((s.setCore l t.core.val (icTouch c line)).setThr t (settleLoads x))

/-- The start of an ordinary instruction: no repeat is in progress. -/
def startIssue (s : State) (t : Tid) : Start :=
  let x := s.thr t
  if x.rep.isSome then .stop s else startAt s t x.pc x.pc true none

/-! ## After the instruction -/

/-- The thread has issued the instruction at its PC and moves to `pc`. -/
def advance (s : State) (t : Tid) (pc : Word) : State :=
  s.modThr t (fun x => { countPos x with pc := pc, bankGrant := none, bound := false, fetched := [], resume := none })

/-- What follows from a body's outcome at the instruction `inst`; `s0` is the state before the body. -/
def finish (s0 : State) (t : Tid) (inst : Word) : Res → State
  | .ok s => advance s t ((s.thr t).pc + 8)
  | .jump s p => advance s t p
  | .ret s p => s.modThr t (fun x => { x with pc := p, bankGrant := none, bound := false, fetched := [] })
  | .trap c v s => trapOrWait s0 s t c v (s0.thr t).pc inst none
  | .wait w s => leaveBound s t w
  | .hold w s => leave (advance s t ((s.thr t).pc + 8)) t (.waiting w)
  | .yield s => leave (advance s t ((s.thr t).pc + 8)) t .ready

/-- Issue of the instruction with opcode `op` and fields `f` by thread `t`. -/
def issue (t : Tid) (op : Nat) (f : Fld) (b : Body) (s : State) : Oc :=
  match startIssue s t with
  | .stop s' => .next s'
  | .go s' => .next (finish s' t (insWord op f) (b.run t f s'))

end Sys2Proof.Machine
end

