-- ==== Sys2Proof/Machine/Fp.lean ====
section
/-!
DEFINITION. Scalar floating point (02 R75 to R78, 04 R549).
-/

namespace Sys2Proof.Machine

/-- imm[0] selects FP32 or FP64. -/
def fmtOf (f : Fld) : FFmt := if f.imm.getLsbD 0 then fp64 else fp32

/-- The value of a register in format `F`. -/
def fval (F : FFmt) (w : Word) : FVal := F.decode (w.toNat % 2 ^ (F.eb + F.fb + 1))

/-- Round `r` into format `F` by CORE_FPCSR.rm, write it to g[d] and set the flags. -/
def fput (x : Thread) (F : FFmt) (d : Nat) (r : FVal × FFlags) : Thread :=
  let c := F.deliver (plainMode x.frm) r.1
  (x.wg d (BitVec.ofNat 64 c.1)).raise (r.2 ||| c.2)

/-- d := op s1 s2 rounded once. -/
def fpRR (op : FVal → FVal → FVal × FFlags) (t : Tid) (f : Fld) : Body :=
  plain (fieldsOk .g .g .g f && immBelow f 1) fun s =>
    .ok (s.modThr t fun x =>
      fput x (fmtOf f) f.d.toNat (op (fval (fmtOf f) (x.rg f.s1.toNat)) (fval (fmtOf f) (x.rg f.s2.toNat))))

/-- FDIV and FSQRT wait for their result (02 Table 2-3); the flags are set with it. -/
def fpLong (x : Thread) (F : FFmt) (d : Nat) (r : FVal × FFlags) : Thread :=
  let c := F.deliver (plainMode x.frm) r.1
  { x.raise (r.2 ||| c.2) with result := some (d, BitVec.ofNat 64 c.1) }

/-- FADD (02 R75). -/
def bodyFadd (t : Tid) (f : Fld) : Body := fpRR FVal.add t f
def execFadd (t : Tid) (f : Fld) (s : State) : Oc := issue t 0x0C0 f (bodyFadd t f) s

/-- FSUB (02 R75). -/
def bodyFsub (t : Tid) (f : Fld) : Body := fpRR (fun a b => a.add b.negate) t f
def execFsub (t : Tid) (f : Fld) (s : State) : Oc := issue t 0x0C1 f (bodyFsub t f) s

/-- FMUL (02 R75). -/
def bodyFmul (t : Tid) (f : Fld) : Body := fpRR FVal.mul t f
def execFmul (t : Tid) (f : Fld) (s : State) : Oc := issue t 0x0C2 f (bodyFmul t f) s

/-- FDIV (02 R75). -/
def bodyFdiv (t : Tid) (f : Fld) : Body :=
  plain (fieldsOk .g .g .g f && immBelow f 1) fun s =>
    .hold .longLatency (s.modThr t fun x =>
      fpLong x (fmtOf f) f.d.toNat ((fval (fmtOf f) (x.rg f.s1.toNat)).div (fval (fmtOf f) (x.rg f.s2.toNat))))

def execFdiv (t : Tid) (f : Fld) (s : State) : Oc := issue t 0x0C3 f (bodyFdiv t f) s

/-- FSQRT (02 R75). -/
def bodyFsqrt (t : Tid) (f : Fld) : Body :=
  plain (fieldsOk .g .g .z f && immBelow f 1) fun s =>
    .hold .longLatency (s.modThr t fun x => fpLong x (fmtOf f) f.d.toNat (fval (fmtOf f) (x.rg f.s1.toNat)).sqrt)

def execFsqrt (t : Tid) (f : Fld) (s : State) : Oc := issue t 0x0C4 f (bodyFsqrt t f) s

/-- FMA: d := d + s1 * s2 with one rounding (02 R75). -/
def bodyFma (t : Tid) (f : Fld) : Body :=
  plain (fieldsOk .g .g .g f && immBelow f 1) fun s =>
    .ok (s.modThr t fun x =>
      let v (n : Nat) := fval (fmtOf f) (x.rg n)
      fput x (fmtOf f) f.d.toNat ((v f.s1.toNat).fma (v f.s2.toNat) (v f.d.toNat)))

def execFma (t : Tid) (f : Fld) (s : State) : Oc := issue t 0x0C5 f (bodyFma t f) s

/-- FMIN: minimumNumber (02 R75). -/
def bodyFmin (t : Tid) (f : Fld) : Body := fpRR (FVal.pick false) t f
def execFmin (t : Tid) (f : Fld) (s : State) : Oc := issue t 0x0C6 f (bodyFmin t f) s

/-- FMAX: maximumNumber (02 R75). -/
def bodyFmax (t : Tid) (f : Fld) : Body := fpRR (FVal.pick true) t f
def execFmax (t : Tid) (f : Fld) (s : State) : Oc := issue t 0x0C7 f (bodyFmax t f) s

/-! ## Conversions (02 R77) -/

/-- A float as a signed 64-bit integer: saturated, a NaN as 0. -/
def toInt64 (rm : RMode) (v : FVal) : Word × FFlags :=
  match v with
  | .nan _ _ => (0, fNv)
  | .inf neg => (if neg then 0x8000000000000000#64 else 0x7FFFFFFFFFFFFFFF#64, fNv)
  | .fin neg m e =>
    let r := roundInt rm m e
    let i : Int := if neg then -(r.1 : Int) else r.1
    if i < -(2 ^ 63) then (0x8000000000000000#64, fNv)
    else if 2 ^ 63 ≤ i then (0x7FFFFFFFFFFFFFFF#64, fNv)
    else (BitVec.ofInt 64 i, fIf r.2 fNx)

def bodyFcvti (t : Tid) (f : Fld) : Body :=
  plain (fieldsOk .g .g .z f && immBelow f 1) fun s =>
    .ok (s.modThr t fun x =>
      let r := toInt64 (plainMode x.frm) (fval (fmtOf f) (x.rg f.s1.toNat))
      (x.wg f.d.toNat r.1).raise r.2)

/-- FCVTI (02 R77). -/
def execFcvti (t : Tid) (f : Fld) (s : State) : Oc := issue t 0x0C8 f (bodyFcvti t f) s

def bodyFcvtf (t : Tid) (f : Fld) : Body :=
  plain (fieldsOk .g .g .z f && immBelow f 1) fun s =>
    .ok (s.modThr t fun x => fput x (fmtOf f) f.d.toNat (ofInt false (x.rg f.s1.toNat).toInt 0, 0))

/-- FCVTF (02 R77). -/
def execFcvtf (t : Tid) (f : Fld) (s : State) : Oc := issue t 0x0C9 f (bodyFcvtf t f) s

/-- FCVTW: imm[0] = 1 converts FP32 to FP64, imm[0] = 0 FP64 to FP32. -/
def bodyFcvtw (t : Tid) (f : Fld) : Body :=
  plain (fieldsOk .g .g .z f && immBelow f 1) fun s =>
    .ok (s.modThr t fun x =>
      let v := fval (if f.imm.getLsbD 0 then fp32 else fp64) (x.rg f.s1.toNat)
      fput x (fmtOf f) f.d.toNat (v, fIf v.isSig fNv))

/-- FCVTW (02 R75). -/
def execFcvtw (t : Tid) (f : Fld) (s : State) : Oc := issue t 0x0CA f (bodyFcvtw t f) s

/-! ## Compares (02 R77) -/

/-- `quiet`: only a signalling NaN sets nv; else every NaN does. -/
def fcmpRR (rel : FVal → FVal → Bool) (quiet : Bool) (t : Tid) (f : Fld) : Body :=
  plain (fieldsOk .p .g .g f && immBelow f 1) fun s =>
    .ok (s.modThr t fun x =>
      let a := fval (fmtOf f) (x.rg f.s1.toNat)
      let b := fval (fmtOf f) (x.rg f.s2.toNat)
      let bad := if quiet then a.isSig || b.isSig else a.isNan || b.isNan
      (x.wp f.d.toNat (predOf (rel a b))).raise (fIf bad fNv))

/-- a <= b of two values, false for a NaN. -/
def FVal.le (a b : FVal) : Bool := a.lt b || a.eq b

/-- FCMPEQ (02 R77). -/
def bodyFcmpeq (t : Tid) (f : Fld) : Body := fcmpRR FVal.eq true t f
def execFcmpeq (t : Tid) (f : Fld) (s : State) : Oc := issue t 0x0D0 f (bodyFcmpeq t f) s

/-- FCMPLT (02 R77). -/
def bodyFcmplt (t : Tid) (f : Fld) : Body := fcmpRR FVal.lt false t f
def execFcmplt (t : Tid) (f : Fld) (s : State) : Oc := issue t 0x0D1 f (bodyFcmplt t f) s

/-- FCMPLE (02 R77). -/
def bodyFcmple (t : Tid) (f : Fld) : Body := fcmpRR FVal.le false t f
def execFcmple (t : Tid) (f : Fld) (s : State) : Oc := issue t 0x0D2 f (bodyFcmple t f) s

/-- FCMPUN (02 R77). -/
def bodyFcmpun (t : Tid) (f : Fld) : Body := fcmpRR (fun a b => a.isNan || b.isNan) true t f
def execFcmpun (t : Tid) (f : Fld) (s : State) : Oc := issue t 0x0D3 f (bodyFcmpun t f) s

end Sys2Proof.Machine
end

