-- ==== Sys2Proof/Machine/Hash.lean ====
section
/-!
DEFINITION. The two public functions that the spec names and does not write out: SHAKE256 (FIPS 202; 15 R493, R501) and the
CRC-32 of IEEE 802.3 (11 R402). Their definitions are PRESUMED from those standards (notes/assumptions/5.md).
-/

namespace Sys2Proof.Machine

/-! ## Keccak-f[1600], 25 lanes, lane x + 5y -/

/-- Rotation offsets, lane by lane. -/
def kRot : List Nat :=
  [0, 1, 62, 28, 27, 36, 44, 6, 55, 20, 3, 10, 43, 25, 39, 41, 45, 15, 21, 8, 18, 2, 61, 56, 14]

/-- Round constants. -/
def kRc : List Word :=
  [0x0000000000000001#64, 0x0000000000008082#64, 0x800000000000808A#64, 0x8000000080008000#64,
   0x000000000000808B#64, 0x0000000080000001#64, 0x8000000080008081#64, 0x8000000000008009#64,
   0x000000000000008A#64, 0x0000000000000088#64, 0x0000000080008009#64, 0x000000008000000A#64] ++
  [0x000000008000808B#64, 0x800000000000008B#64, 0x8000000000008089#64, 0x8000000000008003#64,
   0x8000000000008002#64, 0x8000000000000080#64, 0x000000000000800A#64, 0x800000008000000A#64,
   0x8000000080008081#64, 0x8000000000008080#64, 0x0000000080000001#64, 0x8000000080008008#64]

def kAt (a : List Word) (k : Nat) : Word := a.getD k 0

/-- theta. -/
def kTheta (a : List Word) : List Word :=
  let c := (List.range 5).map fun x => kAt a x ^^^ kAt a (x + 5) ^^^ kAt a (x + 10) ^^^ kAt a (x + 15) ^^^ kAt a (x + 20)
  let d := (List.range 5).map fun x => kAt c ((x + 4) % 5) ^^^ (kAt c ((x + 1) % 5)).rotateLeft 1
  (List.range 25).map fun k => kAt a k ^^^ kAt d (k % 5)

/-- rho and pi: lane (x, y) moves to (y, 2x + 3y). -/
def kRhoPi (a : List Word) : List Word :=
  (List.range 25).map fun k =>
    let x := k % 5
    let y := k / 5
    let j := (x + 3 * y) % 5 + 5 * x
    (kAt a j).rotateLeft (kRot.getD j 0)

/-- chi and iota. -/
def kChi (rc : Word) (b : List Word) : List Word :=
  (List.range 25).map fun k =>
    let x := k % 5
    let r := k - x
    let v := kAt b k ^^^ (~~~(kAt b (r + (x + 1) % 5)) &&& kAt b (r + (x + 2) % 5))
    if k = 0 then v ^^^ rc else v

def keccakF (a : List Word) : List Word := kRc.foldl (fun s rc => kChi rc (kRhoPi (kTheta s))) a

/-- Absorb one block of 136 bytes. -/
def kAbsorb (a : List Word) (blk : List Byte) : List Word :=
  keccakF ((List.range 25).map fun k => if k < 17 then kAt a k ^^^ BitVec.ofNat 64 (leAt blk (8 * k) 8) else kAt a k)

/-- SHAKE256 with `n` bytes of output, at most 136. -/
def shake256 (msg : List Byte) (n : Nat) : List Byte :=
  let blocks := msg.length / 136 + 1
  let padded :=
    let z := blocks * 136 - msg.length
    if z = 1 then msg ++ [0x9F#8] else msg ++ [0x1F#8] ++ List.replicate (z - 2) (0#8) ++ [0x80#8]
  let s := (pieces 136 blocks padded).foldl kAbsorb (List.replicate 25 0)
  ((s.take 17).flatMap fun w => leBytes 8 w.toNat).take n

/-- SHAKE256 with 512-bit output, as a number whose least significant byte is the first. -/
def shake512 (msg : List Byte) : BitVec 512 := BitVec.ofNat 512 (leNat (shake256 msg 64))

/-! ## CRC-32 -/

def crcBits : Nat → BitVec 32 → BitVec 32
  | 0, c => c
  | k + 1, c => crcBits k (if c.getLsbD 0 then (c >>> 1) ^^^ 0xEDB88320#32 else c >>> 1)

def crc32 (d : List Byte) : BitVec 32 :=
  ~~~(d.foldl (fun c b => crcBits 8 (c ^^^ b.setWidth 32)) 0xFFFFFFFF#32)

end Sys2Proof.Machine
end

