-- ==== Sys2Proof/Machine/Link.lean ====
section
/-!
DEFINITION. The release of waits (02 Table 2-2), and the chain's packet layer (11 R402 to R411): routes, sending, requests and
what an answer does to the access that waits for it.
-/

namespace Sys2Proof.Machine

/-! ## Waits -/

/-- Queued tile, long-vector or finishing work of thread `t`. -/
def hasQueued (s : State) (t : Tid) : Bool :=
  let c := s.core t.lathe.val t.core.val
  c.tileQ.any (fun o => o.thread == t.thread.val) || c.finQ.any (fun o => o.thread == t.thread.val) ||
    (c.drainEnd.isSome && c.owner == some t.thread.val) ||
    (match c.lvAccess with
      | some a => a.thread == t.thread.val
      | none => false)

/-- Earlier stores and atomics of a thread are complete (08 R313, R314). -/
def storesDone (x : Thread) : Bool :=
  x.sbuf.isEmpty && x.inflight.isEmpty && x.ratWrites == 0 && x.loads.all (fun p => p.amo.isNone || p.val.isSome)

/-- LV.ALU, LV.CMP and LV.MASK fill the long-vector queue of 8 entries (03 R147). -/
def FinKind.isLv : FinKind → Bool
  | .alu => true
  | .cmp => true
  | .mask => true
  | _ => false

/-- The tiles that a queued tile operation reads or writes: t0 to t7 are 0 to 7, acc0 and acc1 are 8 and 9. -/
def TileOp.touches (o : TileOp) : List Nat :=
  match o.kind with
  | .tzero => [8 + o.d]
  | .tmma => [8 + o.d, o.s1, o.s2]
  | _ => [o.d]

/-- The tiles that a queued finishing operation reads or writes. -/
def FinOp.touches (o : FinOp) : List Nat :=
  match o.kind, o.drain with
  | .tdrain, some r => [8 + o.d] ++ r.outTile.toList ++ r.saveTile.toList
  | .tdrain, none => [8 + o.d]
  | .fapply, _ => if o.tile then [o.d, o.s1] else []
  | .fderiv, _ => if o.tile then (if o.bare then [o.d, o.s1] else [o.d, o.s1, o.s2]) else []
  | _, _ => []

/-- A queued operation of the context reads or writes one of the tiles `ks`. -/
def tilesBusy (c : Core) (ks : List Nat) : Bool :=
  c.tileQ.any (fun o => o.touches.any ks.contains) || c.finQ.any (fun o => o.touches.any ks.contains)

/-- The tiles that a mask names (05 R196). -/
def maskTiles (m : BitVec 10) : List Nat := (List.range 10).filter (fun k => m.getLsbD k)

/-- The release condition of a wait that ends of itself. -/
def released (s : State) (t : Tid) : Wait → Bool
  | .fetch next =>
    let line := lineOf t ((s.thr t).pc + (if next then 8 else 0))
    icHit (s.core t.lathe.val t.core.val) line || (s.thr t).fetched.contains line
  | .loadData all => if all then allArrived (s.thr t) else !dueAbsent (s.thr t)
  | .storeBuffer => decide ((s.thr t).sbuf.length < 8)
  | .longLatency => (s.thr t).result.isNone
  | .fence => storesDone (s.thr t) && noneInFlight (s.thr t) && !hasQueued s t
  | .stores => storesDone (s.thr t)
  | .record => (s.thr t).recLines.all (fun q => q.tag.isNone)
  | .queues => !hasQueued s t
  | .tileQueue => decide ((s.core t.lathe.val t.core.val).tileQ.length < 8)
  | .trel m => m != 0 && !tilesBusy (s.core t.lathe.val t.core.val) (maskTiles m)
  | .lvQueue => decide (((s.core t.lathe.val t.core.val).finQ.filter (fun o => o.kind.isLv)).length < 8)
  | _ => false

/-- A thread whose wait's release condition holds becomes READY. -/
def wakeIf (s : State) (t : Tid) : State :=
  match (s.thr t).st with
  | .waiting w => if released s t w then makeReady s t else s
  | _ => s

/-- The threads of a core. -/
def coreThreads (l c : Nat) : List Tid :=
  if h : l < 68 ∧ c < 68 then
    (List.finRange 8).map (fun k => ⟨⟨l, h.1⟩, ⟨c, h.2⟩, k⟩)
  else []

/-- The threads of a lathe that the state lists. -/
def latheThreads (s : State) (l : Nat) : List Tid :=
  (s.threads.filter (fun p => p.1 / 544 == l)).flatMap (fun p =>
    (coreThreads l (p.1 / 8 % 68)).filter (fun t => tkey t == p.1))

/-- A thread that meets poison waits, and its task is reported with the poisoned address (08 R320, 14 R465). -/
def meetPoison (s : State) (t : Tid) (addr : Word) : State :=
  detect (leave s t (.waiting .poison)) ⟨cPoisonRead, 1, BitVec.ofNat 16 (coreIndex t), addr, some t, 0, false⟩

/-! ## Routes (11 R409) -/

/-- Breadth first: distances to the first frontier over directed edges. -/
def bfs (edges : List (Nat × Nat)) : Nat → Nat → List Nat → List (Nat × Nat) → List (Nat × Nat)
  | 0, _, _, acc => acc
  | k + 1, d, frontier, acc =>
    let next := (edges.filterMap (fun e =>
      if frontier.contains e.2 && !(acc.any (fun p => p.1 == e.1)) then some e.1 else none)).eraseDups
    if next.isEmpty then acc else bfs edges k (d + 1) next (acc ++ next.map (fun n => (n, d + 1)))

def topoEdges (r : Membership) : List (Nat × Nat) := r.topo.map (fun e => (e.1.toNat, e.2.2.1.toNat))

/-- A port is up, at either width. -/
def portUp (s : State) (p : Nat) : Bool :=
  match (mget s.chain.ports p {}).st with
  | .up => true
  | .up4 => true
  | _ => false

/-- A port that is not down: one that retrains holds its traffic (11 R403, R405). -/
def portOn (s : State) (p : Nat) : Bool := portUp s p || (mget s.chain.ports p {}).st == .training

/-- Ring and direction of a port as a tie-break: lower ring first, then downstream (11 R398). -/
def portRank (p : Nat) : Nat := if p < 20 then 2 * p else 2 * (p - 20) + 1

/-- The partner that this device's port `p` leads to: by the topology record, or as the port has found it where the record lists no
port of this device yet. -/
def partnerOf (s : State) (r : Membership) (p : Nat) : Option (BitVec 16) :=
  let mine := r.topo.filter (fun e => e.1 == s.chain.addr)
  if mine.isEmpty then some (mget s.chain.ports p {}).partner
  else (mine.find? (fun e => e.2.1 == p)).map (fun e => e.2.2.1)

/-- The port toward `dst`: fewest hops over up ports that `ok` admits and whose partners are not fenced. -/
def routeBy (s : State) (dst : BitVec 16) (ok : Nat → Bool) : Option Nat :=
  match s.chain.rec_ with
  | none => none
  | some r =>
    if s.chain.noRoute.contains dst || !chainHolds s dst then none
    else
      let me := s.chain.addr.toNat
      let shut (a : Nat) : Bool := s.chain.noRoute.contains (BitVec.ofNat 16 a)
      let edges := (topoEdges r).filter (fun e => e.1 != me && !shut e.1 && !shut e.2)
      let dist := bfs edges edges.length 0 [dst.toNat] [(dst.toNat, 0)]
      let cands := (List.range 40).filterMap (fun p =>
        match (if portOn s p && ok p then partnerOf s r p else none) with
        | some a =>
          if s.chain.noRoute.contains a then none
          else (dist.find? (fun d => d.1 == a.toNat)).map (fun d => (d.2, portRank p, p))
        | none => none)
      (cands.foldl (fun (b : Option (Nat × Nat × Nat)) c =>
        match b with
        | none => some c
        | some x => if c.1 < x.1 ∨ (c.1 = x.1 ∧ c.2.1 < x.2.1) then some c else b) none).map (fun x => x.2.2)

def route (s : State) (dst : BitVec 16) : Option Nat := routeBy s dst (fun _ => true)

/-- The misses that make a partner silent (11 R416). -/
def deadCount (s : State) : Nat := wbits (ctlGet s rChnCtl) 8 8

/-- No heartbeat has come on port `p` for that many intervals. -/
def silentPort (s : State) (p : Nat) : Bool := decide (deadCount s ≤ (mget s.chain.ports p {}).miss)

/-- The route that a probe takes: one that avoids silent links (11 R416). -/
def probeRoute (s : State) (dst : BitVec 16) : Option Nat := routeBy s dst (fun p => !silentPort s p)

/-! ## Packets (11 Table 11-3, 11-4) -/

def pRead : Byte := 0x01
def pWrite : Byte := 0x02
def pAtomic : Byte := 0x03
def pToken : Byte := 0x04
def pReadResp : Byte := 0x08
def pAck : Byte := 0x09
def pErr : Byte := 0x0A
def pFenced : Byte := 0x0B
def pReroute : Byte := 0x0C
def pEnum : Byte := 0x20
def pTopo : Byte := 0x21
def pMember : Byte := 0x22
def pProbe : Byte := 0x23
def pProbeResp : Byte := 0x24
def pJoin : Byte := 0x25
def pClaim : Byte := 0x26
def pLeave : Byte := 0x27

/-- Virtual channel of a packet type. -/
def vcOf (ty : Byte) : Nat :=
  let t := ty.toNat
  if t < 8 then 0 else if t < 0x10 then 1 else if t < 0x20 then 2 else 3

def packetBytes (p : Packet) : List Byte :=
  leBytes 2 p.dst.toNat ++ leBytes 2 p.src.toNat ++ leBytes 2 p.epoch.toNat ++ [p.type, BitVec.ofNat 8 p.vc] ++
    leBytes 2 p.hops.toNat ++ leBytes 2 p.payload.length ++ leBytes 2 p.tag.toNat ++ leBytes 2 p.job.toNat ++
    leBytes 8 p.addr.toNat ++ leBytes 8 p.ext.toNat ++ p.payload

def packetOf (d : List Byte) : Packet :=
  { dst := BitVec.ofNat 16 (leAt d 0 2), src := BitVec.ofNat 16 (leAt d 2 2), epoch := BitVec.ofNat 16 (leAt d 4 2)
    type := BitVec.ofNat 8 (leAt d 6 1), vc := leAt d 7 1 % 4, hops := BitVec.ofNat 12 (leAt d 8 2)
    tag := BitVec.ofNat 16 (leAt d 12 2), job := BitVec.ofNat 12 (leAt d 14 2), addr := BitVec.ofNat 48 (leAt d 16 8)
    ext := BitVec.ofNat 64 (leAt d 24 8), payload := (d.drop 32).take (leAt d 10 2) }

/-- A packet of this device: hops 4,095, its address and epoch. -/
def mkPacket (s : State) (dst : BitVec 16) (ty : Byte) (tag : BitVec 16) (job : BitVec 12) (addr : BitVec 48) (ext : Word)
    (payload : List Byte) : Packet :=
  { dst := dst, src := s.chain.addr, epoch := s.chain.epoch, type := ty, vc := vcOf ty, hops := 4095, tag := tag, job := job
    addr := addr, ext := ext, payload := payload }

/-- The link flit of Table 11-2: header, packet bytes filled up to 624, and the CRC over both. -/
def flitBytes (seq ack : BitVec 16) (kind : Byte) (body : List Byte) (credits : BitVec 48) : List Byte :=
  let f := leBytes 2 seq.toNat ++ leBytes 2 ack.toNat ++ [kind, 0] ++ leBytes 6 credits.toNat ++ [0, 0, 0, 0] ++
    (body ++ List.replicate 624 0).take 624
  putAt f 12 (leBytes 4 (crc32 f).toNat)

/-- Put a packet on a port as one data flit, kept in the replay buffer until acknowledged (11 R402, R403); a port that retrains
holds it there. -/
def sendOn (s : State) (port : Nat) (p : Packet) : State :=
  let x := mget s.chain.ports port {}
  let q := x.txSeq + 1
  let y : Port := { x with txSeq := q, replay := (x.replay ++ [(q, packetBytes p)]).drop (x.replay.length + 1 - 512) }
  let s := { s with chain := { s.chain with ports := mset s.chain.ports port y } }
  if x.st = .training then s else emit (emit s (.packet port p)) (.flit port q x.rxSeq 0 (packetBytes p))

/-- Ring 0 is one closed ring: every device of the record has a partner on CP0. -/
def ringClosed (r : Membership) : Bool :=
  (r.members ++ r.spares).all (fun m => r.topo.any (fun e => e.1 == m.1 && e.2.1 == 0))

/-- A broadcast leaves along ring 0 downstream, and in both directions on a chain that is not known to be closed (11 R409). -/
def broadcastOn (s : State) (closed : Bool) (p : Packet) : State :=
  if s.chain.st = .fenced then s
  else
    let s := if portOn s 0 then sendOn s 0 p else s
    if !closed && portOn s 20 then sendOn s 20 p else s

def broadcast (s : State) (p : Packet) : State :=
  broadcastOn s (match s.chain.rec_ with
    | some r => ringClosed r
    | none => false) p

/-- An earlier request to `dst` left by another port and has no response yet (R411). -/
def routeWaits (s : State) (dst : BitVec 16) : Bool :=
  (route s dst).isSome && s.chain.outst.any (fun o => o.dst == dst && o.port.isSome && o.port != route s dst)

/-- Send a packet of this device along its route, or hold it while that has changed under an earlier request (R411). A fenced device
issues none; `none`: no route. -/
def sendPkt (s : State) (p : Packet) : Option State :=
  if s.chain.st = .fenced then some s
  else if routeWaits s p.dst then some { s with chain := { s.chain with heldTx := s.chain.heldTx ++ [p] } }
  else (route s p.dst).map (fun port => sendOn s port p)

def sendOrDrop (s : State) (p : Packet) : State := (sendPkt s p).getD s

/-! ## Answers (11 R408) -/

inductive Answer where
  | data (d : List Byte)
  | ack (ext : Word)
  | err (code : Nat)
  | fenced
  deriving DecidableEq, Repr

/-- The trap cause of an error answer (11 Table 11-4). -/
def Answer.cause : Answer → Nat
  | .err 2 => xWorld
  | .fenced => xFenced
  | _ => xVmem

/-- A value of `size` bytes in a register, sign-extended where the load is signed. -/
def extend (size : Nat) (signed : Bool) (v : Nat) : Word :=
  let v := v % 2 ^ (8 * size)
  if signed then BitVec.ofInt 64 (signedOf (8 * size) v) else BitVec.ofNat 64 v

/-- The bytes of a load after its thread's own forwarded stores (02 R57). -/
def forward (p : PendLoad) (d : List Byte) : List Byte :=
  (indexed d).map (fun b => (mget? p.fwd (p.addr.toNat + b.1)).getD b.2)

/-- Bytes of the request's own range in a response that holds a whole line. -/
def ownBytes (p : PendLoad) (d : List Byte) : List Byte :=
  if d.length = 64 ∧ p.size < 64 then (d.drop (p.addr.toNat % 64)).take p.size else d

def lateTrap (s : State) (t : Tid) (e : LateErr) : State := s.modThr t (fun x => { x with late := x.late ++ [e] })

/-- The late trap of a load, store or atomic. -/
def PendLoad.late (p : PendLoad) (cause : Nat) : LateErr := ⟨cause, p.addr, p.pc, p.inst, p.inTrap, p.rep⟩
def StoreEnt.late (e : StoreEnt) (cause : Nat) : LateErr := ⟨cause, e.addr, e.pc, e.inst, e.inTrap, none⟩

/-- A response that holds a line for a die cache to keep: the line with this device's own later stores. -/
def keepLine (s : State) (die : Nat) (a : Word) (o : Outstanding) (d : List Byte) : State :=
  if o.keep && d.length == 64 && rcacheAt s a then fillCopy s die a (overlay (a.toNat / 64 * 64) d o.own) else s

/-- The answer of a load or atomic. -/
def answerLoad (s : State) (t : Tid) (o : Outstanding) (r : Answer) : State :=
  let x := s.thr t
  match x.loads.find? (fun p => p.tag == some o.tag) with
  | none => s
  | some p =>
    let put (v : Option Word) : List PendLoad :=
      x.loads.map (fun q => if q.tag == some o.tag then { q with val := v, tag := none } else q)
    match r with
    | .data d =>
      let s := keepLine s (t.lathe.val / 17) p.addr o d
      let v := extend p.size p.signed (leNat (forward p (ownBytes p d)))
      wakeIf (s.setThr t { x with loads := put (some v) }) t
    | .err 3 => meetPoison s t p.addr
    | r =>
      let ls := x.loads.filter (fun q => q.tag != some o.tag)
      wakeIf (lateTrap (s.setThr t { x with loads := ls }) t (p.late r.cause)) t

/-- The bytes of an element of `n` bytes at `a` in a response, which may hold the whole line. -/
def elemBytes (a : Word) (n : Nat) (d : List Byte) : List Byte :=
  if d.length = 64 ∧ n < 64 then (d.drop (a.toNat % 64)).take n else d

/-- An element of a VLD or VGATHER has its outcome, and with it every element at the same address (03 R131). -/
def VecLoad.put (v : VecLoad) (p : VecPart) (val err : Option Nat) : VecLoad :=
  { v with parts := v.parts.map (fun q =>
      if q.elem = p.elem then { q with tag := none, val := val, err := err }
      else if q.addr == p.addr && q.tag.isNone && q.val.isNone && q.err.isNone then { q with val := val }
      else q) }

/-- The answer of an element of a vector load; the caller sends what waited for it. -/
def answerVec (s : State) (t : Tid) (o : Outstanding) (r : Answer) : State :=
  let x := s.thr t
  match x.vld with
  | none => s
  | some v =>
    match v.parts.find? (fun p => p.tag == some o.tag) with
    | none => s
    | some p =>
      match r with
      | .data d =>
        keepLine (s.setThr t { x with vld := some (v.put p (some (leNat (elemBytes p.addr (v.w / 8) d))) none) })
          (t.lathe.val / 17) p.addr o d
      | .err 3 => meetPoison s t p.addr
      | r => s.setThr t { x with vld := some (v.put p none (some r.cause)) }

/-- A queued operation that met an error response (05 R217), or poison (08 R320); a fault of the running task. -/
def lateError (s : State) (t : Tid) (code : Nat) (a : Word) : State :=
  if code = 3 then meetPoison s t a
  else detect s ⟨cLateError, 1, BitVec.ofNat 16 (coreIndex t), a, some t, 0, false⟩

/-- The code of an error answer; 4 stands for FENCED. -/
def Answer.code : Answer → Nat
  | .err n => n
  | .fenced => 4
  | _ => 0

/-- A line with its answer, if the tag is its own. -/
def LvLine.take (tag : BitVec 16) (r : Answer) (q : LvLine) : LvLine :=
  if q.tag == some tag then
    match r with
    | .data d => { q with tag := none, data := d }
    | .ack _ => { q with tag := none }
    | r => { q with tag := none, err := some r.code }
  else q

/-- The answer of one of the lines `ls`, which may become a copy. -/
def answerLine (s : State) (t : Tid) (ls : List LvLine) (o : Outstanding) (r : Answer) : State :=
  match r, ls.find? (fun q => q.tag == some o.tag) with
  | .data d, some q => keepLine s (t.lathe.val / 17) q.line o d
  | _, _ => s

/-- The answer of a line of an LVLD or LVST. -/
def answerLv (s : State) (t : Tid) (o : Outstanding) (r : Answer) : State :=
  let l := t.lathe.val
  let c := t.core.val
  match (s.core l c).lvAccess with
  | none => s
  | some a =>
    answerLine (s.modCore l c (fun x => { x with lvAccess := some { a with lines := a.lines.map (LvLine.take o.tag r) } }))
      t a.lines o r

/-- The answer of a line that a queued operation reads. -/
def answerPath (s : State) (t : Tid) (o : Outstanding) (r : Answer) : State :=
  let ls := (s.core t.lathe.val t.core.val).lines
  answerLine (s.modCore t.lathe.val t.core.val (fun x => { x with lines := ls.map (LvLine.take o.tag r) })) t ls o r

/-- The answer of a line of a record. -/
def answerRecord (s : State) (t : Tid) (o : Outstanding) (r : Answer) : State :=
  let ls := (s.thr t).recLines
  wakeIf (answerLine (s.modThr t (fun x => { x with recLines := ls.map (LvLine.take o.tag r) })) t ls o r) t

/-- The answer of an element of a VST or VSCATTER: the next may be sent, or the instruction ends at this one. A READ that asks
for the checks of an element is satisfied by poison too. -/
def answerVecStore (s : State) (t : Tid) (o : Outstanding) (r : Answer) : State :=
  let x := s.thr t
  match x.vst with
  | none => s
  | some v =>
    if v.tag != some o.tag then s
    else
      let passed : Bool := match r with
        | .data _ => true
        | .ack _ => true
        | .err 3 => !v.probes.isEmpty
        | _ => false
      let next : VecStore :=
        if passed then
          (if v.probes.isEmpty then { v with tag := none, elems := v.elems.drop 1 } else { v with tag := none, probes := v.probes.drop 1 })
        else
          let at_ : Nat × Word := match v.probes, v.elems with
            | p :: _, _ => p
            | [], e :: _ => (e.1, e.2.1)
            | [], [] => (0, 0)
          { v with tag := none, probes := [], elems := [], bad := some (at_.1, r.cause, at_.2) }
      s.setThr t { x with vst := some next }

/-- The state code that the ACK of a token carries (09 R552). -/
def Answer.found : Answer → Option Nat
  | .ack e => some (wbits e 0 8)
  | _ => none

/-- After its last entry is applied a TASK_GRAPH_SUBMIT is due, or watches its sink (10 R389). -/
def Cmd.graphEnd (c : Cmd) : Cmd :=
  let sink := BitVec.ofNat 64 (leAt c.packet 0x18 8)
  { c with wait := if sink = 0 then .done else .sink sink }

/-- An entry of a TASK_GRAPH_SUBMIT answered by another device: applied, busy or skipped (10 R389). -/
def graphAnswer (c : Cmd) (arm left : Bool) (r : Answer) : Cmd :=
  let c := match r.found with
    | some st => { c with
        result := c.result + 1
        aux := if arm && decide (1 ≤ st ∧ st ≤ 3) then c.aux + 0x10000 else c.aux }
    | none => { c with aux := c.aux + 1 }
  if left then c else c.graphEnd

/-- The answer of a TASK_SIGNAL's token (09 R552; statuses of 10 Table 10-7). -/
def signalAnswer (c : Cmd) (r : Answer) : Cmd :=
  match r with
  | .ack e => { c with result := BitVec.ofNat 32 (wbits e 0 8), wait := .done }
  | .err 2 => { c with status := 0x04, wait := .done }
  | .fenced => { c with status := 0x07, wait := .done }
  | _ => { c with status := 0x02, wait := .done }

/-- The bytes of the destination's next line. -/
def Move.piece (m : Move) : Nat := min (64 - (m.dst.toNat + m.at_) % 64) (m.n - m.at_)

/-- The answer of a copy's access. An error response ends the copy with ST_ABORTED, aux counting the bytes written (10 R387);
poison is reported too (08 R320). -/
def answerMove (s : State) (q : Nat) (n : BitVec 24) (o : Outstanding) (r : Answer) : State :=
  match s.host.cmds.find? (fun c => c.q == q && c.n == n) with
  | none => s
  | some c =>
    match c.wait with
    | .move m =>
      if m.tag != some o.tag then s
      else
        let put (s : State) (f : Cmd → Cmd) : State :=
          { s with host := { s.host with cmds := s.host.cmds.map (fun d => if d.q = q ∧ d.n = n then f d else d) } }
        (match r with
          | .data d => put s (fun c => { c with wait := .move { m with tag := none, got := some (d.take m.piece) } })
          | .ack _ => put s (fun c => { c with wait := .move { m with tag := none, got := none, at_ := m.at_ + m.piece } })
          | r =>
            let s := if r = .err 3 then
                detect s ⟨cPoisonRead, 7, BitVec.ofNat 16 (q % 2), o.pkt.addr.setWidth 64 ||| (o.dst.setWidth 64 <<< 48), none, 0, false⟩
              else s
            put s (fun c => { c with status := 0x05, result := 0, aux := BitVec.ofNat 64 m.at_, wait := .done }))
    | _ => s

/-- What the answer of a chain request does at its origin. -/
def answer (s : State) (o : Outstanding) (r : Answer) : State :=
  let s := { s with chain := { s.chain with outst := s.chain.outst.filter (fun q => q.tag != o.tag) } }
  match o.origin with
  | .load t => answerLoad s t o r
  | .store t e =>
    let x := s.thr t
    if !x.inflight.any (fun q => q.tag == some o.tag) then s
    else
    let s := s.setThr t { x with inflight := x.inflight.filter (fun q => q.tag != some o.tag) }
    match r with
    | .ack _ => wakeIf s t
    | .data _ => wakeIf s t
    | r => wakeIf (lateTrap s t (e.late r.cause)) t
  | .vec t => answerVec s t o r
  | .vecStore t => answerVecStore s t o r
  | .lv t => answerLv s t o r
  | .path t => answerPath s t o r
  | .record t => answerRecord s t o r
  | .pathWrite t w =>
    let x := s.thr t
    if !x.inflight.any (fun q => q.tag == some o.tag) then s
    else
      let s := s.setThr t { x with inflight := x.inflight.filter (fun q => q.tag != some o.tag) }
      (match r with
        | .ack _ => wakeIf s t
        | .data _ => wakeIf s t
        | r => wakeIf (lateError s t r.code w) t)
  | .mover q n => answerMove s q n o r
  | .engine => s
  | .token =>
    match r with
    | .ack _ => s
    | .data _ => s
    | _ => ctlOr s rTaskstat 4
  | .cmdToken q n arm graph =>
    let tw := s.host.tokenWait.filter (fun w => !(w.1 == q && w.2.1 == n && w.2.2.1 == o.tag))
    let left := tw.any (fun w => w.1 == q && w.2.1 == n)
    let upd (c : Cmd) : Cmd :=
      if c.q = q ∧ c.n = n then (if graph then graphAnswer c arm left r else signalAnswer c r) else c
    { s with host := { s.host with cmds := s.host.cmds.map upd, tokenWait := tw } }

/-! ## Requests -/

def setOutPort (s : State) (tag : BitVec 16) (port : Nat) : State :=
  { s with chain := { s.chain with outst := s.chain.outst.map (fun o => if o.tag = tag then { o with port := some port } else o) } }

/-- Requests to `dst` are held: it is under probe (R417), or its route has changed (R411). -/
def heldTo (s : State) (dst : BitVec 16) : Bool :=
  s.chain.probes.any (fun q => q.1 == dst) || s.chain.heldTx.any (fun q => q.dst == dst) || routeWaits s dst

/-- Send an outstanding request, or answer it where no route leads to its destination. -/
def sendRequest (s : State) (o : Outstanding) : State :=
  if s.chain.st = .fenced then answer s o .fenced
  else
    match route s o.dst with
    | some port =>
      setOutPort (sendOn s port { o.pkt with src := s.chain.addr, epoch := s.chain.epoch }) o.tag port
    | none => answer s o (.err 1)

/-- A request to `dst`: its tag, and the state in which it is sent, held, or answered for want of a route. -/
def request (s : State) (dst : BitVec 16) (ty : Byte) (addr : BitVec 48) (ext : Word) (payload : List Byte)
    (origin : BitVec 16 → Origin) : BitVec 16 × State :=
  let tag := s.chain.nextTag
  let p := mkPacket s dst ty tag 0 addr ext payload
  let o : Outstanding := { tag := tag, dst := dst, origin := origin tag, pkt := p }
  let held := heldTo s dst
  let s := { s with chain := { s.chain with nextTag := tag + 1, outst := s.chain.outst ++ [o] } }
  if held then (tag, { s with chain := { s.chain with heldTx := s.chain.heldTx ++ [p] } })
  else (tag, sendRequest s o)

/-- The requests held for `dst` are sent, oldest first, once nothing holds them. -/
def flushHeld (s : State) (dst : BitVec 16) : State :=
  if s.chain.probes.any (fun q => q.1 == dst) || routeWaits s dst then s
  else
    let ps := s.chain.heldTx.filter (fun p => p.dst == dst)
    let s := { s with chain := { s.chain with heldTx := s.chain.heldTx.filter (fun p => p.dst != dst) } }
    ps.foldl (fun s p =>
      if p.vc = 0 then
        match s.chain.outst.find? (fun o => o.tag == p.tag) with
        | some o => sendRequest s o
        | none => s
      else sendOrDrop s p) s

/-- The READs of a range of another device, at most 512 bytes each. -/
def remoteReads (s : State) (dst : BitVec 16) (a n : Nat) : State :=
  (List.range (cdiv n 512)).foldl (fun s k =>
    (request s dst pRead (BitVec.ofNat 48 (a + 512 * k)) 0 (leBytes 2 (min 512 (n - 512 * k))) (fun _ => .engine)).2) s

/-- Bytes that a path or engine of this device reads: local memory, or another device's bytes, which are free values here
(08 R294). -/
def engineRead (s : State) (q : Req) (w : Word) (n : Nat) : List Byte × State :=
  if isSelf s (chainOf w) then (memRead s (cellOf q.own (localOf w)) n, s)
  else
    let s := remoteReads s (chainOf w) (localOf w) n
    ((List.range n).map (fun k => Config.remoteByte (s.free + k)), { s with free := s.free + n })

/-- Pieces of at most 512 bytes of a write to another device. -/
def remoteWrites (s : State) (dst : BitVec 16) (a : Nat) (d : List Byte) (origin : BitVec 16 → Origin) : State :=
  (indexed (pieces 512 (cdiv d.length 512) d)).foldl (fun s c =>
    (request s dst pWrite (BitVec.ofNat 48 (a + 512 * c.1)) 0xFFFFFFFFFFFFFFFF#64 c.2 origin).2) s

end Sys2Proof.Machine
end

