-- ==== Sys2Proof/Machine/Tasks.lean ====
section
/-!
DEFINITION. Tasks (09): descriptors, tokens, firing, placement, start, completion and the return of a thread to IDLE. A
descriptor is known by its local address.
-/

namespace Sys2Proof.Machine

/-! ## Descriptor fields (09 Table 9-1) -/

def dEntry : Nat := 0x00
def dWset : Nat := 0x08
def dArg0 : Nat := 0x10
def dArg1 : Nat := 0x18
def dOuts : Nat := 0x20
def dOutCount : Nat := 0x28
def dNeed : Nat := 0x2A
def dCount : Nat := 0x2C
def dEarly : Nat := 0x2E
def dAffinity : Nat := 0x30
def dStep : Nat := 0x40
def dSeed : Nat := 0x44
def dFlags : Nat := 0x45
def dSeqF : Nat := 0x46
def dSeqAdv : Nat := 0x48
def dState : Nat := 0x49
def dStatus : Nat := 0x4A
def dElapsed : Nat := 0x50
def dCompletions : Nat := 0x58

/-- A field of `n` bytes of the descriptor at `d`. -/
def dGet (s : State) (d off n : Nat) : Nat := memNat s (d + off) n

def dPut (s : State) (d off n v : Nat) : State := memWrite s (d + off) (leBytes n v)

/-- The world of the RAT region that holds a descriptor. -/
def descWorld (s : State) (d : Nat) : World := (ratLookup s 0 d).world

/-- DEV_TASKSTAT records events of NS descriptors (R336). -/
def taskStat (s : State) (w : World) (bit : Nat) : State := if w = .ns then ctlOr s rTaskstat ((1 : Word) <<< bit) else s

/-- What follows the end of a run of a descriptor: a sink watch takes it (10 R389), a hand-off sees it (12 R444). At a normal end
the status counts as 0 (Table 9-4). -/
def taskEnded (s : State) (d : Nat) (normal : Bool) : State :=
  let st : Word := if normal then 0 else BitVec.ofNat 64 (dGet s d dStatus 1)
  let watch (c : Cmd) : Cmd :=
    match c.wait with
    | .sink w =>
      if localOf w = d ∧ isSelf s (chainOf w) then
        { c with aux := c.aux ||| (st <<< 32), status := if normal then c.status else 0x05, wait := .done }
      else c
    | _ => c
  let hand (h : Handoff) : Handoff :=
    if h.started ∧ localOf h.desc = d ∧ h.ended = none then { h with ended := some normal } else h
  { s with
    host := { s.host with cmds := s.host.cmds.map watch }
    fer := { s.fer with handoffs := s.fer.handoffs.map hand } }

/-- The descriptor becomes FAULTED with a status (Table 9-4). -/
def faultDesc (s : State) (d status : Nat) : State :=
  taskEnded (dPut (dPut s d dStatus 1 status) d dState 1 5) d false

/-! ## Targets of tokens (R332) -/

def inLmWindow (a : Nat) : Bool :=
  (decide (0x200000000000 ≤ a) && decide (a < 0x200044000000)) ||
    (decide (0x2F0000000000 ≤ a) && decide (a < 0x2F0001000000))

/-- The checks of R332 but for address windows. -/
def tokenCheck (s : State) (q : Req) (w : Word) : Acc :=
  if w.toNat % 128 ≠ 0 then .trap xAlign w
  else
    match checkAcc s q (w + 0x2C) 4 true with
    | .trap c v => if inLmWindow (localOf w) ∧ c ≠ xWorld then .trap xVmem w else .trap c v
    | r => if inLmWindow (localOf w) then .trap xVmem w else r

/-! ## Placement (R339, R340) -/

/-- The spare that took the place of a retired lathe in the repair map: the last such item, followed while it is retired. -/
def standsFor (s : State) : Nat → Nat → Option Nat
  | 0, _ => none
  | k + 1, n =>
    if (s.lathe n).svc = .retired then
      match (s.store.repair.filter (fun i => i.kind == 0 && i.action == 4 && i.index.toNat == n)).getLast? with
      | some i => if i.a = 0xFF#32 then none else standsFor s k i.a.toNat
      | none => none
    else some n

/-- Lathe `l` is named by an affinity, whose bits above 67 are reserved. -/
def namedBy (s : State) (aff : BitVec 128) (l : Nat) : Bool :=
  (List.range 68).all (fun n => !aff.getLsbD n) || (List.range 68).any (fun n => aff.getLsbD n && standsFor s 68 n == some l)

/-- Lathe `l` is eligible for a task (R339). -/
def eligible (s : State) (w : World) (aff : BitVec 128) (l : Nat) : Bool :=
  (s.lathe l).world == w && (s.lathe l).svc == .inService && namedBy s aff l

/-- The task scheduler of lathe `l` takes tasks: no retirement, no world change is pending (14 Table 14-5, 15 R487). -/
def takesTasks (s : State) (l : Nat) : Bool := !(s.lathe l).retiring && (mget? s.sec.pend l).isNone

def queuedCount (x : Lathe) : Nat := x.queue.foldl (fun n p => n + p.2.length) 0

def snapWorld (q : Snapshot) : World := if q.flags.getLsbD 0 then .s else .ns

def snapPrio (q : Snapshot) : Nat := (q.flags.toNat / 16) % 4

def eligibles (s : State) (q : Snapshot) : List Nat :=
  (List.range 68).filter (fun l => eligible s (snapWorld q) q.affinity l)

/-- The lathe whose queue a task enters: fewest queued tasks, then lowest number, among those with room. -/
def chooseLathe (s : State) (q : Snapshot) : Option Nat :=
  (eligibles s q).foldl (fun b l =>
    if takesTasks s l && decide (queuedCount (s.lathe l) < 256) then
      match b with
      | none => some l
      | some k => if queuedCount (s.lathe l) < queuedCount (s.lathe k) then some l else some k
    else b) none

/-- A wake event of lathe `l` (16 R512); in A4 it wakes the device. -/
def wakeLathe (s : State) (l : Nat) : State :=
  let s := if s.pwr.standby then { s with pwr := { s.pwr with waking := true } } else s
  let x := s.lathe l
  if x.power = 0 then s else s.setLathe l { x with waking := true }

/-- Put a task into the queue of lathe `l`, at the head of its FIFO for a replay (R345). -/
def enqueue (s : State) (l : Nat) (q : Queued) : State :=
  let f (fifo : List Queued) : List Queued := if q.replay then q :: fifo else fifo ++ [q]
  wakeLathe (s.modLathe l (fun x => { x with queue := mmod x.queue (snapPrio q.snap) [] f, idleNoted := false })) l

/-- Place a task, or leave it in the overflow list while no eligible queue takes it. -/
def placeTask (s : State) (q : Queued) : State :=
  match chooseLathe s q.snap with
  | some l => enqueue s l q
  | none => { s with overflow := s.overflow ++ [q] }

/-! ## Firing (R337 to R339) -/

/-- Offsets of the registers of sequence entry `k`. -/
def seqKv (k : Nat) : Nat := rSeq k
def seqPos (k : Nat) : Nat := rSeq k + 8
def seqCap (k : Nat) : Nat := rSeq k + 16
def seqCtl (k : Nat) : Nat := rSeq k + 24

/-- A sequence entry can serve a task of world `w`. -/
def seqUsable (s : State) (w : World) (k : Nat) : Bool :=
  decide (k < 512) && decide (wbits (ctlGet s (seqCtl k)) 2 1 = worldBit w) && decide (wbits (ctlGet s (seqCtl k)) 0 2 = 1)

/-- Position, length and slot address that a firing takes from a sequence entry (R349). -/
def seqValues (s : State) (k : Nat) : Word × Word × Word :=
  let pos := wbits (ctlGet s (seqPos k)) 0 32
  let cap := wbits (ctlGet s (seqCap k)) 0 32
  (BitVec.ofNat 64 pos, BitVec.ofNat 64 (wbits (ctlGet s (seqPos k)) 32 32),
    ctlGet s (seqKv k) + BitVec.ofNat 64 (pos % cap * wbits (ctlGet s (seqCap k)) 32 32))

/-- A device-side read of local memory can return data: it passes the checks and meets no poison. -/
def readable (s : State) (q : Req) (w : Word) (n : Nat) : Bool :=
  match checkAcc s q w n with
  | .ok => (granules (localOf w) n).all (fun g =>
      match place s q.own g with
      | .ram _ => true
      | _ => false) && (poisonAt s (localOf w) n).isNone
  | .remote _ => true
  | .wake _ => true
  | .trap _ _ => false

/-- The checks of R338, in order, for the descriptor at `d`. -/
def fireChecks (s : State) (d : Nat) : Bool :=
  let flags := dGet s d dFlags 1
  let w : World := if flags % 2 = 1 then .s else .ns
  let wset := BitVec.ofNat 64 (dGet s d dWset 8)
  let seq := dGet s d dSeqF 2
  let k := seq % 1024
  descWorld s d == w && decide (wset.toNat % 64 = 0) && readable s ⟨w, none⟩ wset 256 &&
    (w == .s || decide (dGet s d dSeed 1 ≤ 127)) &&
    (decide (seq < 0x8000) || (seqUsable s w k && decide (wbits (ctlGet s (seqCap k)) 0 32 ≠ 0))) &&
    decide (dGet s d dEntry 8 % 8 = 0)

/-- The windows of a window set (Table 9-2): base word, limit word, v x w r. -/
def windowsOf (b : List Byte) : List (Word × Word × BitVec 4) :=
  (List.range 16).map (fun k =>
    let lo := BitVec.ofNat 64 (leAt b (16 * k) 8)
    (lo, BitVec.ofNat 64 (leAt b (16 * k + 8) 8), lo.setWidth 4))

/-- The snapshot of a firing, and the state after its reads (R337). -/
def snapshot (s : State) (d : Nat) : Snapshot × State :=
  let flags := dGet s d dFlags 1
  let w : World := if flags % 2 = 1 then .s else .ns
  let r := engineRead s ⟨w, none⟩ (BitVec.ofNat 64 (dGet s d dWset 8)) 256
  let seq := dGet s d dSeqF 2
  ({ desc := BitVec.ofNat 64 d
     entry := BitVec.ofNat 64 (dGet s d dEntry 8)
     win := windowsOf r.1
     arg0 := BitVec.ofNat 64 (dGet s d dArg0 8)
     arg1 := BitVec.ofNat 64 (dGet s d dArg1 8)
     affinity := BitVec.ofNat 128 (dGet s d dAffinity 16)
     step := BitVec.ofNat 32 (dGet s d dStep 4)
     seed := ctlGet s (rSeed (dGet s d dSeed 1))
     flags := BitVec.ofNat 8 flags
     seq := if 0x8000 ≤ seq then some (seqValues s (seq % 1024)) else none
     firedAt := s.plat.devTime }, r.2)

/-- A lathe of the affinity that was retired without a spare (14 R468). -/
def lostLathe (s : State) (aff : BitVec 128) : Option Nat :=
  (List.range 68).find? (fun n => aff.getLsbD n && (s.lathe n).svc == .retired && standsFor s 68 n == none)

/-- A firing without an eligible lathe ends NO_LATHE, with a record where R468 says so. -/
def noLatheEnd (s : State) (d : Nat) (aff : BitVec 128) : State :=
  let s := faultDesc (taskStat s (descWorld s d) 1) d 3
  match lostLathe s aff with
  | some n => detectFor s (plainFault cNoLathe 0 n) (BitVec.ofNat 64 d)
  | none => s

/-- The descriptor at `d` fires. -/
def fire (s : State) (d : Nat) : State :=
  if !fireChecks s d then faultDesc (taskStat s (descWorld s d) 0) d 2
  else
    let r := snapshot s d
    if (eligibles s r.1).isEmpty then noLatheEnd r.2 d r.1.affinity
    else placeTask (dPut r.2 d dState 1 2) ⟨r.1, false, 0, 0⟩

/-! ## Tokens (R334) -/

/-- A signal token at the descriptor at `d`. -/
def signalToken (s : State) (d : Nat) : State :=
  match dGet s d dState 1 with
  | 1 =>
    let c := (dGet s d dCount 2 + 65535) % 65536
    let s := dPut s d dCount 2 c
    if c = 0 then fire s d else s
  | 2 => early s
  | 3 => early s
  | _ => taskStat s (descWorld s d) 2
where
  early (s : State) : State :=
    let e := dGet s d dEarly 2
    if e < 65535 then dPut s d dEarly 2 (e + 1) else taskStat s (descWorld s d) 2

/-- An arm token at the descriptor at `d`; a state the table does not list is DISARMED (R329). -/
def armToken (s : State) (d : Nat) : State :=
  let st := dGet s d dState 1
  if 1 ≤ st ∧ st ≤ 3 then taskStat s (descWorld s d) 3
  else
    let s := if st = 4 ∨ st = 5 then s else dPut s d dCompletions 4 0
    let need := dGet s d dNeed 2
    let s := dPut (dPut (dPut (dPut s d dEarly 2 0) d dStatus 1 0) d dCount 2 need) d dState 1 1
    if need = 0 then fire s d else s

def applyToken (s : State) (arm : Bool) (d : Nat) : State := if arm then armToken s d else signalToken s d

/-- A token sent to `w` by an agent with checks `q`: applied here, sent to another device, or refused. -/
inductive Sent where
  /-- applied; the state code that the token found -/
  | applied (found : Nat) (s : State)
  | remote (tag : BitVec 16) (s : State)
  | refused (cause : Nat) (s : State)

def sendToken (s : State) (q : Req) (arm : Bool) (w : Word) (origin : BitVec 16 → Origin) : Sent :=
  match tokenCheck s q w with
  | .ok => .applied (dGet s (localOf w) dState 1) (applyToken s arm (localOf w))
  | .wake _ => .applied (dGet s (localOf w) dState 1) (applyToken s arm (localOf w))
  | .remote c =>
    let r := request s c pToken (w.setWidth 48) (if arm then 1 else 0) [] origin
    .remote r.1 r.2
  | .trap cause _ => .refused cause s

/-! ## The end of a thread's run -/

/-- 1 KiB granules of a tile register or accumulator tile (05 R194). -/
def tileGranules (k : Nat) (x : Tile) : Nat :=
  if 8 ≤ k then cdiv (x.rows * x.cols * 4) 1024
  else cdiv (x.rows * cdiv (x.cols * fmtBits x.fmt.toNat) 8 + (if fmtBlock x.fmt.toNat then x.rows * (x.cols / 32) * 2 else 0)) 1024

def fileGranules (c : Core) : Nat :=
  (List.range 8).foldl (fun n k => n + tileGranules k (mget c.tiles k {})) 0

def accGranules (c : Core) : Nat :=
  [8, 9].foldl (fun n k => n + tileGranules k (mget c.tiles k {})) 0

/-- An unconfigured tile; its version advances (05 R230). -/
def Tile.clear (x : Tile) : Tile := { version := x.version + 1 }

/-- The context becomes unowned, every tile of it unconfigured and its storage free (05 R192). -/
def releaseContext (s : State) (l c : Nat) : State :=
  let x := s.core l c
  let s := s.modLathe l (fun y => { y with tileFree := y.tileFree + fileGranules x, accFree := y.accFree + accGranules x })
  let s := s.setCore l c { x with owner := none, tiles := x.tiles.map (fun p => (p.1, p.2.clear)) }
  -- threads that wait for the context may issue again (05 R190)
  (coreThreads l c).foldl (fun s t => if (s.thr t).st = .waiting .tileContext then makeReady s t else s) s

/-- A core whose context thread `t` owns. -/
def ownsContext (s : State) (t : Tid) : Bool := (s.core t.lathe.val t.core.val).owner == some t.thread.val

/-- Free the mailbox locks of an agent; the rest of a message read in part is discarded (R342, R345, R355, R356). -/
def freeLocks (s : State) (id : BitVec 16) : State :=
  let f (m : Mailbox) : Mailbox :=
    if m.owner = id then
      { m with owner := 0, e0 := { m.e0 with part := [] }, e1 := { m.e1 with part := [] } }
    else m
  { s with mbx := s.mbx.map (fun p => (p.1, f p.2)) }

/-- The finishing operations of lathe `l` no longer wait for an FTAB of the thread with key `k` (07 R285). -/
def unholdFin (s : State) (l k : Nat) : State :=
  { s with cores := s.cores.map (fun (p : Nat × Core) =>
      if p.1 / 68 = l then (p.1, { p.2 with finQ := p.2.finQ.map (fun o => { o with hold := o.hold.filter (· != k) }) })
      else p) }

/-- Remove the pending waits that a thread has in lists of its lathe and memory. -/
def dropWaits (s : State) (t : Tid) : State :=
  let s := unholdFin s t.lathe.val (tkey t)
  s.modLathe t.lathe.val (fun x =>
    { x with tcfgQ := x.tcfgQ.filter (fun p => p != (t.core.val, t.thread.val)) })

/-- Discard the thread's queued tile, finishing and long-vector operations (R345). -/
def discardQueued (s : State) (t : Tid) : State :=
  let k := t.thread.val
  let s := s.modCore t.lathe.val t.core.val (fun c => { c with
    tileQ := c.tileQ.filter (fun o => o.thread != k)
    finQ := c.finQ.filter (fun o => o.thread != k)
    drainEnd := if c.owner = some k then none else c.drainEnd
    lines := []
    lvAccess := c.lvAccess.filter (fun a => a.thread != k) })
  if ownsContext s t then
    s.modLathe t.lathe.val (fun x => { x with arr := { x.arr with
      passes := x.arr.passes.filter (fun p => p.2.core != t.core.val) } })
  else s

/-- The thread becomes IDLE; its context ends. -/
def idleThread (s : State) (t : Tid) : State :=
  let s := if ownsContext s t then releaseContext s t.lathe.val t.core.val else s
  let s := s.modThr t (fun x => { x with
    task := none, loads := [], sbuf := [], inflight := [], result := none, vld := none, vst := none, rep := none, resume := none, late := []
    bankGrant := none, bound := false, fetched := [], recLines := [], preemptAt := none })
  leave { s with mem := { s.mem with bankWait := s.mem.bankWait.filter (fun b => b.thread != t) } } t .idle

/-- Abandonment of the task on thread `t`: steps 1 to 3 of R345. -/
def abandon (s : State) (t : Tid) : State :=
  idleThread (freeLocks (dropWaits (discardQueued s t) t) (threadId t)) t

/-- Step 4 of R345 for the task that ran on a thread: it is placed for replay with what its earlier runs counted. -/
def replayOf (r : TaskRun) : Queued := ⟨r.snap, true, r.abandoned + 1, r.strikes⟩

/-- The handling in progress counts an abandonment; its record names the first task (14 Table 14-6). -/
def countReplay (s : State) (desc : Word) : State :=
  { s with flt := { s.flt with cur := s.flt.cur.map (fun h =>
      { h with count := h.count + 1, task := if h.task = 0 then desc else h.task }) } }

/-- The fifth abandonment of a firing ends its task LOST with cause replay_limit: in the record of the handling that abandons
it, or in a record of its own (14 R456, Table 14-2). -/
def replayLimit (s : State) (l : Nat) (desc : Word) : State :=
  let s := faultDesc s (localOf desc) 4
  match s.flt.cur with
  | some h => { s with flt := { s.flt with cur := some { h with lost := some (h.lost.getD (l, desc)) } } }
  | none => detectFor s (plainFault cReplayLimit 0 l) desc

/-- Step 4 of R345 on lathe `l`: the task of a run is placed for replay, unless this firing has been abandoned five times. -/
def replay (s : State) (l : Nat) (r : TaskRun) : State :=
  if 4 ≤ r.abandoned then replayLimit s l r.snap.desc else placeTask (countReplay s r.snap.desc) (replayOf r)

/-- Abandon the task of thread `t` and place it for replay (R345). -/
def abandonReplay (s : State) (t : Tid) : State :=
  match (s.thr t).task with
  | none => s
  | some r => replay (abandon s t) t.lathe.val r

/-- A thread of a lathe under retirement that has been preempted stops until the lathe's epoch is incremented (14 Table
14-5). -/
def park (s : State) (t : Tid) : State :=
  leave (s.modThr t (fun x => { x with preemptAt := none })) t (.waiting .latheFenced)

/-- The moment of abandonment of a preempted thread (14 R463). -/
def preempted (s : State) (t : Tid) : State :=
  if (s.lathe t.lathe.val).retiring then park s t else abandonReplay s t

/-! ## Start (R341) -/

/-- Cores kept out of replay placement: a core_parity within 24 h and no remap since (14 R462). -/
def avoided (s : State) (l c : Nat) : Bool :=
  s.flt.avoid.contains (ckey l c) &&
    s.flt.strikes.any (fun k => k.1 == cCoreParity && k.2.2.1 == BitVec.ofNat 16 (ckey l c) &&
      decide (s.plat.devTime.toNat < k.2.2.2.toNat + 24 * nsHour))

/-- The head of the highest-priority non-empty FIFO of lathe `l`: its priority, the task and the rest. -/
def queueHead (x : Lathe) : Option (Nat × Queued × List Queued) :=
  [3, 2, 1, 0].findSome? (fun p =>
    match mget x.queue p [] with
    | q :: r => some (p, q, r)
    | [] => none)

/-- The task scheduler of lathe `l` can hand out tasks; none while a memory mode change is pending (08 R311). -/
def canStart (s : State) (l : Nat) : Bool :=
  let x := s.lathe l
  x.svc == .inService && x.power == 0 && !x.waking && !s.pwr.standby && takesTasks s l &&
    !(ctlGet s rMemMode).getLsbD 8 && !(if h : l < 68 then !clockOn s (.lathe ⟨l, h⟩) else false)

/-- Thread `k` of core `c` may take task `q`. -/
def mayTake (s : State) (l c k : Nat) (q : Queued) : Bool :=
  (s.core l c).inService && !(q.replay && avoided s l c) && (mget s.threads (ckey l c * 8 + k) {}).st == .idle

/-- No thread in increasing core, then thread number, before thread `k` of core `c` may take the task. -/
def firstIdle (s : State) (l c k : Nat) (q : Queued) : Bool :=
  mayTake s l c k q && !(List.range (c * 8 + k)).any (fun j => mayTake s l (j / 8) (j % 8) q)

/-- The thread at the start of a task. -/
def startThread (x : Thread) (q : Queued) : Thread :=
  let n := q.snap
  let tk := n.flags.getLsbD 1
  let args := match n.seq with
    | some v => [v.1, v.2.1, v.2.2]
    | none => [0, 0, 0]
  { st := .ready, pc := n.entry
    g := (indexed (n.arg0 :: n.arg1 :: args)).map (fun p => (p.1 + 1, p.2))
    level := .u, fpcsr := if tk then 1 else 0, tk16 := tk, ie := true
    nest := x.nest, tl := x.tl, ppl := x.ppl, pie := x.pie, ratWrites := x.ratWrites
    win := (indexed n.win).map (fun (p : Nat × Word × Word × BitVec 4) =>
      (p.1, { base := (p.2.1 >>> 6).setWidth 58, limit := (p.2.2.1 >>> 6).setWidth 58, attr := p.2.2.2 : Window }))
    coreTask := n.desc
    xepc := x.xepc, xcause := x.xcause, xtval := x.xtval, xinst := x.xinst, xscratch := x.xscratch
    xrep := x.xrep, xdlyc := x.xdlyc, xdly0 := x.xdly0, xdly1 := x.xdly1
    tcmp := x.tcmp, ipTim := x.ipTim
    task := some { snap := n, abandoned := q.abandoned, strikes := q.strikes } }

/-- Thread `t` takes the head of its lathe's queue and starts it. -/
def startTask (s : State) (t : Tid) : State :=
  let l := t.lathe.val
  let c := t.core.val
  match queueHead (s.lathe l) with
  | some (p, q, r) =>
    if canStart s l && firstIdle s l c t.thread.val q then
      let s := s.modLathe l (fun x => { x with queue := mset x.queue p r })
      let s := s.modCore l c (fun x => if x.discard then { x with icache := [], discard := false } else x)
      let s := s.modThr t (fun x => startThread x q)
      select (dPut s (localOf q.snap.desc) dState 1 3) l c
    else s
  | none => s

/-! ## Completion (R342 to R344, R348) -/

/-- An address of the output token list that is skipped sets DEV_TASKSTAT.tok_dropped. -/
def sendOut (w : World) (s : State) (target : Word) : State :=
  match sendToken s ⟨w, none⟩ false target (fun _ => .token) with
  | .applied _ s => s
  | .remote _ s => s
  | .refused _ s => taskStat s w 2

/-- One entry of the output token list, read as 8 bytes in the task's world. -/
def outEntry (w : World) (s : State) (a : Word) : State :=
  if a.toNat % 8 = 0 ∧ readable s ⟨w, none⟩ a 8 then
    let r := engineRead s ⟨w, none⟩ a 8
    sendOut w r.2 (BitVec.ofNat 64 (leNat r.1))
  else taskStat s w 2

/-- Signal tokens to the output token list, in list order. -/
def sendOuts (w : World) (s : State) (d : Nat) : State :=
  let outs := dGet s d dOuts 8
  let n := dGet s d dOutCount 2
  if outs = 0 then s
  else (List.range n).foldl (fun s k => outEntry w s (BitVec.ofNat 64 (outs + 8 * k))) s

/-- The staged tokens, in staging order. -/
def sendStaged (w : World) (s : State) (staged : List (Word × Bool)) : State :=
  staged.foldl (fun s p =>
    match sendToken s ⟨w, none⟩ p.2 p.1 (fun _ => .token) with
    | .applied _ s => s
    | .remote _ s => s
    | .refused _ s => taskStat s w 2) s

/-- A sequence advances when its entry is ACTIVE (R348). -/
def advanceSeq (w : World) (s : State) (d : Nat) : State :=
  let f := dGet s d dSeqF 2
  let k := f % 1024
  if 0x8000 ≤ f ∧ seqUsable s w k then
    let adv := dGet s d dSeqAdv 1
    let r := ctlGet s (seqPos k)
    let pos := min (wbits r 0 32 + adv) 0xFFFFFFFF
    let len := min (wbits r 32 32 + adv) (wbits (ctlGet s (seqCap k)) 0 32)
    ctlSet s (seqPos k) (BitVec.ofNat 64 (len * 2 ^ 32 + pos))
  else s

/-- The rearm branch: early tokens are applied until the task fires again. -/
def rearm (s : State) (d : Nat) : State :=
  let s := if dGet s d dFlags 1 / 8 % 2 = 1 then dPut s d dStep 4 (dGet s d dStep 4 + 1) else s
  let need := dGet s d dNeed 2
  let e := dGet s d dEarly 2
  let n := min e need
  let s := dPut (dPut (dPut s d dEarly 2 (e - n)) d dCount 2 (need - n)) d dState 1 1
  if need = n then fire s d else s

/-- The end of a normal completion. -/
def afterRun (w : World) (s : State) (d : Nat) (firedAt : Word) : State :=
  let s := dPut s d dElapsed 8 (s.plat.devTime - firedAt).toNat
  let s := dPut s d dCompletions 4 (dGet s d dCompletions 4 + 1)
  if dGet s d dFlags 1 / 4 % 2 = 1 then rearm (taskEnded s d true) d
  else
    let s := taskEnded (dPut s d dState 1 4) d true
    if dGet s d dEarly 2 = 0 then s else dPut (taskStat s w 2) d dEarly 2 0

/-- Completion of the task on thread `t`, which has executed DONE and has nothing outstanding (R342). -/
def completeTask (s : State) (t : Tid) : State :=
  let x := s.thr t
  match x.task, x.st with
  | some r, .waiting .completing =>
    let d := localOf r.snap.desc
    let w := snapWorld r.snap
    let s := freeLocks s (threadId t)
    let s :=
      if dGet s d dStatus 1 = 1 then taskEnded (dPut s d dState 1 5) d false
      else afterRun w (advanceSeq w (sendStaged w (sendOuts w s d) r.staged) d) d r.snap.firedAt
    idleThread s t
  | _, _ => s

/-! ## The overflow list (R340) -/

/-- The first task of the overflow list that some eligible queue can take enters it. -/
def placeOverflow (s : State) : State :=
  match s.overflow.find? (fun q => (chooseLathe s q.snap).isSome) with
  | some q =>
    match chooseLathe s q.snap with
    | some l => enqueue { s with overflow := s.overflow.erase q } l q
    | none => s
  | none => s

/-! ## TOKEN and DONE (R331 to R333, R342) -/

/-- Wait for the thread's queues, then for its earlier stores and atomics (R226, R314). -/
def releasePoint (s : State) (t : Tid) (k : State → Res) : Res :=
  if hasQueued s t then .wait .queues s
  else if !storesDone (s.thr t) then .wait .stores s
  else k s

/-- At TOKEN and DONE the lathe writes back the dirty LM-cache lines that the thread's task wrote (R314). -/
def writeBack (s : State) (t : Tid) : State := lmClean s t.lathe.val (· == some (tkey t))

def stageToken (s : State) (t : Tid) (w : Word) (arm : Bool) : State :=
  match (s.thr t).task with
  | some r =>
    if r.staged.length < 64 then s.modThr t (fun x => { x with task := some { r with staged := r.staged ++ [(w, arm)] } })
    else taskStat s (snapWorld r.snap) 4
  | none => s

def bodyToken (t : Tid) (f : Fld) : Body :=
  plain (fieldsOk .z .g .z f && immBelow f 1) (fun s =>
    let w := (s.thr t).rg f.s1.toNat
    if w.toNat % 128 ≠ 0 then .trap xAlign w s
    else if !windowOk (s.thr t) .rw (w + 0x2C) 4 then .trap xWindow (w + 0x2C) s
    else
      match tokenCheck s (reqOf s t) w with
      | .trap c v => .trap c v (if c = xWorld then noteWorld s t v 3 4 else s)
      | .wake l => .wait (.wake l) (wakeLathe s l)
      | _ => releasePoint s t (fun s => .ok (stageToken (writeBack s t) t w (f.imm.getLsbD 0))))

def execTokenOp (t : Tid) (f : Fld) (s : State) : Oc := issue t 0x0E6 f (bodyToken t f) s

def bodyDone (t : Tid) (f : Fld) : Body :=
  plain (fieldsOk .z .z .z f && immBelow f 0) (fun s => releasePoint s t (fun s => .hold .completing (writeBack s t)))

def execDoneTask (t : Tid) (f : Fld) (s : State) : Oc := issue t 0x0E5 f (bodyDone t f) s

end Sys2Proof.Machine
end

