-- ==== Sys2Proof/Machine/Mailbox.lean ====
section
/-!
DEFINITION. Mailboxes (09 R350 to R360): queues, staged words, locks, notification, reset, and MBXSEND and MBXRECV.
-/

namespace Sys2Proof.Machine

/-! ## MSI-X (10 R363) -/

/-- Send an MSI-X message; a masked vector becomes pending in the PBA. -/
def sendMsix (s : State) (vec : Nat) : State :=
  if !s.host.linkUp then s
  else if (mget s.host.msix vec {}).masked then
    { s with host := { s.host with pba := if s.host.pba.contains vec then s.host.pba else s.host.pba ++ [vec] } }
  else emit s (.msix vec)

/-! ## Ends -/

def State.box (s : State) (m : Nat) : Mailbox := mget s.mbx m {}
def State.setBox (s : State) (m : Nat) (x : Mailbox) : State := { s with mbx := mset s.mbx m x }

def Mailbox.at (x : Mailbox) (e : Nat) : MbxEnd := if e = 0 then x.e0 else x.e1
def Mailbox.put (x : Mailbox) (e : Nat) (y : MbxEnd) : Mailbox := if e = 0 then { x with e0 := y } else { x with e1 := y }

/-- Words queued toward an end. -/
def MbxEnd.words (y : MbxEnd) : Nat := y.part.length + y.msgs.foldl (fun n w => n + w.length) 0

/-- Messages queued toward an end, one read in part among them. -/
def MbxEnd.count (y : MbxEnd) : Nat := y.msgs.length + (if y.part.isEmpty then 0 else 1)

/-- The agent bound to end `e` of mailbox `m`. -/
def boundTo (s : State) (m e : Nat) : BitVec 16 := BitVec.ofNat 16 (wbits (ctlGet s (rMbx m)) (16 * e) 16)

/-- A lathe island that is powered off in every state, and that no access wakes (01 R26, 16 R514). -/
def latheDark (s : State) (l : Nat) : Bool := (s.lathe l).svc != .inService

/-- A lathe island that is powered off (01 R26, 16 Table 16-1 and R514). -/
def latheOff (s : State) (l : Nat) : Bool := latheDark s l || (s.lathe l).power == 3

/-- A core removed from service for good (14 R466). -/
def coreRemoved (s : State) (k : Nat) : Bool :=
  s.store.repair.any (fun r => r.kind == 1 && r.action == 3 && r.index.toNat == k)

/-- Whether the domain of an agent is powered off (R351, 14 R466). -/
def domainOff (s : State) (id : BitVec 16) : Bool :=
  let k := (id.toNat - 0x1000) / 8
  decide (0x1000 ≤ id.toNat ∧ id.toNat < 0xA080) && (latheOff s (k / 68) || coreRemoved s k)

def domainReset (s : State) (id : BitVec 16) : Bool := id == 1 && !s.host.linkUp

/-- state_e: 0 running, 1 in reset, 2 powered off, 3 unbound. -/
def endState (s : State) (m e : Nat) : Nat :=
  let id := boundTo s m e
  if id = 0 then 3 else if domainOff s id then 2 else if domainReset s id then 1 else 0

/-- Either end is powered off (R359). -/
def boxOff (s : State) (m : Nat) : Bool := endState s m 0 == 2 || endState s m 1 == 2

/-! ## Notification (R357) -/

def endAttention (s : State) (m e : Nat) : Bool :=
  decide (0 < ((s.box m).at e).count) || ((s.box m).at (1 - e)).aborted

/-- Notify the agent bound to end `e`, where notification is enabled; a thread sees CORE_IP.mbx. -/
def notify (s : State) (m e : Nat) : State :=
  let cfg := ctlGet s (rMbx m)
  if !cfg.getLsbD (43 + e) || !endAttention s m e then s
  else
    let id := boundTo s m e
    if id = 1 then sendMsix s (wbits cfg 32 11)
    else if 0x10 ≤ id.toNat ∧ id.toNat < 0x14 then emit s (.supIrq (id.toNat - 0x10))
    else s

/-! ## Sending and receiving -/

/-- Enqueue a whole message of an agent toward end `e`: the header, then the payload (R352). -/
def enqueueMsg (s : State) (id : BitVec 16) (m e : Nat) (payload : List (BitVec 32)) : State :=
  let x := s.box m
  let hdr : BitVec 32 := (id.setWidth 32 <<< 16) ||| BitVec.ofNat 32 payload.length
  notify (s.setBox m (x.put e { x.at e with msgs := (x.at e).msgs ++ [hdr :: payload] })) m e

def hasRoom (s : State) (m e n : Nat) : Bool := decide (((s.box m).at e).words + 1 + n ≤ 16)

/-- A send toward an end in reset sends nothing and sets aborted again; the other end is notified (R358). -/
def abortSend (s : State) (m e : Nat) : State :=
  let x := s.box m
  notify (s.setBox m (x.put e { x.at e with aborted := true })) m (1 - e)

/-- The thread's lock or nobody's. -/
def lockFree (s : State) (m : Nat) (id : BitVec 16) : Bool := (s.box m).owner == 0 || (s.box m).owner == id

/-! ## The control-register path (R355, R356) -/

def lockViol (s : State) (m : Nat) : State := s.setBox m { s.box m with lockViol := true }

def mbxPutWord (s : State) (id : BitVec 16) (m e : Nat) (v : BitVec 32) : State :=
  let x := s.box m
  if x.owner ≠ id then lockViol s m
  else
    let y := x.at e
    if 15 ≤ y.staged.length then s.setBox m (x.put e { y with full := true })
    else s.setBox m (x.put e { y with staged := y.staged ++ [v] })

def mbxCommitStaged (s : State) (id : BitVec 16) (m e : Nat) : State :=
  let x := s.box m
  if x.owner ≠ id then lockViol s m
  else
    let y := x.at e
    if endState s m e = 1 then abortSend s m e
    else if hasRoom s m e y.staged.length then
      enqueueMsg (s.setBox m (x.put e { y with staged := [] })) id m e y.staged
    else s.setBox m (x.put e { y with full := true })

/-- A read of MBX_RECVm_e. -/
def mbxGetWord (s : State) (id : BitVec 16) (m e : Nat) : BitVec 32 × State :=
  let x := s.box m
  if x.owner ≠ id then (0, lockViol s m)
  else
    let y := x.at e
    match y.part, y.msgs with
    | w :: r, _ => (w, s.setBox m (x.put e { y with part := r }))
    | [], (w :: r) :: q => (w, s.setBox m (x.put e { y with part := r, msgs := q }))
    | [], _ => (0, s.setBox m { x with underrun := true })

/-- A read of MBX_LOCKm that covers bits [15:0]. -/
def mbxReadLock (s : State) (id : BitVec 16) (m : Nat) : Word × State :=
  let x := s.box m
  if x.owner = 0 then (0, s.setBox m { x with owner := id }) else (x.owner.setWidth 64, s)

def unlock (x : Mailbox) : Mailbox :=
  { x with owner := 0, e0 := { x.e0 with part := [] }, e1 := { x.e1 with part := [] } }

/-- A write of the owner's ID frees the lock. -/
def mbxWriteLock (s : State) (m : Nat) (v : BitVec 16) : State :=
  let x := s.box m
  if x.owner ≠ 0 ∧ x.owner = v then s.setBox m (unlock x) else s

/-- MBX_STATm. -/
def mbxStat (s : State) (m : Nat) : Word :=
  let x := s.box m
  let half (e : Nat) : Word :=
    let y := x.at e
    BitVec.ofNat 64 (y.words + y.count * 2 ^ 8 + y.staged.length * 2 ^ 16 + endState s m e * 2 ^ 22) |||
      flagAt y.aborted 20 ||| flagAt y.full 21
  half 0 ||| (half 1 &&& 0xFFFFFF#64) <<< 24 |||
    (flagAt x.lockViol 48 ||| flagAt x.underrun 49)

/-- The W1C bits of MBX_STATm. -/
def mbxStatClear (s : State) (m : Nat) (v : Word) : State :=
  let x := s.box m
  let clr (y : MbxEnd) (at_ : Nat) : MbxEnd :=
    { y with aborted := y.aborted && !v.getLsbD at_, full := y.full && !v.getLsbD (at_ + 1) }
  s.setBox m { x with
    e0 := clr x.e0 20, e1 := clr x.e1 44
    lockViol := x.lockViol && !v.getLsbD 48, underrun := x.underrun && !v.getLsbD 49 }

/-! ## Reset (R358) -/

/-- A waiting instruction completes without effect: its thread goes on behind it. -/
def completeWait (s : State) (t : Tid) : State :=
  let x := s.thr t
  match x.rep with
  | some r => makeReady (s.setThr t { x with rep := some { r with held := true } }) t
  | none => makeReady (advance s t (x.pc + 8)) t

/-- Threads of the device that the state lists. -/
def allThreads (s : State) : List Tid :=
  s.threads.flatMap (fun p => (coreThreads (p.1 / 544) (p.1 / 8 % 68)).filter (fun t => tkey t == p.1))

/-- Complete every MBXSEND waiting to send toward end `e` of mailbox `m`, with nothing sent. -/
def completeSends (s : State) (m e : Nat) : State :=
  (allThreads s).foldl (fun s t =>
    match (s.thr t).st with
    | .waiting (.mbx m' e' true _) => if m' = m ∧ e' = e then completeWait s t else s
    | _ => s) s

/-- End `e` of mailbox `m` enters reset. -/
def resetEnd (s : State) (m e : Nat) : State :=
  let x := s.box m
  let s := s.setBox m (x.put e { x.at e with msgs := [], part := [], staged := [], aborted := true })
  notify (completeSends s m e) m (1 - e)

/-- The domain of the agents that satisfy `p` enters reset: their ends and their locks (R356, R358). -/
def resetDomain (s : State) (p : BitVec 16 → Bool) : State :=
  (List.range 64).foldl (fun s m =>
    let s := if (s.box m).owner != 0 && p (s.box m).owner then s.setBox m (unlock (s.box m)) else s
    let s := if boundTo s m 0 != 0 && p (boundTo s m 0) then resetEnd s m 0 else s
    if boundTo s m 1 != 0 && p (boundTo s m 1) then resetEnd s m 1 else s) s

/-- Agents of core `c` of lathe `l`. -/
def ofCore (l c : Nat) (id : BitVec 16) : Bool :=
  decide (0x1000 ≤ id.toNat ∧ id.toNat < 0xA080) && decide ((id.toNat - 0x1000) / 8 = ckey l c)

/-- Agents of lathe `l`. -/
def ofLathe (l : Nat) (id : BitVec 16) : Bool :=
  decide (0x1000 ≤ id.toNat ∧ id.toNat < 0xA080) && decide ((id.toNat - 0x1000) / 544 = l)

/-! ## MBXSEND and MBXRECV (R353, R354, R359, R360) -/

/-- Payload words from registers, two per register, low word first. -/
def payloadOf (x : Thread) (r n : Nat) : List (BitVec 32) :=
  (List.range n).map (fun k =>
    let v := x.rg (r + k / 2)
    if k % 2 = 0 then v.setWidth 32 else (v >>> 32).setWidth 32)

/-- Mailbox, end and payload count that an imm names. -/
def mbxNo (f : Fld) : Nat := nbits f.imm.toNat 0 6
def mbxEndNo (f : Fld) : Nat := nbits f.imm.toNat 6 1
def mbxWords (f : Fld) : Nat := nbits f.imm.toNat 8 4

def mbxAddr (m : Nat) : Word := BitVec.ofNat 64 (0x300000000000 + rMbx m)

/-- The checks that MBXSEND and MBXRECV make of their mailbox. XTVAL of XC_FENCED is the address of the mailbox's registers
(DESIGN CHOICE: Table 2-9 says "Address", and these instructions have none; notes/assumptions/55.md). -/
def mbxGate (s : State) (t : Tid) (m kind : Nat) (k : State → Res) : Res :=
  if (s.box m).world ≠ (s.lathe t.lathe.val).world then
    .trap xWorld (BitVec.ofNat 64 m) (noteWorld s t (mbxAddr m) kind 4)
  else if staleLathe s (some t.lathe.val) then .trap xFenced (mbxAddr m) s
  else if boxOff s m then .trap xMbxErr (BitVec.ofNat 64 m) s
  else k s

def bodyMbxsend (t : Tid) (f : Fld) : Body :=
  let n := mbxWords f
  plain (fieldsOk .z .g .z f && immBelow f 12 && !f.imm.getLsbD 7 && decide (f.s1.toNat + (n + 1) / 2 ≤ 32)) (fun s =>
    let m := mbxNo f
    let e := mbxEndNo f
    mbxGate s t m 1 (fun s =>
      if !storesDone (s.thr t) then .wait .stores s
      else if endState s m e = 1 then .ok (abortSend s m e)
      else if lockFree s m (threadId t) && hasRoom s m e n then
        .ok (enqueueMsg s (threadId t) m e (payloadOf (s.thr t) f.s1.toNat n))
      else .wait (.mbx m e true n) s))

def execMbxsend (t : Tid) (f : Fld) (s : State) : Oc := issue t 0x0E7 f (bodyMbxsend t f) s

/-- The registers that a received message is written to: the header, then eight of payload. -/
def putMessage (x : Thread) (d : Nat) (msg : List (BitVec 32)) : Thread :=
  let w (k : Nat) : BitVec 32 := msg[k]?.getD 0
  (List.range 8).foldl (fun x k => x.wg (d + 1 + k) ((w (2 * k + 2)).setWidth 64 <<< 32 ||| (w (2 * k + 1)).setWidth 64))
    (x.wg d ((w 0).setWidth 64))

def bodyMbxrecv (t : Tid) (f : Fld) : Body :=
  plain (fieldsOk .g .z .z f && immBelow f 7 && decide (1 ≤ f.d.toNat ∧ f.d.toNat ≤ 23)) (fun s =>
    let m := mbxNo f
    let e := mbxEndNo f
    mbxGate s t m 0 (fun s =>
      let x := s.box m
      match (x.at e).msgs with
      | msg :: r =>
        if lockFree s m (threadId t) then
          let s := s.setBox m (x.put e { x.at e with part := [], msgs := r })
          .ok (s.modThr t (fun y => putMessage y f.d.toNat msg))
        else .wait (.mbx m e false 0) s
      | [] => .wait (.mbx m e false 0) s))

def execMbxrecv (t : Tid) (f : Fld) (s : State) : Oc := issue t 0x0E8 f (bodyMbxrecv t f) s

/-- MAILBOX_WAIT_RELEASE: what an MBXSEND or MBXRECV of thread `t` waits for has come, and the thread issues it again. -/
def execMailboxWaitRelease (t : Tid) (s : State) : Oc :=
  match (s.thr t).st with
  | .waiting (.mbx m e send n) =>
    let ready :=
      boxOff s m || (lockFree s m (threadId t) &&
        (if send then hasRoom s m e n || endState s m e == 1 else !((s.box m).at e).msgs.isEmpty))
    .next (if ready then makeReady s t else s)
  | _ => .next s

end Sys2Proof.Machine
end

