-- ==== Sys2Proof/Machine/System.lean ====
section
/-!
DEFINITION. The system instructions (02): CSRR and CSRW with every CSR of Table 2-12, XRET, YIELD, BRK, and reserved opcodes.
-/

namespace Sys2Proof.Machine

/-! ## The CSR file (02 R103, Table 2-12) -/

/-- A CSR number that Table 2-12 lists. -/
def csrListed (n : Nat) : Bool :=
  n < 4 || n == 0x10 || n == 0x11 || (0x100 ≤ n && n ≤ 0x10E) || (0x140 ≤ n && n ≤ 0x16F)

/-- CORE_ID of a thread. -/
def coreIdOf (s : State) (t : Tid) : Word :=
  BitVec.ofNat 64 (worldBit (s.lathe t.lathe.val).world * 2 ^ 24 + t.lathe.val * 2 ^ 16 + t.core.val * 2 ^ 8 + t.thread.val)

def Thread.xstat (x : Thread) : Word :=
  BitVec.ofNat 64 (levelCode x.level + levelCode x.ppl * 16) |||
    (flagAt x.nest 7 ||| flagAt x.tl 6 ||| flagAt x.pie 3 ||| flagAt x.ie 2)

def coreIp (s : State) (t : Tid) : Word :=
  let x := s.thr t
  flagAt x.ipPre 2 ||| flagAt (mbxAttention s (threadId t)) 1 ||| flagAt (timerDue s x) 0

/-- The value of a CSR, and the state after its read (a read of CORE_TIME takes a free lag, 01 R29). -/
def csrRead (s : State) (t : Tid) (n : Nat) : Word × State :=
  let x := s.thr t
  let w (k : Nat) : Window := mget x.win k {}
  match n with
  | 0x000 => (coreIdOf s t, s)
  | 0x001 => readTime s (threadId t).toNat
  | 0x002 => (x.fpcsr, s)
  | 0x003 => (flagAt x.tk16 0, s)
  | 0x010 => (x.vprog.setWidth 64, s)
  | 0x011 => (x.tfault, s)
  | 0x100 => (x.xstat, s)
  | 0x101 => ((s.core t.lathe.val t.core.val).xtvec, s)
  | 0x102 => (x.xepc, s)
  | 0x103 => (x.xcause, s)
  | 0x104 => (x.xtval, s)
  | 0x105 => (x.xinst, s)
  | 0x106 => (x.xscratch, s)
  | 0x107 => (x.xrep, s)
  | 0x108 => (x.xdlyc, s)
  | 0x109 => (x.xdly0, s)
  | 0x10A => (x.xdly1, s)
  | 0x10B => (4 ||| (flagAt x.ieMbx 1 ||| flagAt x.ieTim 0), s)
  | 0x10C => (coreIp s t, s)
  | 0x10D => (x.tcmp, s)
  | 0x10E => (x.coreTask, s)
  | _ =>
    if 0x140 ≤ n ∧ n < 0x150 then ((w (n - 0x140)).base.setWidth 64 <<< 6, s)
    else if 0x150 ≤ n ∧ n < 0x160 then ((w (n - 0x150)).limit.setWidth 64 <<< 6 ||| 0x3F, s)
    else if 0x160 ≤ n ∧ n < 0x170 then ((w (n - 0x160)).attr.setWidth 64, s)
    else (0, s)

/-- CORE_FPCSR after a write: W1C flags, and rm, whose value 3 is reserved (R13). -/
def fpcsrWrite (old v : Word) : Word :=
  let fl := old &&& 0x3E0 &&& ~~~v
  fl ||| (if v &&& 3 = 3 then old &&& 3 else v &&& 3)

/-- The level that an XSTAT.ppl value names on a lathe of world `w`; a value that R88 does not allow is reserved. -/
def pplOf (w : World) (c : Nat) : Option Level :=
  match c, w with
  | 0, _ => some .u
  | 1, .ns => some .k
  | 2, .s => some .s
  | _, _ => none

/-- XDLYC after a write: cnt values 0 and 3 are reserved. -/
def dlycWrite (old v : Word) : Word :=
  let cnt (at_ : Nat) (x : Word) : Word :=
    let c := wbits v at_ 2
    if c = 1 ∨ c = 2 then wput x at_ 2 (BitVec.ofNat 64 c) else wput x at_ 2 (old >>> at_)
  cnt 5 (cnt 13 (v &&& 0xFFFF))

/-- XREP after a write: remaining above 4,096 is reserved. -/
def xrepWrite (old v : Word) : Word :=
  let r := if wbits v 0 13 ≤ 4096 then v &&& 0x1FFF else old &&& 0x1FFF
  (v &&& 0x8000) ||| r

/-- Write a per-thread CSR; read-only CSRs and fields keep their values (R89, R11). -/
def Thread.csrWrite (x : Thread) (w : World) (now : Word) (n : Nat) (v : Word) : Thread :=
  match n with
  | 0x002 => { x with fpcsr := fpcsrWrite x.fpcsr v }
  | 0x010 => { x with vprog := v.setWidth 5 }
  | 0x100 =>
    { x with nest := v.getLsbD 7, ppl := (pplOf w (wbits v 4 2)).getD x.ppl, pie := v.getLsbD 3, ie := v.getLsbD 2 }
  | 0x102 => { x with xepc := v &&& ~~~7 }
  | 0x103 => { x with xcause := v }
  | 0x104 => { x with xtval := v }
  | 0x105 => { x with xinst := v }
  | 0x106 => { x with xscratch := v }
  | 0x107 => { x with xrep := xrepWrite x.xrep v }
  | 0x108 => { x with xdlyc := dlycWrite x.xdlyc v }
  | 0x109 => { x with xdly0 := v }
  | 0x10A => { x with xdly1 := v }
  | 0x10B => { x with ieMbx := v.getLsbD 1, ieTim := v.getLsbD 0 }
  | 0x10C => { x with ipPre := x.ipPre && !v.getLsbD 2 }
  | 0x10D => { x with tcmp := v, ipTim := decide (v.toNat ≤ now.toNat) }
  | 0x10E => { x with coreTask := v }
  | _ =>
    if 0x140 ≤ n ∧ n < 0x150 then
      { x with win := mmod x.win (n - 0x140) {} (fun k => { k with base := (v >>> 6).setWidth 58 }) }
    else if 0x150 ≤ n ∧ n < 0x160 then
      { x with win := mmod x.win (n - 0x150) {} (fun k => { k with limit := (v >>> 6).setWidth 58 }) }
    else if 0x160 ≤ n ∧ n < 0x170 then
      { x with win := mmod x.win (n - 0x160) {} (fun k => { k with attr := v.setWidth 4 }) }
    else x

def csrWrite (s : State) (t : Tid) (n : Nat) (v : Word) : State :=
  if n = 0x101 then s.modCore t.lathe.val t.core.val (fun c => { c with xtvec := v &&& ~~~0xFFF })
  else s.modThr t (fun x => x.csrWrite (s.lathe t.lathe.val).world s.plat.devTime n v)

/-! ## CSRR and CSRW (R89, R105) -/

def csrNo (f : Fld) : Nat := nbits f.imm.toNat 0 12

/-- The checks of a CSR access: fields, the number, the level. -/
def csrCheck (s : State) (t : Tid) (legal : Bool) (n : Nat) : Option (Nat × Word) :=
  if !legal then some (xIllegal, 0)
  else if !csrListed n then some (xIllegal, BitVec.ofNat 64 n)
  else if (s.thr t).level = .u ∧ 0x100 ≤ n then some (xPriv, BitVec.ofNat 64 n)
  else none

def bodyCsrr (t : Tid) (f : Fld) : Body :=
  { always := fun s => csrCheck s t (fieldsOk .g .z .z f && immBelow f 12) (csrNo f)
    act := fun s =>
      if csrNo f = 2 ∧ hasQueued s t then .wait .queues s
      else
        let r := csrRead s t (csrNo f)
        .ok (r.2.modThr t (fun x => x.wg f.d.toNat r.1)) }

def execCsrr (t : Tid) (f : Fld) (s : State) : Oc := issue t 0x0E0 f (bodyCsrr t f) s

def bodyCsrw (t : Tid) (f : Fld) : Body :=
  { always := fun s => csrCheck s t (fieldsOk .z .g .z f && immBelow f 12) (csrNo f)
    act := fun s =>
      if csrNo f = 2 ∧ hasQueued s t then .wait .queues s
      else .ok (csrWrite s t (csrNo f) ((s.thr t).rg f.s1.toNat)) }

def execCsrw (t : Tid) (f : Fld) (s : State) : Oc := issue t 0x0E1 f (bodyCsrw t f) s

/-- CORE_TCMP_WRITE: the CSRW whose number is 0x10D. -/
def execCoreTcmpWrite (t : Tid) (f : Fld) (s : State) : Oc :=
  if csrNo f = 0x10D then issue t 0x0E1 f (bodyCsrw t f) s else .next s

/-! ## XRET (R100, R87; 14 R463) -/

/-- A valid slot of XDLYC as a pending load again. Its count names instructions issued after XRET. -/
def dlySlot (x : Thread) (at_ : Nat) (v : Word) : List PendLoad :=
  if x.xdlyc.getLsbD (at_ + 7) then
    [{ dst := wbits x.xdlyc at_ 5, cnt := wbits x.xdlyc (at_ + 5) 2, addr := 0, size := 8, signed := false, amo := none
       fwd := [], val := some v, tag := none, pc := 0, inst := 0 }]
  else []

/-- The thread after XRET, at the runtime level with every pending load's data arrived. -/
def Thread.xret (x : Thread) : Thread :=
  let y := x.loads.foldl (fun y p => y.wg p.dst (p.val.getD 0)) x
  let valid := x.xrep.getLsbD 15
  { y with
    level := x.ppl, ie := x.pie, tl := false, nest := false
    loads := x.loads.filter (fun p => p.dst == 0 && p.val.isNone) ++ (dlySlot x 0 x.xdly0 ++ dlySlot x 8 x.xdly1)
    resume := if valid && wbits x.xrep 0 13 != 0 then some (wbits x.xrep 0 13) else none
    xrep := if valid then x.xrep &&& 0x7FFF else x.xrep }

/-- Where XRET goes on: at XEPC, or behind a repeat with no repetition left. -/
def Thread.xretPc (x : Thread) : Word :=
  if x.xrep.getLsbD 15 && wbits x.xrep 0 13 == 0 then x.xepc + 16 else x.xepc

/-- XRET from the preempt handler is where the task is abandoned (14 R463). -/
def preemptEnds (x : Thread) : Bool := x.preemptAt.isSome && x.xcause == 0x8000000000000003#64

def bodyXret (t : Tid) (f : Fld) : Body :=
  { always := fun s =>
      if !(fieldsOk .z .z .z f && immBelow f 0) then some (xIllegal, 0)
      else if (s.thr t).level = .u then some (xPriv, 0) else none
    act := fun s =>
      let x := s.thr t
      if !allArrived x then .wait (.loadData true) s
      else
        let s1 := s.setThr t x.xret
        .ret (if preemptEnds x then preempted s1 t else s1) x.xretPc }

def execXret (t : Tid) (f : Fld) (s : State) : Oc := issue t 0x0E2 f (bodyXret t f) s

/-! ## YIELD, BRK, reserved opcodes -/

def bodyYield (_t : Tid) (f : Fld) : Body := plain (fieldsOk .z .z .z f && immBelow f 0) (fun s => .yield s)

def execYieldOp (t : Tid) (f : Fld) (s : State) : Oc := issue t 0x0E3 f (bodyYield t f) s

def bodyBrk (_t : Tid) (f : Fld) : Body :=
  plain (fieldsOk .z .z .z f) (fun s => .trap xBreak (f.imm.setWidth 64) s)

def execBrk (t : Tid) (f : Fld) (s : State) : Oc := issue t 0x0E4 f (bodyBrk t f) s

/-- The assigned opcodes (02 Table 2-6, 03 Table 3-2 and Table 3-5, 05 Table 5-3, 07 Table 7-1), as ranges. -/
def assignedOps : List (Nat × Nat) :=
  [(0x000, 0x012), (0x020, 0x020), (0x022, 0x028), (0x030, 0x031), (0x040, 0x045), (0x048, 0x04D), (0x050, 0x056),
   (0x060, 0x062), (0x080, 0x086), (0x088, 0x08B), (0x090, 0x095), (0x0A0, 0x0A0), (0x0C0, 0x0CA), (0x0D0, 0x0D3),
   (0x0E0, 0x0E8), (0x0F0, 0x0F1), (0x100, 0x10C), (0x110, 0x115), (0x118, 0x118), (0x120, 0x121), (0x128, 0x128),
   (0x12A, 0x12A), (0x130, 0x131), (0x134, 0x135), (0x138, 0x13A), (0x180, 0x185), (0x190, 0x191), (0x198, 0x19A),
   (0x1C0, 0x1C1), (0x1C8, 0x1CB)]

def opAssigned (op : Nat) : Bool := assignedOps.any (fun r => decide (r.1 ≤ op) && decide (op ≤ r.2))

def bodyReserved : Body := { always := fun _ => some (xReserved, 0), act := fun s => .ok s }

def execReservedOpcode (t : Tid) (op : BitVec 9) (f : Fld) (s : State) : Oc :=
  if opAssigned op.toNat then .next s else issue t op.toNat f bodyReserved s

end Sys2Proof.Machine
end

