-- ==== Sys2Proof/Machine/Store.lean ====
section
/-!
DEFINITION. The persistent store (17): the journal with its placement rule, compaction and recovery, the stop log, the repair
map, and the boot selector. A half is held as its valid entries in order; a torn tail is a flag.
-/

namespace Sys2Proof.Machine

/-! ## Entries and their placement (R538, R539) -/

def pad16 (n : Nat) : Nat := (n + 15) / 16 * 16

/-- Bytes of an entry with a payload of `n` bytes. -/
def entrySize (n : Nat) : Nat := 0x20 + pad16 n + 16

/-- Where an entry of size `n` starts when the next free byte is `p`. -/
def entryStart (p n : Nat) : Nat :=
  let p := (p + 63) / 64 * 64
  if p % 4096 + n ≤ 4096 then p else (p + 4095) / 4096 * 4096

/-- The first byte behind the entries of a half. -/
def halfEnd (h : Half) : Nat := h.entries.foldl (fun p e => entryStart p (entrySize e.payload.length) + entrySize e.payload.length) 0

/-- The tag of an entry. -/
def entryTag (e : JEntry) : List Byte :=
  shake256 (leBytes 4 0x5A4A4E01 ++ leBytes 2 e.type.toNat ++ leBytes 2 e.payload.length ++ leBytes 8 e.seq.toNat ++
    List.replicate 16 0 ++ e.payload) 16

def jConfig : BitVec 16 := 1
def jRepair : BitVec 16 := 2
def jFault : BitVec 16 := 3
def jCommit : BitVec 16 := 4

/-! ## Payloads -/

def repairBytes (r : RepairItem) : List Byte :=
  [r.kind, r.action] ++ leBytes 2 r.index.toNat ++ leBytes 4 r.a.toNat ++ leBytes 8 r.b.toNat

def repairOf (d : List Byte) : RepairItem :=
  { kind := d.getD 0 0, action := d.getD 1 0, index := BitVec.ofNat 16 (leAt d 2 2), a := BitVec.ofNat 32 (leAt d 4 4)
    b := BitVec.ofNat 64 (leAt d 8 8) }

/-- A fault record as 64 bytes (14 Table 14-6). -/
def recBytes (r : FaultRec) : List Byte :=
  leBytes 8 r.seq.toNat ++ leBytes 8 r.time.toNat ++ leBytes 8 r.parent.toNat ++ [BitVec.ofNat 8 r.cls, r.flags] ++
    leBytes 2 r.cause.toNat ++ [r.kind, 0] ++ leBytes 2 r.index.toNat ++ leBytes 2 r.chainEpoch.toNat ++
    leBytes 2 r.latheEpoch.toNat ++ leBytes 4 r.count ++ leBytes 8 r.addr.toNat ++ leBytes 8 r.task.toNat ++
    leBytes 4 r.detail.toNat ++ leBytes 4 r.duration

def recOf (d : List Byte) : FaultRec :=
  { seq := BitVec.ofNat 64 (leAt d 0 8), time := BitVec.ofNat 64 (leAt d 8 8), parent := BitVec.ofNat 64 (leAt d 16 8)
    cls := leAt d 24 1, flags := d.getD 25 0, cause := BitVec.ofNat 16 (leAt d 26 2), kind := d.getD 28 0
    index := BitVec.ofNat 16 (leAt d 30 2), chainEpoch := BitVec.ofNat 16 (leAt d 32 2)
    latheEpoch := BitVec.ofNat 16 (leAt d 34 2), count := leAt d 36 4, addr := BitVec.ofNat 64 (leAt d 40 8)
    task := BitVec.ofNat 64 (leAt d 48 8), detail := BitVec.ofNat 32 (leAt d 56 4), duration := leAt d 60 4 }

def configBytes (item : Nat) (v : List Byte) : List Byte := leBytes 2 item ++ [0, 0] ++ v

/-! ## What an entry changes (Table 17-5) -/

/-- Replay of one entry. -/
def Store.replay (x : Store) (type : BitVec 16) (d : List Byte) : Store :=
  if type = jConfig then { x with config := mset x.config (leAt d 0 2) (d.drop 4) }
  else if type = jRepair then { x with repair := x.repair ++ [repairOf d] }
  else if type = jFault then
    let l := x.summary ++ [recOf d]
    { x with summary := l.drop (l.length - 64) }
  else x

def Store.activeHalf (x : Store) : Half := if x.active then x.half1 else x.half0

def Store.setHalf (x : Store) (which : Bool) (h : Half) : Store := if which then { x with half1 := h } else { x with half0 := h }

/-- The next append of the active half would begin at or beyond 48 MiB (R541). -/
def Store.full (x : Store) (n : Nat) : Bool := decide (48 * 2 ^ 20 ≤ entryStart (halfEnd x.activeHalf) (entrySize n))

/-- Program one entry into half `which` with the next sequence number. -/
def Store.program (x : Store) (which : Bool) (type : BitVec 16) (d : List Byte) : Store :=
  let h := if which then x.half1 else x.half0
  let x := x.setHalf which { h with entries := h.entries ++ [⟨type, x.nextSeq, d⟩], erased := false }
  { x with nextSeq := x.nextSeq + 1 }

/-- Entries wait: until step 5 of a compaction, and behind a torn tail (R541, R543). -/
def Store.busy (x : Store) : Bool :=
  (x.compact.isSome && x.compact != some .eraseOld) || !x.jqueue.isEmpty || x.activeHalf.torn

/-- Append a change to the journal; while a compaction runs or is due the entry waits. The repair map, the configuration and the fault
summary that firmware works with have the change at once. -/
def Store.append (x : Store) (type : BitVec 16) (d : List Byte) : Store :=
  let x := x.replay type d
  if x.busy || x.full d.length then { x with jqueue := x.jqueue ++ [(type, d)] }
  else x.program x.active type d

def journal (s : State) (type : BitVec 16) (d : List Byte) : State := { s with store := s.store.append type d }

/-- Every entry is written (R539). -/
def journalIdle (s : State) : Bool := s.store.jqueue.isEmpty

def addRepair (s : State) (r : RepairItem) : State := journal s jRepair (repairBytes r)

/-! ## Compaction (R541, Table 17-7) -/

/-- The COMMIT at position `k` of a half has its snapshot directly before it, with consecutive seq and its digest. -/
def commitOk (h : Half) (k : Nat) : Bool :=
  match h.entries[k]? with
  | some c =>
    let n := leAt c.payload 8 4
    let es := (h.entries.take k).drop (k - n)
    c.type == jCommit && decide (n ≤ k) && decide (leAt c.payload 0 8 + n = c.seq.toNat) &&
      (indexed es).all (fun p => p.2.seq.toNat == leAt c.payload 0 8 + p.1) &&
      (c.payload.drop 0x18).take 16 == shake256 (es.flatMap entryTag) 16
  | none => false

/-- The last COMMIT of a half that counts. -/
def lastGood (h : Half) : Option Nat := ((List.range h.entries.length).reverse).find? (fun k => commitOk h k)

/-- The entries of a half that replay applies: the snapshot of its last COMMIT, and every entry after that. -/
def replayed (h : Half) : List JEntry :=
  match lastGood h with
  | some k => (h.entries.take k).drop (k - leAt (((h.entries[k]?).map (fun c => c.payload)).getD []) 8 4) ++ h.entries.drop (k + 1)
  | none => h.entries

/-- The configuration, the repair map and the fault summary that the entries of the active half give: what is written. -/
def Store.written (x : Store) : Store :=
  (replayed x.activeHalf).foldl (fun x e => x.replay e.type e.payload) { x with config := [], summary := [], repair := x.factory }

/-- The entries of a snapshot, of the state that the last entry written left: one CONFIG per item, the journal's repair items, the
fault summary. -/
def Store.snapshot (x : Store) : List (BitVec 16 × List Byte) :=
  let x := x.written
  x.config.map (fun p => (jConfig, configBytes p.1 p.2)) ++
    (x.repair.drop x.factory.length).map (fun r => (jRepair, repairBytes r)) ++ x.summary.map (fun r => (jFault, recBytes r))

/-- The latest COMMIT of a half. -/
def lastCommit (h : Half) : Word := ((h.entries.filter (fun e => e.type == jCommit)).getLast?.map (fun e => e.seq)).getD 0

/-- COMMIT over the snapshot entries of half `which`, which hold the last `n` sequence numbers (Table 17-6). -/
def Store.commit (x : Store) (which : Bool) (n : Nat) (prev fltSeq : Word) : Store :=
  let h := if which then x.half1 else x.half0
  let es := h.entries.drop (h.entries.length - n)
  let digest := shake256 (es.flatMap entryTag) 16
  x.program which jCommit (leBytes 8 (x.nextSeq.toNat - n) ++ leBytes 4 n ++ leBytes 4 0 ++ leBytes 8 prev.toNat ++ digest ++
    leBytes 8 fltSeq.toNat)

/-- Append the entries that waited. -/
def Store.release (x : Store) : Store :=
  let q := x.jqueue
  q.foldl (fun x e => x.program x.active e.1 e.2) { x with jqueue := [] }

/-- COMPACTION: it starts when the active half is full or a torn tail was found at start (R541, R543). -/
def execCompaction (s : State) : Oc :=
  let x := s.store
  let due := x.compact.isNone && (s.plat.compactDue || !x.jqueue.isEmpty)
  let other := if x.active then x.half0 else x.half1
  .next (if due then
      { s with
        plat := { s.plat with compactDue := false }
        store := { x with compact := some (if other.erased then .snapshot else .erase) } }
    else s)

/-- COMPACTION_STEP_DONE: the step under way ends and the next begins. -/
def execCompactionStepDone (s : State) : Oc :=
  let x := s.store
  let other := !x.active
  .next (match x.compact with
    | none => s
    | some .erase => { s with store := { x.setHalf other {} with compact := some .snapshot } }
    | some .snapshot =>
      { s with store := { x.snapshot.foldl (fun x e => x.program other e.1 e.2) x with compact := some .commit } }
    | some .commit =>
      let y := x.commit other x.snapshot.length (lastCommit x.activeHalf) (ctlGet s rFltSeq)
      { s with store := { y with active := other, compact := some .eraseOld }.release }
    | some .eraseOld => { s with store := { x.setHalf other {} with compact := none } })

/-! ## Recovery at start (R540, R542 to R544) -/

def commitSeq (h : Half) : Option Nat :=
  match lastGood h with
  | some k => (h.entries[k]?).map (fun e => e.seq.toNat)
  | none => none

/-- The half that wins, if any. -/
def winner (x : Store) : Option Bool :=
  match commitSeq x.half0, commitSeq x.half1 with
  | none, none => none
  | some _, none => some false
  | none, some _ => some true
  | some a, some b => some (decide (a < b))

/-- The state of the store and FLT_SEQ after recovery, and what DEV_STORE reports of it: journal_lost, torn. -/
def Store.recover (x : Store) : Store × Word × Bool × Bool :=
  let hw := highWater x.stops
  let x := { x with jqueue := [], compact := none, config := [], summary := [], repair := x.factory }
  match winner x with
  | some w =>
    let h := if w then x.half1 else x.half0
    let k := (lastGood h).getD 0
    let c := (h.entries[k]?).getD ⟨jCommit, 0, []⟩
    let es := replayed h
    let y := es.foldl (fun x e => x.replay e.type e.payload) x
    let top := es.foldl (fun m e => if e.type = jFault then max m (leAt e.payload 0 8 + 1) else m) 0
    let last := h.entries.foldl (fun m e => max m (e.seq.toNat + 1)) 0
    ({ y with active := w, nextSeq := BitVec.ofNat 64 last }, BitVec.ofNat 64 (max (leAt c.payload 0x28 8) (max top hw)), false,
      h.torn)
  | none =>
    let y := { x with half0 := {}, half1 := {}, active := false, nextSeq := 1 }
    (y.commit false 0 0 (BitVec.ofNat 64 hw), BitVec.ofNat 64 hw, true, false)

/-! ## The stop log (R537) -/

/-- The number of the last stop unit logged: configuration item 0x0300. -/
def Store.lastLogged (x : Store) : Nat := leAt (mget x.config 0x300 []) 0 8

/-- The next sequence number of a stop unit: above those in the log and those logged. -/
def nextStop (x : Store) : Word :=
  x.stops.foldl (fun m u => match u with
    | .stop q _ _ _ _ => if m.toNat ≤ q.toNat then q + 1 else m
    | .highWater _ => m) (BitVec.ofNat 64 (x.lastLogged + 1))

def writeStop (s : State) (cause : BitVec 16) (fail index : Nat) : State :=
  let u := StopUnit.stop (nextStop s.store) cause fail index s.plat.devTime
  { s with store := { s.store with stops := putStop s.store.stops u } }

/-! ## The boot selector (R536) -/

/-- The active slot: that of the valid unit with the higher sequence number; slot A when there is none. -/
def activeSlot (x : Store) : Bool :=
  match x.sel0, x.sel1 with
  | none, none => false
  | some a, none => a.1
  | none, some b => b.1
  | some a, some b => if a.2.toNat < b.2.toNat then b.1 else a.1

/-- Make slot `slot` active. -/
def selectSlot (x : Store) (slot : Bool) : Store :=
  match x.sel0, x.sel1 with
  | none, none => { x with sel0 := some (slot, 1) }
  | none, some b => { x with sel0 := some (slot, b.2 + 1) }
  | some a, none => { x with sel1 := some (slot, a.2 + 1) }
  | some a, some b => if a.2.toNat < b.2.toNat then { x with sel0 := some (slot, b.2 + 1) } else { x with sel1 := some (slot, a.2 + 1) }

def slotImage (x : Store) (slot : Bool) : List (Nat × Byte) := if slot then x.imgB else x.imgA

def setSlotImage (x : Store) (slot : Bool) (m : List (Nat × Byte)) : Store :=
  if slot then { x with imgB := m } else { x with imgA := m }

/-! ## DEV_STORE -/

def devStore (s : State) : Word :=
  let used := halfEnd s.store.activeHalf * 100 / (64 * 2 ^ 20)
  (ctlGet s rStore &&& 0xE) |||
    (BitVec.ofNat 64 used <<< 40 ||| flagAt s.store.compact.isSome 32 ||| flagAt s.store.active 16)

end Sys2Proof.Machine
end

