-- ==== Sys2Proof/Machine/MemSys.lean ====
section
/-!
DEFINITION. The memory system's own commands (08): RAT writes, the memory mode, invalidation of remote copies, scrubbing, row
retirement, bank queues, and the zeroing of MRDIMM.
-/

namespace Sys2Proof.Machine

/-! ## Register writes that obey a world rule (R307, 15 R489) -/

/-- Log a write that would change a field its world may not write. -/
def noteField (s : State) (a : Agent) (off bytes : Nat) : State :=
  logVio s (BitVec.ofNat 64 (0x300000000000 + off)) (agentId a) 0 6 bytes

/-- A written RAT value on its way to the lathes and bench dies; the write of a thread is incomplete until then (R308, R313). -/
def ratWait (s : State) (a : Agent) (k : Nat) (v : Word) : State :=
  match a with
  | .thread t =>
    let s := s.modThr t (fun x => { x with ratWrites := x.ratWrites + 1 })
    { s with mem := { s.mem with ratPend := s.mem.ratPend ++ [(k, v, some t)] } }
  | _ => { s with mem := { s.mem with ratPend := s.mem.ratPend ++ [(k, v, none)] } }

/-- A write to RAT_BASE or RAT_LIM: which bits take effect, by the world bit of the entry's RAT_BASE. -/
def ratWriteReg (s : State) (a : Agent) (off bytes : Nat) (v mask : Word) : State :=
  let w := agentWorld s a
  let i := (off - 0x701000) / 16
  let lim := (off - 0x701000) % 16 == 8
  let base := ctlGet s (rRatBase i)
  let fields : Word := if lim then 0xFFFFFFFFF001#64 else 0xFFFFFFFFF7F1#64
  let allowed : Word :=
    if w = .s then fields else if base.getLsbD 4 then 0 else fields &&& ~~~(if lim then 0 else 0x10)
  let old := ctlGet s off
  let keepPol : Word := if !lim && wbits v 5 2 == 3 then 0x60 else 0
  let set := allowed &&& mask &&& ~~~keepPol
  let new := (old &&& ~~~set) ||| (v &&& set)
  let s := if (old ^^^ v) &&& fields &&& ~~~allowed &&& mask ≠ 0 then noteField s a off bytes else s
  let s := ctlSet s off new
  ratWait s a (2 * i + (if lim then 1 else 0)) new

/-- A write to MEM_RATDEF. -/
def ratdefWriteReg (s : State) (a : Agent) (bytes : Nat) (v mask : Word) : State :=
  let old := ctlGet s rRatdef
  let fields : Word := 0x7F0
  let set := (if agentWorld s a = .s then fields else 0) &&& mask &&& ~~~(if wbits v 5 2 = 3 then 0x60 else 0)
  let new := (old &&& ~~~set) ||| (v &&& set)
  let s := if agentWorld s a = .ns ∧ (old ^^^ v) &&& fields &&& mask ≠ 0 then noteField s a rRatdef bytes else s
  let s := ctlSet s rRatdef new
  ratWait s a 512 new

/-- RAT_WRITE_COMPLETE: every lathe and bench die holds the oldest written value (R308). -/
def execRatWriteComplete (s : State) : Oc :=
  match s.mem.ratPend with
  | (k, v, w) :: r =>
    let s := { s with mem := { s.mem with rat := mset s.mem.rat k v, ratPend := r } }
    .next (match w with
      | some t => wakeIf (s.modThr t (fun x => { x with ratWrites := x.ratWrites - 1 })) t
      | none => s)
  | [] => .next s

/-! ## The memory mode (R311) -/

/-- The value in force, as MEM_MODE codes it. -/
def modeApplied (s : State) : Nat := s.mem.lmCache * 16 + (if s.mem.modeE then 1 else 0)

def memModeWriteReg (s : State) (v mask : Word) : State :=
  let old := ctlGet s rMemMode
  let m := mask &&& 0xF1 &&& ~~~(if 12 < wbits v 4 4 then 0xF0 else 0)
  let new := (old &&& 0xF1 &&& ~~~m) ||| (v &&& m)
  if old.getLsbD 8 then ctlSet s rMemMode (new ||| 0x100)
  else if new.toNat = modeApplied s then s
  else ctlSet s rMemMode (new ||| 0x100)

/-- Who may set the memory mode: a thread at level K or S, or a supervisor (00 Table 0-3). -/
def mayMode (s : State) : Agent → Bool
  | .host => false
  | .sup _ => true
  | .thread t => (s.thr t).level != .u

/-- A task is resident on some lathe. -/
def anyResident (s : State) : Bool := s.threads.any (fun p => p.2.task.isSome)

/-- Bytes of every LM that become scratchpad read as 0. -/
def clearNewScratch (s : State) (lo hi : Nat) : State :=
  (List.range 68).foldl (fun s n => memClear s (lmBase n + lo) (hi - lo)) s

def execMemModeApply (s : State) : Oc :=
  let r := ctlGet s rMemMode
  if r.getLsbD 8 && !anyResident s then
    let old := lmScratch s
    let s := dropRemote (lmFlush s)
    let s := if r.getLsbD 0 then s else
        { s with caches := { s.caches with die := dropAll (fun l => inMrd (l * 64)) s.caches.die } }
    let s := { s with mem := { s.mem with modeE := r.getLsbD 0, lmCache := wbits r 4 4 } }
    let s := if old < lmScratch s then clearNewScratch s old (lmScratch s) else s
    .next (ctlSet s rMemMode (r &&& 0xF1))
  else .next s

/-! ## Invalidation of remote copies (R316) -/

def rinvGo (s : State) : State := { s with mem := { s.mem with rinvBusy := true } }

def execInvalidationComplete (s : State) : Oc :=
  .next (if s.mem.rinvBusy then dropRemote { s with mem := { s.mem with rinvBusy := false } } else s)

/-! ## Scrubbing and row retirement (R318, R321 to R323) -/

/-- The spare rows of a memory: 1,024 for an HBM4 stack, 256 for an MRDIMM channel. -/
def spareRows (kind : Byte) : Nat := if kind = 4 then 1024 else 256

def sparesUsed (s : State) (kind : Byte) (index : BitVec 16) : Nat :=
  (s.mem.rows.filter (fun r => r.kind == kind && r.index == index && r.spare.isSome)).length

/-- The record of a row, or a fresh one. -/
def rowOf (s : State) (kind : Byte) (index : BitVec 16) (row : Word) : DramRow :=
  (s.mem.rows.find? (fun r => r.kind == kind && r.index == index && r.row == row)).getD ⟨kind, index, row, [], none⟩

def setRow (s : State) (x : DramRow) : State :=
  let rows := s.mem.rows.filter (fun r => !(r.kind == x.kind && r.index == x.index && r.row == x.row))
  { s with mem := { s.mem with rows := rows ++ [x] } }

/-- Positions of a line that the code of a memory corrects (R322): 4 in HBM, 8 in an MRDIMM, and 1 bit of a SECDED word. -/
def correctable (kind : Byte) : Nat := if kind = 4 then 4 else if kind = 5 then 8 else 1

/-- A corrected error in a DRAM row: the third within 24 h, or one of more than 2 positions, retires the row. Rows that qualify
while another is copied are copied after it. -/
def rowCorrected (s : State) (e : ScrubEv) (positions : Nat) : State :=
  let row := Config.dramRow e.kind.toNat e.index.toNat e.addr.toNat
  let x := rowOf s e.kind e.index row
  let times := (x.times.filter (fun t => decide (s.plat.devTime.toNat < t.toNat + 24 * nsHour))) ++ [s.plat.devTime]
  let s := setRow s { x with times := times }
  let due := s.mem.rowCopy.filter (fun c => c.1 == e.kind && c.2.1 == e.index)
  if x.spare.isNone && !due.any (fun c => c.2.2 == row) && (decide (3 ≤ times.length) || decide (2 < positions)) then
    if sparesUsed s e.kind e.index + due.length < spareRows e.kind then
      { s with mem := { s.mem with rowCopy := s.mem.rowCopy ++ [(e.kind, e.index, row)] } }
    else detect s ⟨cSparesOut, e.kind, e.index, e.addr, none, 0, false⟩
  else s

/-- SCRUB: a correctable error is corrected in place; an uncorrectable one invalidates a clean line and poisons a sole copy
(R321). -/
def execScrub (e : ScrubEv) (s : State) : Oc :=
  .next (match e.finding with
    | .clean => s
    | .corrected n =>
      if correctable e.kind < n then s
      else
        let s := detect s ⟨cEccSingle, e.kind, e.index, e.addr, none, 0, false⟩
        if e.kind = 4 ∨ e.kind = 5 then rowCorrected s e n else s
    | .uncorrectableClean =>
      detect (dropLine s e.kind.toNat e.index.toNat e.addr) ⟨cCleanReread, e.kind, e.index, e.addr, none, 0, false⟩
    | .uncorrectableSole => detect (setPoison s (localOf e.addr)) ⟨cPoisonSet, e.kind, e.index, e.addr, none, 0, false⟩)

/-- The unit kind and index of the memory that holds a local address (R300, R304). -/
def memUnit (s : State) (a : Nat) : Option (Nat × Nat) :=
  if a < 0x9000000000 then some (4, 2 * (a / 0x2400000000) + a % 0x2400000000 / 256 % 2)
  else if 0x100000000000 ≤ a ∧ a < 0x130000000000 then (mrdChannel s (a - 0x100000000000)).map (fun c => (5, c))
  else none

/-- The islands that an access to a local address passes (01 Table 1-3). -/
def memIslands (s : State) (a : Nat) : List Island :=
  match lmOf a with
  | some l => if h : l < 68 then [.lathe ⟨l, h⟩] else []
  | none =>
    match memUnit s a with
    | some (k, i) =>
      (if h : homeDie a < 4 then [.fabric ⟨homeDie a, h⟩] else []) ++
        (if k = 4 then (if h : i < 8 then [.hbm ⟨i, h⟩] else []) else (if h : i < 12 then [.mrdimm ⟨i, h⟩] else []))
    | none => []

/-- Accesses to a row wait while it is copied (R323), and those to an island while its clock is held (01 R21). -/
def memBusy (s : State) (a : Nat) : Bool :=
  (!s.plat.heldClocks.isEmpty && (memIslands s a).any (fun i => !clockOn s i)) ||
    (!s.mem.rowCopy.isEmpty &&
      match memUnit s a with
      | some u =>
        s.mem.rowCopy.any (fun c => c.1.toNat == u.1 && c.2.1.toNat == u.2 && Config.dramRow u.1 u.2 a == c.2.2)
      | none => false)

/-- A run of bytes of which some line waits so. -/
def runBusy (s : State) (a n : Nat) : Bool :=
  (!s.mem.rowCopy.isEmpty || !s.plat.heldClocks.isEmpty) && (runLines a n).any (memBusy s)

/-- The threads that wait for a row or a memory island issue again. -/
def wakeMemory (s : State) : State :=
  (allThreads s).foldl (fun s t => if (s.thr t).st = .waiting .memory then makeReady s t else s) s

/-- The row whose copy ends goes to a spare row; the threads that waited issue again. -/
def rowCopied (s : State) : State :=
  match s.mem.rowCopy with
  | (k, i, r) :: rest =>
    let n := sparesUsed s k i
    let s := setRow { s with mem := { s.mem with rowCopy := rest } } { rowOf s k i r with spare := some n }
    let s := addRepair s ⟨k, 8, i, BitVec.ofNat 32 n, r⟩
    wakeMemory (detect s ⟨cDramRow, k, i, 0, none, 0, false⟩)
  | [] => s

/-! ## Bank queues (R324 to R326) -/

/-- The bank queue of a local address: 32 banks of each LM, 32 slices of each die cache (Table 8-3), and behind them the banks of
the MRDIMMs, at whose controllers mode C performs each access. -/
def bankOf (s : State) (a : Nat) : Nat :=
  match lmOf a with
  | some l => l * 32 + a / 64 % 32
  | none => if inMrd a && !s.mem.modeE then 2304 + Config.dramBank a else 2176 + homeDie a * 32 + sliceOf a

/-- A load or atomic of this device whose request is in a bank queue. -/
def PendLoad.queued (p : PendLoad) : Bool := p.val.isNone && p.got.isNone && p.tag.isNone

/-- Outstanding requests of lathe `l` at a bank: its loads, atomics and stores that the queue has not answered. -/
def bankLoad (s : State) (l bank : Nat) : Nat :=
  (s.threads.filter (fun p => p.1 / 544 == l)).foldl (fun n p =>
    n + (p.2.loads.filter (fun q => q.queued && q.bank == some bank)).length +
      (p.2.inflight.filter (fun q => q.bank == some bank)).length) 0

/-- Requests of lathe `l` that the queue has accepted and whose threads have not issued them yet. -/
def bankGrants (s : State) (l bank : Nat) : Nat :=
  ((s.threads.filter (fun p => p.1 / 544 == l)).filter (fun p =>
    match p.2.bankGrant with
    | some g => g.1 == bank
    | none => false)).length

/-- The queue takes no request of lathe `l` now: eight are outstanding, or an earlier one is refused. -/
def bankFull (s : State) (l bank : Nat) : Bool :=
  decide (8 ≤ bankLoad s l bank + bankGrants s l bank) ||
    s.mem.bankWait.any (fun b => b.requester == l && b.bank == bank)

/-- A request of thread `t` is refused: it waits for BANK_ACCEPT, with the age of its first presentation (R325, R326). -/
def bankRefuse (s : State) (t : Tid) (bank : Nat) (store : Bool) : State :=
  if s.mem.bankWait.any (fun b => b.thread == t && b.store == store && b.bank == bank) then s
  else { s with mem := { s.mem with
    bankWait := s.mem.bankWait ++ [⟨bank, t.lathe.val, t, store, s.mem.presented⟩], presented := s.mem.presented + 1 } }

/-! ## Serving the queues (R326; 02 R57, R551) -/

/-- One name for each byte, whichever address reaches it. -/
def canon (s : State) (t : Tid) (w : Word) : Nat :=
  if isSelf s (chainOf w) then cellOf (some t.lathe.val) (localOf w) else w.toNat

def overlaps (a n b m : Nat) : Bool := decide (a < b + m) && decide (b < a + n)

/-- The place an address of this device has for a thread. -/
def placeOf (s : State) (t : Tid) (w : Word) : Place := place s (some t.lathe.val) (localOf w)

/-- What an atomic stores over `old`: s2's value, and for CAS g[d]'s. Values are of `8 * size` bits. -/
def amoNew (k : AmoKind) (size old src cmp : Nat) : Nat :=
  match k with
  | .add => (old + src) % 2 ^ (8 * size)
  | .swap => src
  | .cas => if old = cmp then src else old

/-- The data of a load, or of an atomic as it is performed. -/
def arriveValue (s : State) (t : Tid) (p : PendLoad) : Word × State :=
  let a := canon s t p.addr
  match p.amo with
  | none => (extend p.size p.signed (leNat (forward p (memRead s a p.size))), s)
  | some (k, src, cmp) =>
    let m := 2 ^ (8 * p.size)
    let old := memNat s a p.size
    (extend p.size p.signed old, memWrite s a (leBytes p.size (amoNew k p.size old (src.toNat % m) (cmp.toNat % m))))

/-- A queued request that its bank can serve now. -/
def servable (s : State) (t : Tid) (p : PendLoad) : Bool :=
  p.queued &&
    match placeOf s t p.addr with
    | .ram a => !memBusy s a && (poisonAt s a p.size).isNone
    | _ => false

/-- The bank serves a request: its data, or the value that its atomic replaced, leaves for the thread. -/
def serveOne (s : State) (t : Tid) (p : PendLoad) : State :=
  let r := arriveValue s t p
  r.2.modThr t (fun x => { x with loads := x.loads.map (fun q =>
    if q.age = p.age ∧ q.queued then { q with got := some r.1 } else q) })

/-- The older of two requests. -/
def elder (b : Option (Tid × PendLoad)) (c : Tid × PendLoad) : Option (Tid × PendLoad) :=
  match b with
  | none => some c
  | some x => if c.2.age < x.2.age then some c else b

/-- The oldest servable request that `sel` names. -/
def eldest (s : State) (sel : Tid → PendLoad → Bool) : Option (Tid × PendLoad) :=
  (allThreads s).foldl (fun b t =>
    ((s.thr t).loads.filter (fun p => servable s t p && sel t p)).foldl (fun b p => elder b (t, p)) b) none

/-- The requests that `sel` names are served, oldest first. -/
def serveUp : Nat → (Tid → PendLoad → Bool) → State → State
  | 0, _, s => s
  | n + 1, sel, s =>
    match eldest s sel with
    | none => s
    | some r => serveUp n sel (serveOne s r.1 r.2)

/-- Requests that no queue has served. -/
def unserved (s : State) : Nat := s.threads.foldl (fun n p => n + (p.2.loads.filter (fun q => q.queued)).length) 0

/-- What stands before an access of age `age` to `n` bytes at `a`: the older requests of its bank, and of its own thread those
to the same bytes. -/
def ahead (s : State) (t : Option Tid) (bank : Option Nat) (age a n : Nat) (u : Tid) (q : PendLoad) : Bool :=
  q.queued && decide (q.age < age) &&
    ((bank.isSome && q.bank == bank) || (t == some u && overlaps (canon s u q.addr) q.size a n))

def serveAhead (s : State) (t : Option Tid) (bank : Option Nat) (age a n : Nat) : State :=
  serveUp (unserved s) (ahead s t bank age a n) s

/-- An older request of the same thread to the same bytes, or of the same bank behind a row copy, still stands before it. -/
def stuckBehind (s : State) (t : Option Tid) (bank : Option Nat) (age a n : Nat) : Bool :=
  (allThreads s).any (fun u => (s.thr u).loads.any (fun q =>
    ahead s t bank age a n u q &&
      (t == some u && overlaps (canon s u q.addr) q.size a n || memBusy s (canon s u q.addr))))

/-- The queues of the lines of a run serve what they hold before an access to it by a path, an engine or the host. -/
def serveRun (s : State) (t : Option Tid) (a n : Nat) : State :=
  if unserved s = 0 then s
  else
    (runLines a n).foldl (fun s l => serveAhead s t (some (bankOf s l)) s.mem.presented (max a l) (min (a + n) (l + 64) - max a l)) s

/-- A read of local memory by an engine of the device or by the host, at the home of each line (R310). -/
def busRead (s : State) (a n : Nat) : List Byte × State :=
  let s := serveRun s none a n
  (memRead s a n, (runLines a n).foldl homeRead s)

/-- A write by one. -/
def busWrite (s : State) (a : Nat) (d : List Byte) : State :=
  memWrite ((runLines a d.length).foldl homeWrite (serveRun s none a d.length)) a d

/-! ## Zeroing of MRDIMM (17 R531) -/

/-- Populated MRDIMM granules of 4 KiB. -/
def mrdGranules (s : State) : Nat := wbits (ctlGet s rMemMrd) 32 16 * gib / 4096

def execMrdimmGranuleZero (s : State) : Oc :=
  .next (if s.plat.ready ∧ s.mem.zeroed < mrdGranules s then { s with mem := { s.mem with zeroed := s.mem.zeroed + 1 } } else s)

end Sys2Proof.Machine
end

