-- ==== Sys2Proof/Machine/Security.lean ====
section
/-!
DEFINITION. Worlds of blocks and their changes (15 R485 to R487), the reset of a lathe island, the violation log's register, and
the measurement registers (15 R501 to R503).
-/

namespace Sys2Proof.Machine

/-! ## Standard function images (07 R286, Table 7-5) -/

def f32One : F32 := 0x3F800000
def f32Neg1 : F32 := 0xBF800000

/-- lo, hi and scale of a standard image. -/
def standardRange (k : Nat) : F32 × F32 × F32 :=
  match k with
  | 12 => (f32Neg1, 0, 0x43800000)
  | 14 => (0xC1800000, 0x41800000, 0x41000000)
  | _ => (0xC1000000, 0x41000000, 0x41800000)

/-- The coefficients of a standard image: ReLU's are 0, the others are fixed by the firmware release and free here. -/
def standardCoef (k : Nat) (der : Bool) : List (F32 × F32 × F32) :=
  if k = 12 then []
  else (List.range 256).map (fun i =>
    (Config.standardImage k der (3 * i), Config.standardImage k der (3 * i + 1), Config.standardImage k der (3 * i + 2)))

def standardSlot (k : Nat) : FSlot :=
  let r := standardRange k
  let t (la lb ra rb : F32) (der : Bool) : FTable := ⟨r.1, r.2.1, r.2.2, la, lb, ra, rb, standardCoef k der⟩
  { ident := 0x7A000000#32 + BitVec.ofNat 32 (k - 11)
    fwd := if k = 15 then t f32Neg1 0 f32One 0 false else t 0 0 0 f32One false
    der := if k = 15 then t 0 0 0 0 true else t 0 0 f32One 0 true }

def standardSlots : SMap FSlot := [12, 13, 14, 15].map (fun k => (k, standardSlot k))

/-! ## Reset of a lathe island -/

/-- A core after its lathe's reset; its place in the repair map stands. -/
def resetCore (l c : Nat) (x : Core) : Core := { coreInit l c with inService := x.inService }

/-- Requests of the other lathes' threads for lathe `l`'s LM that no bank has answered meet an abort response (01 R25): their loads
trap as an access to no memory does. -/
def abortRequests (s : State) (l : Nat) : State :=
  (allThreads s).foldl (fun s t =>
    let x := s.thr t
    let gone (p : PendLoad) : Bool :=
      p.queued && isSelf s (chainOf p.addr) && lmOf (cellOf (some t.lathe.val) (localOf p.addr)) == some l
    let bad := x.loads.filter gone
    if t.lathe.val = l ∨ bad.isEmpty then s
    else
      wakeIf (s.setThr t { x with
        loads := x.loads.filter (fun p => !gone p), late := x.late ++ bad.map (fun p => p.late xVmem) }) t) s

/-- The data caches of lathe `l` lose their lines with it; a way out of use stays so until the next start (08 R319). Its dirty lines are
discarded without write-back (14 Table 14-5). -/
def clearCaches (s : State) (l : Nat) : State :=
  let s := (dirtyLines s l).foldl (fun s n => loseBytes s (n * 64)) s
  { s with caches := { s.caches with
      l1d := s.caches.l1d.filter (fun p => p.1 / 4352 != l)
      lm := s.caches.lm.map (fun p => if p.1 / 16384 = l then (p.1, dDrop (fun _ => true) p.2) else p) } }

/-- The lathe island of lathe `l` leaves reset cleared: threads, cores, LM scratchpad, tile file, array and slots; mailbox ends
of its threads abort (01 R25, 09 R358, 15 Table 15-2). -/
def clearLathe (s : State) (l : Nat) : State :=
  let s := clearCaches (abortRequests (resetDomain s (ofLathe l)) l) l
  let s := { s with
    threads := s.threads.filter (fun p => p.1 / 544 != l)
    cores := s.cores.map (fun (p : Nat × Core) => if p.1 / 68 = l then (p.1, resetCore l (p.1 % 68) p.2) else p)
    ctl := s.ctl.filter (fun p => !(decide (rLathe l ≤ p.1) && decide (p.1 < rLathe l + 0x40000))) }
  let s := s.modLathe l (fun x => { x with
    tcfgQ := [], tileFree := 4096, accFree := 2048, slots := standardSlots
    arr := { removedRows := x.arr.removedRows, removedCols := x.arr.removedCols } })
  memClear s (lmBase l) 0x1000000

/-! ## World registers (15 R487) -/

/-- The block of bit `i` of SEC_BLK_WORLDk, as `Sec.pend` names it. -/
def worldBlock (k i : Nat) : Option Nat :=
  match k with
  | 0 => some i
  | 1 =>
    if i < 4 then some (64 + i)
    else if 8 ≤ i ∧ i < 10 then some (72 + (i - 8))
    else if 16 ≤ i ∧ i < 32 then some (80 + (i - 16))
    else none
  | _ => some (128 + i)

/-- The applied world of a block. -/
def blockWorld (s : State) (b : Nat) : World :=
  if b < 68 then (s.lathe b).world
  else if b < 80 then mget s.sec.ferruleWorld (b - 72) .ns
  else if b < 128 then mget s.sec.dmaWorld (b - 80) .ns
  else (s.box (b - 128)).world

/-- SEC_BLK_WORLDk reads the applied values. -/
def worldReg (s : State) (k : Nat) : Word :=
  (List.range 64).foldl (fun w i =>
    match worldBlock k i with
    | some b => w ||| flagAt (blockWorld s b == .s) i
    | none => w) 0

/-- The queued tasks of a lathe move to other eligible lathes. -/
def moveQueue (s : State) (l : Nat) : State :=
  let qs := [3, 2, 1, 0].flatMap (fun p => mget (s.lathe l).queue p [])
  let s := s.modLathe l (fun x => { x with queue := [] })
  qs.foldl placeTask s

/-- A write that names world `w` for block `b`: a pending change, its replacement, or its cancellation. -/
def orderWorld (s : State) (b : Nat) (w : World) : State :=
  if blockWorld s b = w then { s with sec := { s.sec with pend := mdel s.sec.pend b } }
  else
    let s := { s with sec := { s.sec with pend := mset s.sec.pend b w } }
    if b < 68 then wakeLathe (moveQueue s b) b else s

def worldWriteReg (s : State) (k : Nat) (v mask : Word) : State :=
  (List.range 64).foldl (fun s i =>
    match worldBlock k i with
    | some b => if mask.getLsbD i then orderWorld s b (if v.getLsbD i then .s else .ns) else s
    | none => s) s

/-! ## Applying a change (Table 15-2) -/

/-- A task is resident on lathe `l`. -/
def latheResident (s : State) (l : Nat) : Bool := s.threads.any (fun p => p.1 / 544 == l && p.2.task.isSome)

/-- Open or closing jobs on ferrule engine `b` (12 R425). -/
def engineJobs (s : State) (b : Nat) : Nat := (s.fer.jobs.filter (fun p => p.1 % 2 == b)).length

/-- The condition of Table 15-2. -/
def worldReady (s : State) (b : Nat) : Bool :=
  if b < 68 then (s.lathe b).svc != .inService || !latheResident s b
  else if b < 80 then engineJobs s (b - 72) == 0
  else true

/-- A mailbox changes world: cleared, aborted at both ends; waiting sends complete; agents now in the other world issue again
and meet XC_WORLD. -/
def worldMailbox (s : State) (m : Nat) (w : World) : State :=
  let s := s.setBox m { world := w, e0 := { aborted := true }, e1 := { aborted := true } }
  let s := (allThreads s).foldl (fun s t =>
    match (s.thr t).st with
    | .waiting (.mbx m' _ send _) =>
      if m' ≠ m then s
      else if (s.lathe t.lathe.val).world ≠ w then makeReady s t
      else if send then completeWait s t else s
    | _ => s) s
  notify (notify s m 0) m 1

/-- A lathe writes its dirty lines back, then leaves reset cleared. -/
def applyWorld (s : State) (b : Nat) (w : World) : State :=
  let s := { s with sec := { s.sec with pend := mdel s.sec.pend b } }
  if b < 68 then
    let s := if (s.lathe b).svc = .inService then clearLathe (lmClean s b (fun _ => true)) b else s
    s.modLathe b (fun x => { x with world := w })
  else if b < 80 then { s with sec := { s.sec with ferruleWorld := mset s.sec.ferruleWorld (b - 72) w } }
  else if b < 128 then { s with sec := { s.sec with dmaWorld := mset s.sec.dmaWorld (b - 80) w } }
  else worldMailbox s (b - 128) w

/-- WORLD_CHANGE_APPLY: the change pending for block `b` applies once its condition holds. -/
def execWorldChangeApply (b : Nat) (s : State) : Oc :=
  match mget? s.sec.pend b with
  | some w => .next (if worldReady s b then applyWorld s b w else s)
  | none => .next s

def secStat (s : State) : Word :=
  (ctlGet s rSecStat &&& 1) ||| BitVec.ofNat 64 (s.sec.pend.length) <<< 32

/-! ## The violation log's register (R490) -/

def vstat (s : State) : Word :=
  (ctlGet s rVstat &&& 0xFFFFFFFF00000000#64) ||| BitVec.ofNat 64 s.sec.vlog.length

def vstatClear (s : State) : State :=
  ctlSet { s with sec := { s.sec with vlog := [] } } rVstat 0

/-! ## Measurements (R501 to R503) -/

def meas (s : State) (i : Nat) : BitVec 512 := mget s.sec.meas i 0

/-- Extend Mi with a digest of 64 bytes. -/
def extendMeas (s : State) (i : Nat) (d : List Byte) : State :=
  let v := shake512 (leBytes 64 (meas s i).toNat ++ d)
  { s with sec := { s.sec with meas := mset s.sec.meas i v } }

def extDenied (s : State) : State := ctlOr s rSecStat 1

/-- A write of SEC_EXTEND: register 6 or 7, and 64 bytes that an S access can read. A write with a nonzero field that must be 0
extends nothing and sets ext_denied (DESIGN CHOICE, notes/assumptions/37.md). -/
def secExtendReg (s : State) (v : Word) : State :=
  let r := wbits v 0 3
  let a := wbits v 6 42 * 64
  if wbits v 48 16 ≠ 0 ∨ wbits v 3 3 ≠ 0 ∨ r < 6 then extDenied s
  else
    match place s none a with
    | .ram a => if (poisonAt s a 64).isSome then extDenied s else extendMeas s r (memRead s a 64)
    | _ => extDenied s

end Sys2Proof.Machine
end

