-- ==== Sys2Proof/Machine/Queues.lean ====
section
/-!
DEFINITION. Command queues (10 R368 to R379, R386, R392 to R396): contexts, doorbells, ready lists, the fetch of packets,
completion records and the ends of queues.
-/

namespace Sys2Proof.Machine

def stOk : Byte := 0x00
def stBadOpcode : Byte := 0x01
def stBadParam : Byte := 0x02
def stNoResource : Byte := 0x03
def stWorld : Byte := 0x04
def stAborted : Byte := 0x05
def stTied : Byte := 0x06
def stFenced : Byte := 0x07
def stPartial : Byte := 0x08
def stBusy : Byte := 0x09
def stAuth : Byte := 0x0A

def State.queue? (s : State) (q : Nat) : Option Queue := mget? s.host.queues q

/-- An address of another device. -/
def isRemote (s : State) (a : Word) : Bool := !isSelf s (chainOf a)

/-- The lathes whose LM a range reaches while they sleep are woken (08 R296, 16 R512). -/
def wakeRange (s : State) (a : Word) (n : Nat) : State :=
  if isRemote s a ∨ n = 0 then s
  else
    (granules (localOf a) n).foldl (fun s g =>
      match place s none g with
      | .asleep l => wakeLathe s l
      | _ => s) s

/-- The memory at an address of this device, of a sleeping lathe's LM too. -/
def devPlace (s : State) (a : Nat) : Option Nat :=
  match place s none a with
  | .ram a => some a
  | .asleep _ => some (cellOf none a)
  | _ => none

/-- The clock of the host complex that serves a queue runs (01 R21). -/
def complexRuns (s : State) (q : Nat) : Bool := clockOn s (.hostComplex (if q % 2 = 0 then 0 else 1))

/-- Fetched commands of a queue without a written record (Table 10-5). -/
def queueBusy (s : State) (q : Nat) : Nat := (s.host.cmds.filter (fun c => c.q == q)).length

def QState.code : QState → Nat
  | .active => 1
  | .destroying => 2
  | .stopped => 3

/-- The context of a queue as Table 10-5 lays it out at queue ID * 64 of the context area; only firmware reads or writes it
(R370). -/
def contextImage (s : State) (q : Nat) : List Byte :=
  match s.queue? q with
  | none => List.replicate 64 0
  | some x =>
    leBytes 8 (x.cmd.toNat + (if x.cmdHost then 1 else 0)) ++ leBytes 8 (x.cpl.toNat + (if x.cplHost then 1 else 0)) ++
      leBytes 4 (x.prod.toNat + x.cqLog2 * 2 ^ 24) ++ leBytes 4 (x.cons.toNat + x.cplLog2 * 2 ^ 24) ++
      leBytes 4 (x.tail.toNat + ((if x.irq then 1 else 0) + (if x.world = .s then 2 else 0)) * 2 ^ 24) ++
      leBytes 4 (x.head.toNat + x.st.code * 2 ^ 24) ++ leBytes 2 x.vec.toNat ++ leBytes 2 (queueBusy s q) ++
      List.replicate 28 0

def State.setQueue (s : State) (q : Nat) (x : Queue) : State :=
  { s with host := { s.host with queues := mset s.host.queues q x } }

/-- A device event: a bit of HIF_ERR that changes from 0 to 1, or a logged record, sends the vector of HIF_EVVEC (R395). -/
def deviceEvent (s : State) : State :=
  let e := ctlGet s rEvvec
  if e.getLsbD 16 then sendMsix s (wbits e 0 11) else s

/-- Set a HIF_ERR bit and record the queue ID. -/
def hifErr (s : State) (bit q : Nat) : State :=
  let old := ctlGet s rHifErr
  let new := wput (old ||| flagAt true bit) 32 20 (BitVec.ofNat 64 q)
  let s := ctlSet s rHifErr new
  if old.getLsbD bit then s else deviceEvent s

/-! ## Ready lists (R378, R379, R382) -/

def idx24 (a b : BitVec 24) : Nat := (a - b).toNat

/-- A fetched command with FENCE waits for an earlier command of its queue. -/
def fenceHeld (s : State) (q : Nat) : Bool :=
  s.host.cmds.any (fun c => c.q == q && (c.packet.getD 1 0).getLsbD 0 && c.wait == .fetched &&
    s.host.cmds.any (fun d => d.q == q && d.n != c.n && decide (idx24 c.n d.n < 2 ^ 23)))

/-- The queue is active, has packets and room, and is not held by a fence. -/
def queueReady (s : State) (q : Nat) : Bool :=
  match s.queue? q with
  | some x => x.st == .active && x.prod != x.cons && decide (idx24 x.cons x.head < 2 ^ x.cplLog2) && !fenceHeld s q
  | none => false

def readyList (s : State) (b : Nat) : List Nat := if b = 0 then s.host.ready0 else s.host.ready1

def setReady (s : State) (b : Nat) (l : List Nat) : State :=
  if b = 0 then { s with host := { s.host with ready0 := l } } else { s with host := { s.host with ready1 := l } }

/-- Enter the ready list's tail when ready, leave it when not; a listed queue keeps its place. -/
def noteReady (s : State) (q : Nat) : State :=
  let l := readyList s (q % 2)
  if queueReady s q then (if l.contains q then s else setReady s (q % 2) (l ++ [q]))
  else setReady s (q % 2) (l.filter (fun k => k != q))

/-! ## Creation (R369, R373, R374) -/

/-- Whether a ring may lie at `base`: the first failing status, or ST_OK. -/
def ringCheck (s : State) (w : World) (base : Word) (host : Bool) (slot log2 : Nat) : Byte :=
  if log2 < 4 ∨ 20 < log2 ∨ base.toNat % slot ≠ 0 then stBadParam
  else if host then (if w = .s then stWorld else stOk)
  else if !isSelf s (chainOf base) then stBadParam
  else
    let gs := granules (localOf base) (slot * 2 ^ log2)
    if gs.any (fun g => match place s none g with
      | .ram _ => false
      | .asleep _ => false
      | _ => true) then stBadParam
    else if gs.any (fun g => addrWorld s none g != w) then stWorld else stOk

def newQueue (w : World) (cmd : Word) (ch : Bool) (cl : Nat) (cpl : Word) (ph : Bool) (pl : Nat) (irq : Bool)
    (vec : BitVec 11) : Queue :=
  { cmd := cmd, cmdHost := ch, cqLog2 := cl, cpl := cpl, cplHost := ph, cplLog2 := pl, prod := 0, cons := 0, tail := 0
    head := 0, irq := irq, vec := vec, world := w, st := .active }

/-- The setup queue that the registers at `rc`, `rp` describe. -/
def setupQueue (s : State) (w : World) (rc rp : Nat) (cfg : Word) : Option Queue :=
  let c := ctlGet s rc
  let p := ctlGet s rp
  let ch := w == .ns && c.getLsbD 0
  let ph := w == .ns && p.getLsbD 5
  let cb := c &&& ~~~0x3F
  let pb := p &&& ~~~0x3F
  if ringCheck s w cb ch 64 (wbits c 1 5) = stOk ∧ ringCheck s w pb ph 32 (wbits p 0 5) = stOk then
    some (newQueue w cb ch (wbits c 1 5) pb ph (wbits p 0 5) (w == .ns && cfg.getLsbD 12) (cfg.setWidth 11))
  else none

/-! ## Destruction (R386) -/

/-- The context of a queue is freed; commands that waited for this end (R386). -/
def freeQueue (s : State) (q : Nat) : State :=
  { s with host := { s.host with
      queues := mdel s.host.queues q
      cmds := s.host.cmds.map (fun c => if c.wait = .destroy q then { c with wait := .done } else c) } }

/-- Free a destroyed setup queue, or one of a host link reset, once none of its commands is left. -/
def freeIfDone (s : State) (q : Nat) : State :=
  match s.queue? q with
  | some x =>
    if x.st = .destroying ∧ !(s.host.cmds.any (fun c => c.q == q || c.wait == .destroy q)) then freeQueue s q
    else s
  | none => s

/-- A command of a destroyed queue that waits on a sink, a reduction step or an enumeration ends with ST_ABORTED. -/
def abortWaiting (c : Cmd) : Cmd :=
  match c.wait with
  | .sink _ => { c with status := stAborted, wait := .done }
  | .bind _ _ _ => { c with status := stAborted, wait := .done }
  | .close _ => { c with status := stAborted, wait := .done }
  | .enumeration => { c with status := stAborted, wait := .done }
  | _ => c

/-- Steps 1 and 2 of R386. -/
def destroyQueue (s : State) (q : Nat) : State :=
  match s.queue? q with
  | some x =>
    let s := s.setQueue q { x with st := .destroying }
    let s := { s with host := { s.host with cmds := s.host.cmds.map (fun c => if c.q = q then abortWaiting c else c) } }
    freeIfDone (noteReady s q) q
  | none => s

/-- A write of HIF_Q0_CFG or SEC_Q1_CFG by an agent that may write it (R373, R374). -/
def setupCfgWrite (s : State) (q : Nat) (v mask : Word) : State :=
  let r := if q = 0 then rQ0Cfg else rQ1Cfg
  let w : World := if q = 0 then .ns else .s
  let old := ctlGet s r
  let fields : Word := if q = 0 then 0x117FF else 0x10000
  let clear : Word := if q = 0 then 0 else v &&& mask &&& 0x40000
  let new := ((old &&& ~~~(fields &&& mask)) ||| (v &&& fields &&& mask)) &&& ~~~clear
  if !old.getLsbD 16 && new.getLsbD 16 then
    if !s.plat.ready then s
    else
      match (if (s.queue? q).isSome then none
        else setupQueue s w (if q = 0 then rQ0Cmd else rQ1Cmd) (if q = 0 then rQ0Cpl else rQ1Cpl) new) with
      | some x => (ctlSet s r new).setQueue q x
      | none => if q = 0 then hifErr s 6 0 else ctlOr s r 0x40000
  else if old.getLsbD 16 && !new.getLsbD 16 then destroyQueue (ctlSet s r new) q
  else ctlSet s r new

/-- HIF_Q0_CFG.active and SEC_Q1_CFG.active. -/
def queueActive (s : State) (q : Nat) : Word := flagAt (s.queue? q).isSome 17

/-- R372: the device stops a queue; its fetched commands complete without records. One in destruction goes on with that. -/
def stopQueue (s : State) (q : Nat) : State :=
  match s.queue? q with
  | some x =>
    let s := if x.st = .destroying then s else s.setQueue q { x with st := .stopped }
    let s := { s with host := { s.host with cmds := s.host.cmds.map (fun c => if c.q = q then { c with discard := true } else c) } }
    hifErr (noteReady s q) 5 q
  | none => s

/-! ## Doorbells (R375, R377) -/

/-- Checks 1 to 3 of R375: the queue, or the state with the HIF_ERR bit of the first that fails. -/
def doorbellGate (s : State) (w : World) (id : BitVec 16) (off bytes : Nat) (v : Word) : State ⊕ Queue :=
  let q := wbits v 0 20
  if bytes ≠ 8 ∨ wbits v 44 20 ≠ 0 then .inl (hifErr s 0 q)
  else
    match s.queue? q with
    | none => .inl (hifErr s 1 q)
    | some x =>
      if x.st ≠ .active then .inl (hifErr s 1 q)
      else if x.world ≠ w then
        let s := hifErr s 3 q
        .inl (if w = .ns then logVio s (BitVec.ofNat 64 (0x300000000000 + off)) id 0 5 bytes else s)
      else .inr x

def doorbellWrite (s : State) (w : World) (id : BitVec 16) (bytes : Nat) (v : Word) : State :=
  match doorbellGate s w id rDoorbell bytes v with
  | .inl s => s
  | .inr x =>
    let q := wbits v 0 20
    let p := BitVec.ofNat 24 (wbits v 20 24)
    if idx24 p x.cons ≤ 2 ^ x.cqLog2 then noteReady (s.setQueue q { x with prod := p }) q else hifErr s 2 q

def cpldbWrite (s : State) (w : World) (id : BitVec 16) (bytes : Nat) (v : Word) : State :=
  match doorbellGate s w id rCpldb bytes v with
  | .inl s => s
  | .inr x =>
    let q := wbits v 0 20
    let h := BitVec.ofNat 24 (wbits v 20 24)
    if idx24 h x.head ≤ idx24 x.tail x.head then noteReady (s.setQueue q { x with head := h }) q else hifErr s 2 q

/-! ## Fetch (R379, R380) -/

/-- The local address of the next slot of a command ring in device memory. -/
def Queue.slot (x : Queue) : Nat := localOf x.cmd + 64 * (x.cons.toNat % 2 ^ x.cqLog2)

/-- The slot lies in a DRAM row that is being copied (08 R323). -/
def slotBusy (s : State) (q : Nat) : Bool :=
  match s.queue? q with
  | some x => !x.cmdHost && runBusy s x.slot 64
  | none => false

/-- The bytes of the next slot of a ring: memory of this device, or what the host returned; an error response or poison gives
none. -/
def slotRead (s : State) (x : Queue) (host : Option (List Byte)) : Option (List Byte × State) :=
  if x.cmdHost then host.map (fun d => ((List.range 64).map (fun k => d.getD k 0), s))
  else
    match devPlace s x.slot with
    | some a => if (poisonAt s a 64).isSome then none else some (busRead (wakeRange s (BitVec.ofNat 64 x.slot) 64) a 64)
    | none => none

/-- Fetch one packet of queue `q`, or stop the queue. -/
def fetchOne (s : State) (q : Nat) (host : Option (List Byte)) : State :=
  match s.queue? q with
  | some x =>
    match slotRead s x host with
    | some (d, s) =>
      let c : Cmd := { q := q, n := x.cons, packet := d, fetchedAt := s.plat.devTime, fltSeq := ctlGet s rFltSeq }
      let s := s.setQueue q { x with cons := x.cons + 1 }
      { s with host := { s.host with cmds := s.host.cmds ++ [c] } }
    | none => stopQueue s q
  | none => s

/-- Up to `k` consecutive packets, stopping when the queue ceases to be ready. -/
def fetchUpTo (q : Nat) (host : List (Option (List Byte))) : Nat → Nat → State → State
  | 0, _, s => s
  | k + 1, i, s =>
    if queueReady s q && !slotBusy s q then fetchUpTo q host k (i + 1) (fetchOne s q (host.getD i none)) else s

/-- COMMAND_FETCH: the scheduler of a host complex takes the head of its ready list. -/
def execCommandFetch (b : Fin 2) (host : List (Option (List Byte))) (s : State) : Oc :=
  match readyList s b.val with
  | q :: r =>
    if s.pwr.standby || !clockOn s (.hostComplex b) then .next s
    else
      let s := fetchUpTo q host 8 0 (setReady s b.val r)
      .next (noteReady s q)
  | [] => .next s

/-! ## Completion (R392 to R395) -/

def State.cmd? (s : State) (q n : Nat) : Option Cmd := s.host.cmds.find? (fun c => c.q == q && c.n.toNat == n)

def State.modCmd (s : State) (q n : Nat) (f : Cmd → Cmd) : State :=
  { s with host := { s.host with cmds := s.host.cmds.map (fun c => if c.q = q ∧ c.n.toNat = n then f c else c) } }

def dropCmd (s : State) (q n : Nat) : State :=
  { s with host := { s.host with
      cmds := s.host.cmds.filter (fun c => !(c.q == q && c.n.toNat == n))
      tokenWait := s.host.tokenWait.filter (fun w => !(w.1 == q && w.2.1.toNat == n)) } }

/-- The phase bit of record `t` (R393). -/
def phaseOf (x : Queue) : Bool := !(x.tail.getLsbD x.cplLog2)

/-- A completion record (Table 10-10). -/
def recordBytes (s : State) (x : Queue) (c : Cmd) : List Byte :=
  (c.packet.drop 4).take 2 ++ [c.status, BitVec.ofNat 8 ((if phaseOf x then 1 else 0) + (if c.ldrop then 2 else 0))] ++
    leBytes 4 c.result.toNat ++ leBytes 8 (s.plat.devTime - c.fetchedAt).toNat ++ leBytes 8 c.aux.toNat ++ leBytes 4 c.q ++
    leBytes 3 c.n.toNat ++ [c.packet.getD 0 0]

/-- Write bytes at a host or device address: the state, or none where the write receives an error response. -/
def ringWrite (s : State) (host : Bool) (a : Word) (d : List Byte) : Option State :=
  if host then some (emit s (.hostWrite a d))
  else
    (devPlace s (localOf a)).map (fun b => busWrite (wakeRange s a d.length) b d)

/-- The MSI-X message that follows a record on an NS queue (R395). -/
def notifyQueue (s : State) (x : Queue) (c : Cmd) : State :=
  if x.world = .ns ∧ (x.irq ∨ (c.packet.getD 1 0).getLsbD 1) then sendMsix s x.vec.toNat else s

/-- The slot of a queue's next completion record. -/
def Queue.recordAt (x : Queue) : Word := x.cpl + BitVec.ofNat 64 (32 * (x.tail.toNat % 2 ^ x.cplLog2))

/-- The record's slot lies in a DRAM row that is being copied (08 R323). -/
def recordBusy (s : State) (q : Nat) : Bool :=
  match s.queue? q with
  | some x => !x.cplHost && runBusy s (localOf x.recordAt) 32
  | none => false

/-- Write the record of command `c` and take it off the list. -/
def finishCmd (s : State) (c : Cmd) (err : Bool) : State :=
  let s1 := dropCmd s c.q c.n.toNat
  match s.queue? c.q with
  | none => s1
  | some x =>
    if c.discard then freeIfDone (noteReady s1 c.q) c.q
    else
      match (if err then none else ringWrite s1 x.cplHost x.recordAt (recordBytes s x c)) with
      | none => freeIfDone (stopQueue s1 c.q) c.q
      | some s2 =>
        freeIfDone (noteReady (notifyQueue (s2.setQueue c.q { x with tail := x.tail + 1 }) x c) c.q) c.q

/-- A command whose record is due. -/
def recordDue (s : State) (c : Cmd) : Bool :=
  match c.wait with
  | .done => true
  | .busy => true
  | .destroy q => !s.host.cmds.any (fun d => d.q == q && d.wait != .destroy q)
  | _ => false

/-- Step 4 of R386: the destroyed queue's context is freed, after the last record that its ring receives. -/
def afterDestroy (s : State) (c : Cmd) : State :=
  match c.wait with
  | .destroy q => if s.host.cmds.any (fun d => d.q == q) then s else freeQueue s q
  | _ => s

/-! ## The start of a command (R381, R382) -/

/-- Commands of a queue start in index order; one with FENCE after every earlier one has completed. -/
def startable (s : State) (c : Cmd) : Bool :=
  c.wait == .fetched && !s.host.cmds.any (fun d =>
    d.q == c.q && d.n != c.n && decide (idx24 c.n d.n < 2 ^ 23) &&
      (d.wait == .fetched || (c.packet.getD 1 0).getLsbD 0))

def Cmd.op (c : Cmd) : Nat := (c.packet.getD 0 0).toNat

/-- What Table 10-9 uses of a packet: address-kind bits, and parameters by offset, size and bits. -/
structure KUse where
  kinds : Nat
  params : List (Nat × Nat × Nat)

def allBits (n : Nat) : Nat := 2 ^ (8 * n) - 1

/-- A parameter that uses all its bits. -/
def par (off n : Nat) : Nat × Nat × Nat := (off, n, allBits n)

/-- Table 10-9. -/
def kcpUse (op : Nat) : Option KUse :=
  match op with
  | 0x01 => some ⟨0, []⟩
  | 0x02 => some ⟨3, [(0x0C, 4, 0xFFFFF), par 0x10 8, par 0x18 8, par 0x20 1, par 0x21 1, par 0x22 2, (0x24, 1, 1)]⟩
  | 0x03 => some ⟨0, [par 0x0C 4]⟩
  | 0x10 => some ⟨3, [(0x09, 1, 1), par 0x10 8, par 0x18 8, par 0x20 8]⟩
  | 0x11 => some ⟨1, [par 0x10 8, par 0x18 8, par 0x20 8]⟩
  | 0x20 => some ⟨1, [par 0x10 8, par 0x18 8, par 0x20 4]⟩
  | 0x21 => some ⟨1, [par 0x10 8, par 0x18 8, par 0x20 4]⟩
  | 0x22 => some ⟨0, [par 0x10 8, (0x18, 1, 1)]⟩
  | 0x30 => some ⟨1, [(0x09, 1, 1), par 0x0C 2, par 0x10 4, (0x14, 1, 0x3F), par 0x18 8]⟩
  | 0x31 => some ⟨0, [(0x0C, 2, 0xFFF), par 0x0E 1, par 0x10 4, par 0x14 4, par 0x18 8, par 0x20 8, par 0x28 8, par 0x30 4]⟩
  | 0x40 => some ⟨0, [(0x0C, 2, 0xFFF), par 0x0E 2, par 0x10 1, par 0x12 2, par 0x14 4, par 0x18 4, par 0x1C 4, par 0x20 4,
      par 0x24 4, par 0x28 8, par 0x30 2]⟩
  | 0x41 => some ⟨0, [par 0x0C 2, (0x0E, 1, 1)]⟩
  | 0x50 => some ⟨0, [par 0x0C 4]⟩
  | 0x51 => some ⟨0, [par 0x0C 1]⟩
  | 0x60 => some ⟨1, [par 0x0C 4, par 0x10 8, par 0x18 8]⟩
  | 0x61 => some ⟨0, []⟩
  | 0x70 => some ⟨1, [par 0x10 8, par 0x18 4, par 0x20 32]⟩
  | 0x71 => some ⟨1, [par 0x0C 4, par 0x10 8, par 0x18 4]⟩
  | 0x72 => some ⟨0, [par 0x0C 4]⟩
  | 0x80 => some ⟨0, []⟩
  | 0x81 => some ⟨1, [par 0x10 8, par 0x18 4]⟩
  | 0x82 => some ⟨0, []⟩
  | _ => none

/-- The bits of a packet that its command may set; of the header: tag, len, world, FENCE, NOTIFY, opcode. -/
def KUse.mask (u : KUse) : Nat :=
  u.params.foldl (fun m p => m + p.2.2 <<< (8 * p.1)) (0x0000FFFF00F103FF + u.kinds <<< 64)

/-- Checks 1 to 3 of R381. -/
def headerFail (s : State) (c : Cmd) : Option Byte :=
  match kcpUse c.op with
  | none => some stBadOpcode
  | some u =>
    let v := leNat c.packet
    let w : World := ((s.queue? c.q).map (fun x => x.world)).getD .ns
    if (v.testBit 16) != (w == .s) then some stWorld
    else if nbits v 20 4 ≠ 4 ∨ v &&& u.mask ≠ v ∨ (c.op = 0x31 ∧ fmtReserved (nbits v 112 8)) then some stBadParam
    else none

/-- A command ends; its record is due. -/
def endCmd (s : State) (c : Cmd) (status : Byte) (result : BitVec 32) (aux : Word) : State :=
  s.modCmd c.q c.n.toNat (fun c => { c with status := status, result := result, aux := aux, wait := .done })

def endWith (s : State) (c : Cmd) (status : Byte) : State := endCmd s c status 0 0

end Sys2Proof.Machine
end

