-- ==== Sys2Proof/Machine/Bus.lean ====
section
/-!
DEFINITION. Reads and writes of control registers (00 R9 to R13, 08 R298): which accesses reach a register, what each register
reads as, and what a write of it does. A register whose value the device computes is computed here.
-/

namespace Sys2Proof.Machine

/-! ## Computed registers -/

def svcCode : Svc → Nat
  | .inService => 0
  | .spare => 1
  | .retired => 2
  | .fenced => 3
  | .underTest => 4

/-- The device state (16 R516): 4 in standby, otherwise the lowest state of any in-service lathe. -/
def deviceState (s : State) : Nat :=
  if s.pwr.standby then 4
  else if !s.plat.ready then 0
  else (List.range 68).foldl (fun m l => if (s.lathe l).svc = .inService then min m (s.lathe l).power else m) 3

def clksrcReg (s : State) : Word :=
  s.plat.timeSrc.setWidth 64 <<< 6 ||| (flagAt s.plat.cref1 5 ||| flagAt s.plat.cref0 4 ||| flagAt s.plat.pcieRef 3)

def alarmReg (s : State) : Word := flagAt s.plat.ready 2 ||| flagAt s.plat.therm 1 ||| flagAt s.plat.faultHold 0

def pwrStatReg (s : State) : Word :=
  BitVec.ofNat 64 (deviceState s) ||| s.pwr.profile.setWidth 64 <<< 4 ||| flagAt (s.pwr.throttled || !s.pwr.gated.isEmpty) 8 |||
    flagAt s.pwr.capLimited 9

def maxList (l : List Nat) : Nat := l.foldl max 0

def tempReg (s : State) : Word :=
  let t := s.pwr.temps
  let at_ (l : List Nat) (k sh : Nat) : Word := BitVec.ofNat 64 (min (l.getD k 0) 255) <<< sh
  at_ t.lathe 0 0 ||| at_ t.lathe 1 8 ||| at_ t.lathe 2 16 ||| at_ t.lathe 3 24 ||| at_ t.bench 0 32 ||| at_ t.bench 1 40

/-- Mean of the latest `n` samples of 10 us; of those there are, while there are fewer. -/
def meanPower (s : State) (n : Nat) : Nat :=
  let l := s.pwr.samples.take n
  if l.isEmpty then 0 else l.foldl (· + ·) 0 / l.length

def powerReg (s : State) : Word := BitVec.ofNat 64 (meanPower s 10000 % 65536 * 65536 + meanPower s 100 % 65536)

def recWorld (r : FaultRec) : World := if r.flags.getLsbD 2 then .s else .ns

def fltFill (s : State) (w : World) : Word :=
  let so := (s.flt.ring.filter (fun r => recWorld r == .s)).length
  let sh := (s.flt.ring.filter (fun r => recWorld r == .ns)).length
  BitVec.ofNat 64 (if w = .s then so * 2 ^ 32 + sh else sh)

def fltRecov (s : State) : Word :=
  BitVec.ofNat 64 (s.flt.queue.length * 2 ^ 32 + s.flt.recovery * 2 ^ 16) ||| flagAt s.flt.cur.isSome 0

def fltLathe (s : State) (n : Nat) : Word :=
  let x := s.lathe n
  BitVec.ofNat 64 (x.epoch.toNat * 2 ^ 16 + x.spareCores * 2 ^ 8 + svcCode x.svc)

def chStateCode : ChState → Nat
  | .unaddressed => 0
  | .enumerating => 1
  | .member => 2
  | .spare => 3
  | .fenced => 4

def pStateCode : PState → Nat
  | .down => 0
  | .training => 1
  | .up => 2
  | .up4 => 3
  | .partnerFenced => 4

def chnStat (s : State) : Word :=
  BitVec.ofNat 64 (s.chain.addr.toNat * 2 ^ 48 + s.chain.epoch.toNat * 2 ^ 32 + s.chain.head.toNat * 2 ^ 16 +
    chStateCode s.chain.st)

def portWidth : PState → Nat
  | .up => 8
  | .up4 => 4
  | _ => 0

def chnPort (s : State) (p : Nat) : Word :=
  let x := mget s.chain.ports p {}
  BitVec.ofNat 64 (x.partner.toNat * 2 ^ 48 + x.pport.toNat * 2 ^ 40 + x.pol.toNat * 2 ^ 31 + (x.degraded.headD 15) * 2 ^ 26 +
    portWidth x.st * 2 ^ 16 + pStateCode x.st) ||| (flagAt x.rev 30 ||| flagAt (x.spareUsed || x.txSpare) 25)

def tileStat (s : State) (n : Nat) : Word :=
  let x := s.lathe n
  BitVec.ofNat 64 (x.tcfgQ.length * 2 ^ 32 + x.accFree * 2 ^ 16 + x.tileFree)

def fuSlot (s : State) (n k : Nat) : Word :=
  match mget? (s.lathe n).slots k with
  | some x => 0x100000000#64 ||| x.ident.setWidth 64
  | none => 0

/-- Rows and columns removed, 0 to 3 (06 ARR_STAT.remaps). -/
def remapsOf (s : State) (n : Nat) : Nat :=
  min 3 ((s.lathe n).arr.removedRows.length + (s.lathe n).arr.removedCols.length)

/-- A register of lathe n's block, by offset in the block. -/
def latheReg (s : State) (n o : Nat) : Word :=
  let stored := ctlGet s (rLathe n + o)
  if o = 0x10010 then (stored &&& 0xFFFFFFFF0000#64) ||| BitVec.ofNat 64 (remapsOf s n)
  else if o = 0x20000 then tileStat s n
  else if 0x30100 ≤ o ∧ o < 0x30180 then fuSlot s n ((o - 0x30100) / 8)
  else stored

/-- A copy of a sticky register (14 R482). -/
def stickyGet (s : State) (w : World) (n : Nat) : Word :=
  if w = .s then mget s.flt.stickyS n 0 else ctlGet s (rSticky n)

/-- A mailbox register without side effect, by offset in the block of mailbox m. -/
def mbxReg (s : State) (m o : Nat) : Word :=
  if o = 0 then ctlGet s (rMbx m) else if o = 8 then mbxStat s m else if o = 0x10 then (s.box m).owner.setWidth 64 else 0

/-- What the register in the slot at `o` holds for a reader of world `w`; write-only fields read as 0. -/
def regPeek (s : State) (w : World) (o : Nat) : Word :=
  if o < 0x100000 then
    if o = rQ0Cfg then ctlGet s o ||| queueActive s 0 else if o = rDoorbell ∨ o = rCpldb then 0 else ctlGet s o
  else if o < 0x200000 then
    if o = rClksrc then clksrcReg s else if o = rStraps then s.plat.straps.setWidth 64
    else if o = rAlarm then alarmReg s else if o = rStore then devStore s else if o = rTaskdb then 0 else ctlGet s o
  else if o < 0x300000 then
    if o = rPwrStat then pwrStatReg s else if o = rTolNs then s.pwr.tolNs.setWidth 64
    else if o = rTolS then (if w = .s then s.pwr.tolS.setWidth 64 else 0)
    else if o = rTemp then tempReg s else if o = rPower then powerReg s else ctlGet s o
  else if o < 0x400000 then
    if o < rFltSeq then stickyGet s w ((o - 0x300000) / 8) else if o = rFltFill then fltFill s w
    else if o = rFltRecov then fltRecov s
    else if rFltLathe 0 ≤ o ∧ o < rFltLathe 68 then fltLathe s ((o - rFltLathe 0) / 8) else ctlGet s o
  else if o < 0x500000 then (if o < rMbx 64 then mbxReg s ((o - 0x400000) / 0x100) ((o - 0x400000) % 0x100) else 0)
  else if o < 0x600000 then
    if o = rChnStat then chnStat s else if rChnPort 0 ≤ o ∧ o < rChnPort 40 then chnPort s ((o - rChnPort 0) / 8)
    else ctlGet s o
  else if o < 0x700000 then
    if rFrlEng 0 ≤ o ∧ o < rFrlEng 2 then BitVec.ofNat 64 (engineJobs s ((o - rFrlEng 0) / 8)) else ctlGet s o
  else if o < 0x800000 then (if o = rRinv then flagAt s.mem.rinvBusy 1 else ctlGet s o)
  else if o < 0x900000 then
    if o < rSecCtl then worldReg s ((o - 0x800000) / 8) else if o = rSecStat then secStat s else if o = rVstat then vstat s
    else if o = rQ1Cfg then ctlGet s o ||| queueActive s 1 else ctlGet s o
  else if 0x1000000 ≤ o then latheReg s ((o - 0x1000000) / 0x40000) ((o - 0x1000000) % 0x40000)
  else 0

/-! ## Which accesses reach a register -/

/-- The outcome of a register access that does not reach its register. -/
inductive RegFail where
  /-- width or alignment (R10) -/
  | width
  /-- no register and no block there (08 R296) -/
  | absent
  /-- an NS access to an S block (08 R298, 15 R489) -/
  | world
  /-- mailbox m has an end that is powered off (09 R359) -/
  | mbxOff (m : Nat)
  /-- the lathe's island is powered off (01 R26) -/
  | island
  deriving DecidableEq, Repr

/-- The world of the block of an offset, with that of a mailbox for its registers (09 R360). -/
def slotWorld (s : State) (o : Nat) : World :=
  if 0x400000 ≤ o ∧ o < 0x400000 + 0x4000 then (s.box ((o - 0x400000) / 0x100)).world else placeWorld s (.ctl o)

/-- A mailbox register that R359 closes while an end is powered off: all but CFG and STAT. -/
def mbxClosed (s : State) (o : Nat) : Option Nat :=
  if 0x400000 ≤ o ∧ o < 0x400000 + 0x4000 then
    let m := (o - 0x400000) / 0x100
    if 0x10 ≤ (o - 0x400000) % 0x100 ∧ boxOff s m then some m else none
  else none

/-- The lathe of a lathe block. -/
def blockLathe (o : Nat) : Option Nat := if 0x1000000 ≤ o ∧ o < 0x2100000 then some ((o - 0x1000000) / 0x40000) else none

def islandOff (s : State) (o : Nat) : Bool :=
  match blockLathe o with
  | some l => latheDark s l
  | none => false

/-- An access of `n` bytes at offset `o`: why it reaches no register, or none. -/
def regGate (s : State) (w : World) (o n : Nat) : Option RegFail :=
  if (n ≠ 4 ∧ n ≠ 8) ∨ o % n ≠ 0 then some .width
  else if !inBlockSpan o then some .absent
  else if w = .ns ∧ slotWorld s o = .s then some .world
  else if islandOff s o then some .island
  else (mbxClosed s o).map .mbxOff

/-- An access to a sleeping lathe's block is a wake event (16 R512). -/
def wakeFor (s : State) (o : Nat) : State :=
  match blockLathe o with
  | some l => wakeLathe s l
  | none => s

/-! ## Reads -/

/-- DEV_TIME (01 R31): a read of the low half latches the upper half for the reader's next read of it. -/
def devTimeRead (s : State) (key : Nat) (o n : Nat) : Word × State :=
  if n = 8 then readTime s key
  else if o % 8 = 0 then
    let r := readTime s key
    (r.1 &&& 0xFFFFFFFF, { r.2 with plat := { r.2.plat with shadow := mset r.2.plat.shadow key ((r.1 >>> 32).setWidth 32) } })
  else
    match mget? s.plat.shadow key with
    | some v => (v.setWidth 64, { s with plat := { s.plat with shadow := mdel s.plat.shadow key } })
    | none =>
      let r := readTime s key
      (r.1 >>> 32, r.2)

/-- The half of a slot that an access of `n` bytes at `o` covers. -/
def halfOf (v : Word) (o n : Nat) : Word := if n = 8 then v else (v >>> (8 * (o % 8))) &&& 0xFFFFFFFF

/-- A read that reaches its slot. -/
def regRead (s : State) (a : Agent) (o n : Nat) : Word × State :=
  let s := wakeFor s o
  let slot := o / 8 * 8
  if slot = rDevTime then devTimeRead s (agentId a).toNat o n
  else if 0x400000 ≤ o ∧ o < rMbx 64 then
    let m := (o - 0x400000) / 0x100
    let k := (o - 0x400000) % 0x100
    if k = 0x40 ∨ k = 0x48 then
      let r := mbxGetWord s (agentId a) m ((k - 0x40) / 8)
      (r.1.setWidth 64, r.2)
    else if k = 0x10 then mbxReadLock s (agentId a) m
    else if k = 0x14 ∨ k = 0x44 ∨ k = 0x4C then (0, s)
    else (halfOf (regPeek s (agentWorld s a) slot) o n, s)
  else (halfOf (regPeek s (agentWorld s a) slot) o n, s)

/-! ## Writes -/

/-- The bits of the slot that an access covers, and the value moved there. -/
def writeMask (o n : Nat) : Word := if n = 8 then 0xFFFFFFFFFFFFFFFF#64 else (0xFFFFFFFF : Word) <<< (8 * (o % 8))
def writeVal (v : Word) (o n : Nat) : Word := if n = 8 then v else (v &&& 0xFFFFFFFF) <<< (8 * (o % 8))

/-- A write by the row's access codes; an NS write that would change an S-only field is logged (15 R489). -/
def rowWrite (s : State) (a : Agent) (slot bytes : Nat) (v mask : Word) : State :=
  match regRow? slot with
  | some r =>
    let w := agentWorld s a
    let old := ctlGet s slot
    let s := if r.violates w old v mask then noteField s a slot bytes else s
    ctlSet s slot (r.write w old v mask)
  | none => s

/-- A field whose reserved values leave it as it is (R13): the mask without its bits where `bad`. -/
def keepIf (mask field : Word) (bad : Bool) : Word := if bad then mask &&& ~~~field else mask

/-- The sequence table (09 R348): fields are written from the entry's world, the world bit from S. -/
def seqWrite (s : State) (a : Agent) (slot bytes : Nat) (v mask : Word) : State :=
  let k := (slot - rSeq 0) / 32
  let ew : World := if (ctlGet s (seqCtl k)).getLsbD 2 then .s else .ns
  let w := agentWorld s a
  let isCtl := slot == seqCtl k
  let fields : Word := match regRow? slot with
    | some r => r.rw
    | none => 0
  let allowed : Word := (if w = ew then fields else 0) ||| (if isCtl && w == .s then 4 else 0)
  let mask := keepIf mask 3 (isCtl && wbits v 0 2 == 3)
  let old := ctlGet s slot
  let all : Word := fields ||| (if isCtl then 4 else 0)
  let s := if w = .ns ∧ (old ^^^ v) &&& all &&& ~~~allowed &&& mask ≠ 0 then noteField s a slot bytes else s
  ctlSet s slot ((old &&& ~~~(allowed &&& mask)) ||| (v &&& allowed &&& mask))

/-- Whether an agent field of MBX_CFGm may hold a value (09 R351). -/
def agentListed (n : Nat) : Bool := n ≤ 1 || (0x10 ≤ n && n < 0x14) || (0x1000 ≤ n && n < 0xA080)

/-- MBX_CFGm: unlisted agents leave their field; an end that then needs attention is notified (09 R357). -/
def mbxCfgWrite (s : State) (m : Nat) (v mask : Word) : State :=
  let old := ctlGet s (rMbx m)
  let mask := keepIf mask 0xFFFF (!agentListed (wbits v 0 16))
  let mask := keepIf mask 0xFFFF0000 (!agentListed (wbits v 16 16))
  let mask := mask &&& 0x1FFFFFFFFFFF#64
  let new := (old &&& ~~~mask) ||| (v &&& mask)
  let s := ctlSet s (rMbx m) new
  if new = old then s else notify (notify s m 0) m 1

def mbxWrite (s : State) (a : Agent) (o n : Nat) (v : Word) : State :=
  let m := (o - 0x400000) / 0x100
  let k := (o - 0x400000) % 0x100
  let id := agentId a
  if k < 8 then mbxCfgWrite s m (writeVal v o n) (writeMask o n)
  else if k < 0x10 then mbxStatClear s m (writeVal v o n)
  else if k = 0x10 then mbxWriteLock s m (v.setWidth 16)
  else if k = 0x20 ∨ k = 0x28 then mbxPutWord s id m ((k - 0x20) / 8) (v.setWidth 32)
  else if k = 0x30 ∨ k = 0x38 then mbxCommitStaged s id m ((k - 0x30) / 8)
  else s

/-- DEV_ALARM.fault_hold is cleared by a write of 1, and set again while its condition holds (01 R47). -/
def faultHolds (s : State) : Bool := s.chain.st == .fenced || s.plat.bootFailed || s.plat.stop.isSome

def clearFaultHold (s : State) : State := { s with plat := { s.plat with faultHold := faultHolds s } }

/-- DEV_RECOVERY: the length, and go, which starts a check in a recovery boot with status 0 or 2 (15 Table 15-9). -/
def recoveryWrite (s : State) (v mask : Word) : State :=
  let old := ctlGet s rRecovery
  let m := mask &&& 0x7FFFFFF
  let new := (old &&& ~~~m) ||| (v &&& m)
  let st := wbits old 30 2
  if (v &&& mask).getLsbD 29 && s.plat.recovery && (st == 0 || st == 2) then ctlSet s rRecovery (wput new 30 2 1)
  else ctlSet s rRecovery new

/-- The descriptor that a refused write names is one of the S world, whose events DEV_TASKSTAT does not record (09 R336). -/
def namesSecure (s : State) (w : World) (v : Word) : Bool :=
  w == .s && isSelf s (chainOf v) && addrWorld s none (localOf v) == .s

/-- DEV_TASKDB (09 R335): one 64-bit write is a token of the writer's world. -/
def taskdbWrite (s : State) (w : World) (n : Nat) (v : Word) : State :=
  if n ≠ 8 then taskStat s .ns 2
  else
    match sendToken s ⟨w, none⟩ (v.getLsbD 0) (v &&& ~~~1) (fun _ => .token) with
    | .applied _ s => s
    | .remote _ s => s
    | .refused _ s => if namesSecure s w v then s else taskStat s .ns 2

/-- ARR_SHAPE (06 R251): a write that changes the shape is recorded and pending. -/
def arrShapeReg (s : State) (l : Nat) (v mask : Word) : State :=
  let old := ctlGet s (rArrShape l)
  let new := (old &&& ~~~(mask &&& 1)) ||| (v &&& mask &&& 1)
  if new.getLsbD 0 = old.getLsbD 0 then s
  else
    (ctlSet s (rArrShape l) (new ||| 2)).modLathe l (fun x =>
      { x with arr := { x.arr with shapeQ := x.arr.shapeQ ++ [new.getLsbD 0] } })

/-- HIF_APCTL.base: bits below the BAR4 size act as 0. -/
def apctlWrite (s : State) (v mask : Word) : State :=
  let m := mask &&& 0xFFFFC0000000#64
  let new := (ctlGet s rApctl &&& ~~~m) ||| (v &&& m)
  ctlSet s rApctl ((new >>> (30 + s.host.bar4Log2)) <<< (30 + s.host.bar4Log2))

/-- A write of a register of the HIF_ block. -/
def hifWrite (s : State) (a : Agent) (slot n : Nat) (v mask : Word) : State :=
  if slot = rQ0Cfg then setupCfgWrite s 0 v mask
  else if slot = rQ0Cmd ∨ slot = rQ0Cpl then
    (if (ctlGet s rQ0Cfg).getLsbD 16 then s else rowWrite s a slot n v mask)
  else if slot = rApctl then apctlWrite s v mask
  else if slot = rDoorbell then doorbellWrite s (agentWorld s a) (agentId a) n v
  else if slot = rCpldb then cpldbWrite s (agentWorld s a) (agentId a) n v
  else rowWrite s a slot n v mask

/-- A write of a register of the DEV_ block. -/
def devWrite (s : State) (a : Agent) (slot n : Nat) (v mask : Word) : State :=
  if slot = rAlarm then (if (v &&& mask).getLsbD 0 then clearFaultHold s else s)
  else if slot = rRecovery then recoveryWrite s v mask
  else if slot = rTaskdb then taskdbWrite s (agentWorld s a) n v
  else if rSeq 0 ≤ slot ∧ slot < rSeq 512 then seqWrite s a slot n v mask
  else rowWrite s a slot n v mask

/-- A W1C write clears the copy of the writer's world. -/
def stickyWrite (s : State) (w : World) (k : Nat) (v : Word) : State :=
  if w = .s then { s with flt := { s.flt with stickyS := mmod s.flt.stickyS k 0 (fun x => x &&& ~~~v) } }
  else ctlSet s (rSticky k) (ctlGet s (rSticky k) &&& ~~~v)

/-- A write of a register of the MEM_ block. -/
def memRegWrite (s : State) (a : Agent) (slot n : Nat) (v mask : Word) : State :=
  if slot = rMemMode then (if a = .host then s else memModeWriteReg s v mask)
  else if slot = rRinv then (if (v &&& mask).getLsbD 0 then rinvGo s else s)
  else if slot = rRatdef then ratdefWriteReg s a n v mask
  else if 0x701000 ≤ slot ∧ slot < 0x702000 then ratWriteReg s a slot n v mask
  else rowWrite s a slot n v mask

/-- A write of a register of the SEC_ block, by an S agent. -/
def secWrite (s : State) (a : Agent) (slot n : Nat) (v mask : Word) : State :=
  if slot < rSecCtl then worldWriteReg s ((slot - 0x800000) / 8) v mask
  else if slot = rVstat then (if (v &&& mask).getLsbD 13 then vstatClear s else s)
  else if slot = rQ1Cfg then setupCfgWrite s 1 v mask
  else if slot = rQ1Cmd ∨ slot = rQ1Cpl then
    (if (ctlGet s rQ1Cfg).getLsbD 16 then s else rowWrite s a slot n v mask)
  else rowWrite s a slot n v mask

/-- A write that reaches its slot: `n` bytes of `v` at offset `o`. -/
def regWrite (s : State) (a : Agent) (o n : Nat) (v : Word) : State :=
  let s := wakeFor s o
  let slot := o / 8 * 8
  let mask := writeMask o n
  let w := writeVal v o n
  if o < 0x100000 then hifWrite s a slot n w mask
  else if o < 0x200000 then devWrite s a slot n w mask
  else if o < 0x300000 then s
  else if o < 0x400000 then (if slot < rFltSeq then stickyWrite s (agentWorld s a) ((slot - 0x300000) / 8) w else s)
  else if o < 0x500000 then (if o < rMbx 64 then mbxWrite s a o n v else s)
  else if o < 0x600000 then
    rowWrite s a slot n w
      (if slot = rChnCtl then keepIf mask 0xFF00 (wbits w 8 8 < 2 || 64 < wbits w 8 8) else mask)
  else if o < 0x700000 then rowWrite s a slot n w mask
  else if o < 0x800000 then memRegWrite s a slot n w mask
  else if o < 0x900000 then secWrite s a slot n w mask
  else
    match blockLathe o with
    | some l => if slot = rArrShape l then arrShapeReg s l w mask else rowWrite s a slot n w mask
    | none => s

/-! ## The secure-only control range (15 R503) -/

/-- A read of `n` bytes at offset `o` of the secure-only range. -/
def secRangeRead (s : State) (o n : Nat) : Word :=
  if o < 0x200 then halfOf (((meas s (o / 0x40)) >>> (64 * (o / 8 % 8))).setWidth 64) o n else 0

/-- A write there. A half write of SEC_EXTEND acts on that half (00 R9); the other half, which reads as 0, is 0. -/
def secRangeWrite (s : State) (o n : Nat) (v : Word) : State :=
  if o / 8 * 8 = 0x200 then secExtendReg s (writeVal v o n) else s

/-! ## Writes by an agent of this device or the host, outside core instructions -/

/-- An unsupported request that is logged through Advanced Error Reporting (10 R363, R367). -/
def logAer (s : State) : State := emit { s with host := { s.host with aer := s.host.aer ||| 0x100000 } } .aer

/-- A refused write: logged where it is an NS access to an S block, and for the host through AER where the link shows it
(09 R359, 01 R26). -/
def refusedWrite (s : State) (a : Agent) (o n : Nat) (v : Word) : RegFail → State
  | .world => logVio s (BitVec.ofNat 64 (0x300000000000 + o)) (agentId a) 0 1 n
  | .mbxOff _ => if a = .host then logAer s else s
  | .island => if a = .host then logAer s else s
  | .absent => if a = .host then logAer s else s
  | .width =>
    -- a doorbell that is no aligned 64-bit write (10 R375, R377)
    if o / 8 * 8 = rDoorbell then doorbellWrite s (agentWorld s a) (agentId a) 0 (v <<< (8 * (o % 8)))
    else if o / 8 * 8 = rCpldb then cpldbWrite s (agentWorld s a) (agentId a) 0 (v <<< (8 * (o % 8)))
    else s

/-- Before DEV_READY the host reaches only the DEV_ block (17 R530); the link must be up. -/
def hostReaches (s : State) (o : Nat) : Bool :=
  s.host.linkUp && (s.plat.ready || (decide (0x100000 ≤ o) && decide (o < 0x200000)))

def agentWrite (s : State) (a : Agent) (o n : Nat) (v : Word) : State :=
  if a = .host ∧ !hostReaches s o then s
  else
    match regGate s (agentWorld s a) o n with
    | some f => refusedWrite s a o n v f
    | none => regWrite s a o n v

/-- In A4 the host's accesses, but for those R513 names, are held in order and wake the device. -/
def hold (s : State) (a : Agent) (p : Posted) (k : State) : State :=
  if a = .host ∧ s.host.linkUp ∧ s.pwr.standby then { s with pwr := { s.pwr with posted := s.pwr.posted ++ [p], waking := true } }
  else if a = .host ∧ s.host.linkUp ∧ !clockOn s (.hostComplex 0) then { s with pwr := { s.pwr with posted := s.pwr.posted ++ [p] } }
  else k

/-- A register write commanded by an agent: held in A4, else performed. -/
def regCommand (s : State) (a : Agent) (o n : Nat) (v : Word) : State := hold s a (.regWrite false o n v) (agentWrite s a o n v)

end Sys2Proof.Machine
end

