-- ==== Sys2Proof/Machine/MemOps.lean ====
section
/-!
DEFINITION. Loads, stores, atomics and FENCE (02 R71 to R73, R79 to R81, R551), and the memory events of a thread: the arrival
of load data, the draining of its store buffer, the completion of a write, the filling of its core's instruction cache.
-/

namespace Sys2Proof.Machine

/-! ## The thread's own order (02 R57) -/

/-- The byte that the latest entry of a store buffer holds for byte `a`. -/
def storedByte (s : State) (t : Tid) (sb : List StoreEnt) (a : Nat) : Option Byte :=
  sb.foldl (fun (o : Option Byte) e =>
    let b := canon s t e.addr
    if b ≤ a ∧ a < b + e.data.length then e.data[a - b]? else o) none

/-- Bytes that a load takes from the thread's own store buffer. -/
def forwards (s : State) (t : Tid) (w : Word) (n : Nat) : List (Nat × Byte) :=
  (List.range n).filterMap (fun k =>
    (storedByte s t (s.thr t).sbuf (canon s t w + k)).map (fun b => (w.toNat + k, b)))

/-- An entry that touches any of `n` bytes at `w`. -/
def entryAt (s : State) (t : Tid) (w : Word) (n : Nat) (e : StoreEnt) : Bool :=
  overlaps (canon s t e.addr) e.data.length (canon s t w) n

/-- Before a store of the thread is performed: the state in which its turn at its bank has come, or the wait that stops it. -/
def storeTurn (s : State) (t : Tid) (e : StoreEnt) : Option Wait × State :=
  if isSelf s (chainOf e.addr) then
    match placeOf s t e.addr with
    | .ram a =>
      let b := bankOf s a
      let s1 := serveAhead s (some t) (some b) s.mem.presented a e.data.length
      if memBusy s a then (some .memory, s)
      else if bankFull s t.lathe.val b then (some .bank, bankRefuse s t b true)
      else if stuckBehind s1 (some t) (some b) s.mem.presented a e.data.length then (some (.loadData true), s)
      else (none, s1)
    | .asleep l => (some (.wake l), wakeLathe s l)
    | _ => (none, s)
  else (none, s)

/-- Perform a store whose turn has come: at local memory, at a register, or as a WRITE to another device. A store whose memory is
gone since it issued meets an error response (01 R26). `counts`: it holds a place of its bank's queue. -/
def performStore (s : State) (t : Tid) (e : StoreEnt) (counts : Bool := true) : State :=
  let pend (x : InFlight) : State := s.modThr t (fun y => { y with inflight := y.inflight ++ [x] })
  if isSelf s (chainOf e.addr) then
    match placeOf s t e.addr with
    | .ram a => memWrite (coreWrite (pend ⟨none, if counts then some (bankOf s a) else none⟩) t.lathe.val t.core.val (tkey t) a) a e.data
    | .ctl off => agentWrite s (.thread t) off e.data.length (BitVec.ofNat 64 (leNat e.data))
    | .sec off => secRangeWrite s off e.data.length (BitVec.ofNat 64 (leNat e.data))
    | _ => lateTrap s t (e.late xVmem)
  else
    let s := storeCopies (pend ⟨some s.chain.nextTag, none⟩) e.addr e.data
    (request s (chainOf e.addr) pWrite (BitVec.ofNat 48 (localOf e.addr)) 0xFFFFFFFFFFFFFFFF#64 e.data (fun _ => .store t e)).2

/-- Perform the `n` oldest entries of the store buffer in order; the wait that stops one of them, if any. -/
def drainN (s : State) (t : Tid) : Nat → Option Wait × State
  | 0 => (none, s)
  | n + 1 =>
    match (s.thr t).sbuf with
    | [] => (none, s)
    | e :: r =>
      match storeTurn s t e with
      | (some w, s) => (some w, s)
      | (none, s) => drainN (performStore (s.modThr t (fun x => { x with sbuf := r })) t e) t n

/-- Number of entries up to the last one that `p` selects. -/
def upTo (p : StoreEnt → Bool) (sb : List StoreEnt) : Nat :=
  (indexed sb).foldl (fun n e => if p e.2 then e.1 + 1 else n) 0

/-- An entry addressed to control space. -/
def toControl (s : State) (t : Tid) (e : StoreEnt) : Bool :=
  isSelf s (chainOf e.addr) &&
    match placeOf s t e.addr with
    | .ctl _ => true
    | .sec _ => true
    | _ => false

/-- First perform the entries up to the last that `p` selects, then go on. -/
def afterDrain (s : State) (t : Tid) (p : StoreEnt → Bool) (k : State → Res) : Res :=
  match drainN s t (upTo p (s.thr t).sbuf) with
  | (some w, s) => .wait w s
  | (none, s) => k s

/-! ## Shapes -/

/-- The address lies in control space or the secure-only range of this device. -/
def isControl (s : State) (t : Tid) (w : Word) : Bool :=
  isSelf s (chainOf w) &&
    match placeOf s t w with
    | .ctl _ => true
    | .sec _ => true
    | _ => false

/-- The trap of a core's access that reaches no register (08 R296, 09 R359, 01 R26). -/
def regTrap (s : State) (t : Tid) (w : Word) (kind size : Nat) : RegFail → Res
  | .width => .trap xAlign w s
  | .absent => .trap xVmem w s
  | .world => .trap xWorld w (noteWorld s t w kind size)
  | .mbxOff m => .trap xMbxErr (BitVec.ofNat 64 m) s
  | .island => .trap xVmem w s

/-- Why an access to a register of this device does not issue. -/
def regCheck (s : State) (t : Tid) (a : Word) (size : Nat) : Option RegFail :=
  if isSelf s (chainOf a) then
    match placeOf s t a with
    | .ctl off => regGate s (agentWorld s (.thread t)) off size
    | _ => none
  else none

/-- A closed mailbox comes behind the fence in the order of causes (02 R93). -/
def RegFail.behindFence : RegFail → Bool
  | .mbxOff _ => true
  | _ => false

/-- The checks of a data access in the order of 02 R93, those of a register it addresses among them, its refusal logged where an S
resource refused it; `k` goes on with an address that passed. `mem`: only memory serves it. `gate`: what the register it
addresses answers. -/
def withAccess (s : State) (t : Tid) (p : Perm) (kind : Nat) (a : Word) (size : Nat) (mem : Bool) (gate : Option RegFail)
    (k : State → Option (BitVec 16) → Res) : Res :=
  let refuse (c : Nat) (v : Word) : Res := .trap c v (if c = xWorld then noteWorld s t v kind size else s)
  match checkData s t p a size mem, gate with
  | .trap c v, some e => if c = xFenced ∧ !e.behindFence then regTrap s t a kind size e else refuse c v
  | .trap c v, none => refuse c v
  | .wake l, _ => .wait (.wake l) (wakeLathe s l)
  | .remote dst, _ => k s (some dst)
  | .ok, some e => regTrap s t a kind size e
  | .ok, none => k s none

/-- List a load whose instruction has just issued: two more instructions issue before its value is visible. The count is 3
because the instruction itself is counted when it moves the PC. -/
def pushLoad (s : State) (t : Tid) (p : PendLoad) : State := s.modThr t (fun x => { x with loads := x.loads ++ [p] })

/-- A load or atomic as its instruction issues it. -/
def newLoad (x : Thread) (f : Fld) (op size : Nat) (signed : Bool) (amo : Option (AmoKind × Word × Word)) : PendLoad :=
  { dst := f.d.toNat, cnt := 3, addr := effAddr x f, size := size, signed := signed, amo := amo, fwd := [], val := none
    tag := none, pc := x.pc, inst := insWord op f, inTrap := x.tl
    rep := x.rep.map (fun r => (r, x.rg r.step)) }

/-- The bank queue that a core's access to local byte `r` meets: none where its L1 data cache holds the line of a load. -/
def bankMet (s : State) (t : Tid) (r : Nat) (home : Bool) : Option Nat :=
  if home then some (bankOf s r)
  else if dHas (mget s.caches.l1d (l1Key (ckey t.lathe.val t.core.val) (r / 64)) []) (r / 64) then none
  else if lmHas s t.lathe.val (r / 64) then some (t.lathe.val * 32 + r / 64 % 32)
  else some (bankOf s r)

/-- A memory request of thread `t` to local byte `r`: it waits for a row copy or a full bank queue; `k` goes on with the queue
that accepts it and its age. -/
def memRequest (s : State) (t : Tid) (r : Nat) (home : Bool) (k : State → Option Nat → Nat → Res) : Res :=
  let b := bankMet s t r home
  let fresh : Res := k { s with mem := { s.mem with presented := s.mem.presented + 1 } } b s.mem.presented
  if memBusy s r then .wait .memory s
  else
    match b, (s.thr t).bankGrant with
    | none, _ => fresh
    | some b, some g =>
      if g.1 = b then k s (some b) g.2 else if bankFull s t.lathe.val b then .wait .bank (bankRefuse s t b false) else fresh
    | some b, none => if bankFull s t.lathe.val b then .wait .bank (bankRefuse s t b false) else fresh

/-! ## Loads -/

/-- A load from another device: from this die's copy of the line, or by a READ of the bytes or of the whole line. -/
def remoteLoad (s : State) (t : Tid) (dst : BitVec 16) (p : PendLoad) : State :=
  match (if rcacheAt s p.addr then copyOf s t p.addr else none) with
  | some c =>
    let d := (c.data.drop (p.addr.toNat % 64)).take p.size
    pushLoad (copyHit s t p.addr) t { p with val := some (extend p.size p.signed (leNat (forward p d))) }
  | none =>
    let line := rcacheAt s p.addr
    let a := if line then localOf p.addr / 64 * 64 else localOf p.addr
    let n := if line then 64 else p.size
    let s := pushLoad s t { p with tag := some s.chain.nextTag }
    (request s dst pRead (BitVec.ofNat 48 a) 0 (leBytes 2 n) (fun _ => .load t)).2

/-- d := load of `size` bytes from the effective address. -/
def loadBody (op size : Nat) (signed : Bool) (t : Tid) (f : Fld) : Body :=
  plain (fieldsOk .g .g .z f) fun s =>
    let x := s.thr t
    let a := effAddr x f
    let p := { newLoad x f op size signed none with fwd := forwards s t a size }
    let ctlSize := size == 4 || size == 8
    if isControl s t a && !ctlSize then .trap xAlign a s
    else
      withAccess s t .r 0 a size false (regCheck s t a size) fun s dst =>
        match dst with
        | some d => .ok (remoteLoad s t d p)
        | none =>
          match placeOf s t a with
          | .ctl off => afterDrain s t (toControl s t) fun s =>
              let r := regRead s (.thread t) off size
              .ok (pushLoad r.2 t { p with val := some (extend size signed r.1.toNat) })
          | .sec off => afterDrain s t (toControl s t) fun s =>
              .ok (pushLoad s t { p with val := some (extend size signed (secRangeRead s off size).toNat) })
          | .ram r => memRequest s t r false fun s b age =>
              .ok (pushLoad (coreRead s t.lathe.val t.core.val r) t { p with bank := b, age := age })
          | _ => .trap xVmem a s

/-- LDB (02 R79). -/
def bodyLdb (t : Tid) (f : Fld) : Body := loadBody 0x080 1 true t f
def execLdb (t : Tid) (f : Fld) (s : State) : Oc := issue t 0x080 f (bodyLdb t f) s

/-- LDH (02 R79). -/
def bodyLdh (t : Tid) (f : Fld) : Body := loadBody 0x081 2 true t f
def execLdh (t : Tid) (f : Fld) (s : State) : Oc := issue t 0x081 f (bodyLdh t f) s

/-- LDW (02 R79). -/
def bodyLdw (t : Tid) (f : Fld) : Body := loadBody 0x082 4 true t f
def execLdw (t : Tid) (f : Fld) (s : State) : Oc := issue t 0x082 f (bodyLdw t f) s

/-- LDD (02 R79). -/
def bodyLdd (t : Tid) (f : Fld) : Body := loadBody 0x083 8 false t f
def execLdd (t : Tid) (f : Fld) (s : State) : Oc := issue t 0x083 f (bodyLdd t f) s

/-- LDBU (02 R79). -/
def bodyLdbu (t : Tid) (f : Fld) : Body := loadBody 0x084 1 false t f
def execLdbu (t : Tid) (f : Fld) (s : State) : Oc := issue t 0x084 f (bodyLdbu t f) s

/-- LDHU (02 R79). -/
def bodyLdhu (t : Tid) (f : Fld) : Body := loadBody 0x085 2 false t f
def execLdhu (t : Tid) (f : Fld) (s : State) : Oc := issue t 0x085 f (bodyLdhu t f) s

/-- LDWU (02 R79). -/
def bodyLdwu (t : Tid) (f : Fld) : Body := loadBody 0x086 4 false t f
def execLdwu (t : Tid) (f : Fld) (s : State) : Oc := issue t 0x086 f (bodyLdwu t f) s

/-! ## Stores -/

/-- Put a store in the thread's store buffer. -/
def pushStore (s : State) (t : Tid) (e : StoreEnt) : State := s.modThr t (fun x => { x with sbuf := x.sbuf ++ [e] })

/-- The low `size` bytes of s2 go to the effective address. A store of 1 or 2 bytes to control space is dropped (R10), and one to
MEM_MODE at a level that may not set it (00 Table 0-3). -/
def storeBody (op size : Nat) (t : Tid) (f : Fld) : Body :=
  plain (fieldsOk .z .g .g f) fun s =>
    let x := s.thr t
    let a := effAddr x f
    let e : StoreEnt := ⟨a, leBytes size (x.rg f.s2.toNat).toNat, x.pc, insWord op f, x.tl⟩
    if isControl s t a && !(size == 4 || size == 8) then
      withAccess s t .w 1 a size false none fun s _ => .ok s
    else
      withAccess s t .w 1 a size false (regCheck s t a size) fun s _ =>
        if isControl s t a && localOf a / 8 * 8 == 0x300000000000 + rMemMode && !mayMode s (.thread t) then .ok s
        else if 8 ≤ (s.thr t).sbuf.length then .wait .storeBuffer s
        else .ok (pushStore s t e)

/-- STB (02 R72). -/
def bodyStb (t : Tid) (f : Fld) : Body := storeBody 0x088 1 t f
def execStb (t : Tid) (f : Fld) (s : State) : Oc := issue t 0x088 f (bodyStb t f) s

/-- STH (02 R72). -/
def bodySth (t : Tid) (f : Fld) : Body := storeBody 0x089 2 t f
def execSth (t : Tid) (f : Fld) (s : State) : Oc := issue t 0x089 f (bodySth t f) s

/-- STW (02 R72). -/
def bodyStw (t : Tid) (f : Fld) : Body := storeBody 0x08A 4 t f
def execStw (t : Tid) (f : Fld) (s : State) : Oc := issue t 0x08A f (bodyStw t f) s

/-- STD (02 R72). -/
def bodyStd (t : Tid) (f : Fld) : Body := storeBody 0x08B 8 t f
def execStd (t : Tid) (f : Fld) (s : State) : Oc := issue t 0x08B f (bodyStd t f) s

/-! ## Atomics (02 R551) -/

/-- An ATOMIC's operands: s2's value, then for CAS the compared value. -/
def amoPayload (k : AmoKind) (size : Nat) (src cmp : Word) : List Byte :=
  leBytes size src.toNat ++ (if k = .cas then leBytes size cmp.toNat else [])

/-- d := the value at the effective address, which the atomic replaces there (02 R551). -/
def amoBody (op : Nat) (k : AmoKind) (size : Nat) (t : Tid) (f : Fld) : Body :=
  plain (fieldsOk .g .g .g f) fun s =>
    let x := s.thr t
    let a := effAddr x f
    let src := x.rg f.s2.toNat
    let cmp := x.rg f.d.toNat
    let p := newLoad x f op size (size == 4) (some (k, src, cmp))
    withAccess s t .rw 3 a size true none fun s dst =>
      afterDrain s t (entryAt s t a size) fun s =>
        match dst with
        | some d =>
          let s := pushLoad (dropCopies s a size) t { p with tag := some s.chain.nextTag }
          .ok (request s d pAtomic (BitVec.ofNat 48 (localOf a)) (BitVec.ofNat 64 op) (amoPayload k size src cmp)
            (fun _ => .load t)).2
        | none => memRequest s t (canon s t a) true fun s b age => .ok (pushLoad s t { p with bank := b, age := age })

/-- AMOADD.W (02 R551). -/
def bodyAmoaddW (t : Tid) (f : Fld) : Body := amoBody 0x090 .add 4 t f
def execAmoaddW (t : Tid) (f : Fld) (s : State) : Oc := issue t 0x090 f (bodyAmoaddW t f) s

/-- AMOADD.D (02 R551). -/
def bodyAmoaddD (t : Tid) (f : Fld) : Body := amoBody 0x091 .add 8 t f
def execAmoaddD (t : Tid) (f : Fld) (s : State) : Oc := issue t 0x091 f (bodyAmoaddD t f) s

/-- AMOSWAP.W (02 R551). -/
def bodyAmoswapW (t : Tid) (f : Fld) : Body := amoBody 0x092 .swap 4 t f
def execAmoswapW (t : Tid) (f : Fld) (s : State) : Oc := issue t 0x092 f (bodyAmoswapW t f) s

/-- AMOSWAP.D (02 R551). -/
def bodyAmoswapD (t : Tid) (f : Fld) : Body := amoBody 0x093 .swap 8 t f
def execAmoswapD (t : Tid) (f : Fld) (s : State) : Oc := issue t 0x093 f (bodyAmoswapD t f) s

/-- CAS.W (02 R551). -/
def bodyCasW (t : Tid) (f : Fld) : Body := amoBody 0x094 .cas 4 t f
def execCasW (t : Tid) (f : Fld) (s : State) : Oc := issue t 0x094 f (bodyCasW t f) s

/-- CAS.D (02 R551). -/
def bodyCasD (t : Tid) (f : Fld) : Body := amoBody 0x095 .cas 8 t f
def execCasD (t : Tid) (f : Fld) (s : State) : Oc := issue t 0x095 f (bodyCasD t f) s

/-! ## FENCE (02 R73) -/

def clearIcache (s : State) (l c : Nat) : State := s.modCore l c (fun x => { x with icache := [] })

def bodyFence (t : Tid) (f : Fld) : Body :=
  plain (fieldsOk .z .z .z f && immBelow f 1) fun s =>
    if released s t .fence then .ok (if f.imm = 1 then clearIcache s t.lathe.val t.core.val else s) else .wait .fence s

def execFence (t : Tid) (f : Fld) (s : State) : Oc := issue t 0x0A0 f (bodyFence t f) s

/-! ## Vector stores (03 R124, R129 to R131) -/

/-- A trap of the instruction that a thread still waits at, in a repeat or outside one. -/
def trapAtWait (s : State) (t : Tid) (c : Nat) (v inst : Word) : State :=
  let x := s.thr t
  if allArrived x then
    let s := takeTrap s t c v x.pc inst (x.rep.map (fun r => r.n))
    if (s.thr t).st = .waiting .doubleTrap then s else makeReady s t
  else leave s t (.waiting (.loadData true))

/-- The element of a vector store: a store of its own. -/
def VecStore.ent (v : VecStore) (x : Thread) (e : Nat × Word × List Byte) : StoreEnt := ⟨e.2.1, e.2.2, x.pc, v.inst, x.tl⟩

/-- An element of this device, once its turn has come: a run of elements holds one place of each bank it goes to. -/
def storeElem (s : State) (t : Tid) (v : VecStore) (e : Nat × Word × List Byte) : Option State :=
  let ent := v.ent (s.thr t) e
  let done (s : State) : State := s.modThr t (fun x => { x with vst := some { v with elems := v.elems.drop 1, last := some e.2.1 } })
  match placeOf s t e.2.1 with
  | .ram a =>
    let b := bankOf s a
    let s1 := serveAhead s (some t) (some b) s.mem.presented a e.2.2.length
    if memBusy s a || stuckBehind s1 (some t) (some b) s.mem.presented a e.2.2.length then none
    else some (done (performStore s1 t ent (v.last.all (fun w => canon s t w / 64 != a / 64))))
  | .asleep _ => none
  | _ => some (s.modThr t (fun x => { x with vst := some { v with elems := [], bad := some (e.1, xVmem, e.2.1) } }))

/-- Go on with a vector store until an answer is awaited or an element cannot be stored yet: probes first, then the elements in
order. -/
def pumpStore (t : Tid) : Nat → State → State
  | 0, s => s
  | n + 1, s =>
    match (s.thr t).vst with
    | none => s
    | some v =>
      let ask (s : State) (ty : Byte) (w ext : Word) (d : List Byte) : State :=
        let s := s.modThr t (fun x => { x with vst := some { v with tag := some s.chain.nextTag } })
        pumpStore t n (request s (chainOf w) ty (BitVec.ofNat 48 (localOf w)) ext d (fun _ => .vecStore t)).2
      if v.tag.isSome then s
      else
        match v.probes, v.elems with
        | p :: _, _ => ask s pRead p.2 0 (leBytes 2 1)
        | [], e :: _ =>
          if !isSelf s (chainOf e.2.1) then ask (storeCopies s e.2.1 e.2.2) pWrite e.2.1 0xFFFFFFFFFFFFFFFF#64 e.2.2
          else
            (match storeElem s t v e, placeOf s t e.2.1 with
              | some s, _ => pumpStore t n s
              | none, .asleep l => wakeLathe s l
              | none, _ => s)
        | [], [] => s

/-- Every element is stored, or the first that cannot be is known. -/
def VecStore.settled (v : VecStore) : Bool := v.tag.isNone && v.probes.isEmpty && v.elems.isEmpty

/-- What a vector store that is over leaves: VPROG of a scatter at its failing element, or 0 (03 R129, R132). -/
def VecStore.close (v : VecStore) (x : Thread) : Thread :=
  { x with
    vst := none
    vprog := if v.scatter then (match v.bad with
      | some b => BitVec.ofNat 5 b.1
      | none => 0) else x.vprog }

/-- A vector store whose thread waits goes on, and ends when it is over. -/
def settleStore (s : State) (t : Tid) : State :=
  let s := pumpStore t 64 s
  match (s.thr t).vst with
  | some v =>
    if !v.settled || (s.thr t).st != .waiting .vecStore then s
    else
      match v.bad with
      | none => completeWait (s.modThr t v.close) t
      | some (_, c, w) =>
        let x := s.thr t
        trapAtWait (if x.tl && !x.nest then s.modThr t (fun x => { x with vst := none }) else s.modThr t v.close) t c w v.inst
  | none => s

/-! ## Memory events -/

/-- STORE_BUFFER_DRAIN: the oldest entry is performed and leaves the buffer; a vector store goes on. -/
def execStoreBufferDrain (t : Tid) (s : State) : Oc :=
  if clockRuns s t then .next (wakeIf (settleStore (drainN s t 1).2 t) t) else .next s

/-- WRITE_COMPLETE: the oldest performed write to this device is complete (08 R313). -/
def execWriteComplete (t : Tid) (s : State) : Oc :=
  .next (wakeIf (s.modThr t (fun x => { x with inflight := x.inflight.eraseP (fun q => q.tag.isNone) })) t)

/-- The loads and atomics of this device whose data has not arrived: positions in the list, oldest first. -/
def unarrived (x : Thread) : List (Nat × PendLoad) := (indexed x.loads).filter (fun p => p.2.val.isNone && p.2.tag.isNone)

/-- The value that a served request brings, or that its bank, which serves the older requests first, gives it now. -/
def bring (s : State) (t : Tid) (p : PendLoad) : Option (Word × State) :=
  match p.got with
  | some v => some (v, s)
  | none =>
    let a := canon s t p.addr
    let s1 := serveAhead s (some t) p.bank p.age a p.size
    if memBusy s a || stuckBehind s1 (some t) p.bank p.age a p.size then none else some (arriveValue s1 t p)

/-- LOAD_DATA_ARRIVAL: the data of the `slot`-th such load arrives. A request whose lathe has gone meets an error response
(01 R25, R26); one to a lathe that sleeps wakes it. -/
def execLoadDataArrival (t : Tid) (slot : Fin 2) (s : State) : Oc :=
  let x := s.thr t
  match (unarrived x)[slot.val]? with
  | none => .next s
  | some (k, p) =>
    if !clockRuns s t || x.st == .waiting .poison then .next s
    else
      match p.got.isSome, placeOf s t p.addr with
      | false, .asleep l => .next (wakeLathe s l)
      | false, .none_ =>
        .next (wakeIf (lateTrap (s.setThr t { x with loads := x.loads.eraseIdx k }) t (p.late xVmem)) t)
      | got, _ =>
        if !got && (poisonAt s (canon s t p.addr) p.size).isSome then .next (meetPoison s t p.addr)
        else
          match bring s t p with
          | none => .next s
          | some (v, s1) =>
            let put (y : Thread) : Thread := { y with loads := y.loads.map (fun q =>
              if q.age = p.age ∧ q.val.isNone ∧ q.tag.isNone then { q with got := none, val := some v } else q) }
            .next (wakeIf (s1.modThr t put) t)

/-- BANK_ACCEPT: the queue accepts the requester's earliest refused request (08 R325). A store is performed; a load or atomic
issues. -/
def execBankAccept (bank requester : Nat) (s : State) : Oc :=
  match s.mem.bankWait.find? (fun b => b.bank == bank && b.requester == requester) with
  | none => .next s
  | some b =>
    let u := b.thread
    let freed : State := { s with mem := { s.mem with bankWait := s.mem.bankWait.erase b } }
    let awake (s : State) : State := if (s.thr u).st = .waiting .bank then makeReady s u else s
    if 8 ≤ bankLoad s requester bank + bankGrants s requester bank then .next s
    else if !b.store then .next (awake (freed.modThr u (fun x => { x with bankGrant := some (bank, b.age) })))
    else
      match (s.thr u).sbuf with
      | [] => .next (awake freed)
      | e :: r =>
        let a := canon s u e.addr
        let s1 := serveAhead freed (some u) (some bank) b.age a e.data.length
        if memBusy s a || stuckBehind s1 (some u) (some bank) b.age a e.data.length then .next s
        else .next (awake (performStore (s1.modThr u (fun x => { x with sbuf := r })) u e))

/-! ## The instruction cache (08 R317) -/

def sweep (ws : List Way) : List Way :=
  ws.map (fun w => if w.ref then { w with ref := false } else { w with age := min (w.age + 1) 3 })

/-- The victim of a full set: at most four sweeps find one. -/
def victim : Nat → List Way → Nat × List Way
  | 0, ws => (0, ws)
  | n + 1, ws =>
    match ws.findIdx? (fun w => !w.ref && w.age == 3) with
    | some k => (k, ws)
    | none => victim n (sweep ws)

/-- Fill a line into the instruction cache of a core: 64 sets of 4 ways. -/
def icFill (c : Core) (line : Nat) (stream : Bool) : Core :=
  let ws := mget c.icache (line % 64) []
  let w : Way := if stream then ⟨line / 64, false, 3⟩ else ⟨line / 64, true, 0⟩
  let new : List Way :=
    if ws.length < 4 then ws ++ [w]
    else
      let v := victim 6 ws
      listSet w v.2 v.1 w
  { c with icache := mset c.icache (line % 64) new }

/-- FETCH_FILL: the line that the thread waits for arrives (02 R54). A UC line is not kept (08 R306). -/
def execFetchFill (t : Tid) (s : State) : Oc :=
  match (s.thr t).st with
  | .waiting (.fetch next) =>
    let l := lineOf t ((s.thr t).pc + (if next then 8 else 0))
    if icHit (s.core t.lathe.val t.core.val) l then .next (wakeIf s t)
    else if memBusy s (l * 64) || !clockRuns s t then .next s
    else if (poisonAt s (l * 64) 64).isSome then .next (meetPoison s t (BitVec.ofNat 64 (l * 64)))
    else if (ratLookup s 0 (l * 64)).uc then .next (wakeIf (s.modThr t (fun x => { x with fetched := x.fetched ++ [l] })) t)
    else
      let stream := (ratLookup s 0 (l * 64)).stream
      .next (wakeIf (s.modCore t.lathe.val t.core.val (fun c => icFill c l stream)) t)
  | _ => .next s

end Sys2Proof.Machine
end

