-- ==== Sys2Proof/Machine/ThreadEvents.lean ====
section
/-!
DEFINITION. Events of a thread that no instruction makes: the timer, the taking of an interrupt (02 R94 to R97), and the end of
a long-latency instruction (02 R56).
-/

namespace Sys2Proof.Machine

/-- TIMER_EXPIRY: DEV_TIME has reached CORE_TCMP (02 Table 2-10). -/
def execTimerExpiry (t : Tid) (s : State) : Oc :=
  .next (if (s.thr t).tcmp.toNat ≤ s.plat.devTime.toNat then s.modThr t (fun x => { x with ipTim := true }) else s)

/-- Repetitions left of the repeat that an interrupt at this boundary leaves: one in progress, or one that XRET resumed. -/
def repLeft (x : Thread) : Option Nat :=
  match x.rep with
  | some r => some r.n
  | none => x.resume

/-- The word at the PC of a thread. -/
def wordAhead (s : State) (t : Tid) : Word :=
  BitVec.ofNat 64 (memNat s (cellOf (some t.lathe.val) (localOf (s.thr t).pc)) 8)

/-- No boundary inside REP.N qualifies, that at which XRET resumes one among them (02 R86, R87, R95). -/
def boundary (s : State) (t : Tid) : Bool :=
  match (s.thr t).rep with
  | some r => r.intr && !r.held
  | none => (s.thr t).resume.isNone || wordOp (wordAhead s t) != 0x0F1

/-- TAKE_INTERRUPT: at a boundary, or in an interruptible wait, whose instruction then has no effect (02 R95, R96). A late error of
an earlier access traps first; a thread bound to an instruction whose wait has ended takes no interrupt before it. -/
def execTakeInterrupt (t : Tid) (s : State) : Oc :=
  let x := s.thr t
  if !clockRuns s t || (s.lathe t.lathe.val).svc == .fenced || !boundary s t || x.bound then .next s
  else
    match irqOf s t with
    | none => .next s
    | some (cause, off) =>
      match x.st, lateDue x with
      | .running, some e => .next (lateTake s t e)
      | .running, none =>
        .next (if allArrived x then enter s t x.pc cause 0 0 off (repLeft x) else leave s t (.waiting (.loadData true)))
      | .waiting w, _ =>
        .next (if interruptible w && allArrived x then
            makeReady (enter (dropWaits s t) t x.pc cause 0 0 off (repLeft x)) t
          else s)
      | _, _ => .next s

/-- Write the register that a finished instruction leaves. -/
def Thread.settle (x : Thread) : Thread :=
  match x.result with
  | some (r, v) => { x.wg r v with result := none }
  | none => x

/-- The result of the instruction that a thread waits for is written, and the thread is released. -/
def deliver (s : State) (t : Tid) (w : Wait) : State :=
  if (s.thr t).st = .waiting w then makeReady (s.modThr t Thread.settle) t else s

/-- LONG_LATENCY_RESULT (02 R56). -/
def execLongLatencyResult (t : Tid) (s : State) : Oc := .next (if clockRuns s t then deliver s t .longLatency else s)

end Sys2Proof.Machine
end

