-- ==== Sys2Proof/Machine/ShortVector.lean ====
section
/-!
DEFINITION. Short-vector instructions (03 R107 to R133): elements of a 128-bit register under a lane mask.
-/

namespace Sys2Proof.Machine

/-! ## The extension field (03 Table 3-1) -/

def svEw (f : Fld) : Nat := nbits f.imm.toNat 30 2
def svFmt (f : Fld) : Nat := nbits f.imm.toNat 26 4
def svRm (f : Fld) : Nat := nbits f.imm.toNat 24 2
def svSub (f : Fld) : Nat := nbits f.imm.toNat 20 4
def svPos (f : Fld) : Nat := nbits f.imm.toNat 16 2
def svImm (f : Fld) : Nat := nbits f.imm.toNat 0 16

/-- Element width in bits, and number of elements. -/
def svW (f : Fld) : Nat := 2 ^ (svEw f + 3)
def svN (f : Fld) : Nat := 128 / svW f

/-- Fields that Table 3-2 lets an instruction use. -/
structure SvUse where
  fmt : Bool := false
  sub : Nat := 1
  pos : Bool := false
  imm : Nat := 1

/-- Fields outside Table 3-2 are 0; `sub` and `imm` lie below their bounds. A reserved code in `fmt` passes to R114
(DEDUCED, notes/assumptions/57.md). An `rm` that the instruction has no use for is ignored (DESIGN CHOICE,
notes/assumptions/62.md). -/
def svOk (f : Fld) (u : SvUse) : Bool :=
  nbits f.imm.toNat 18 2 == 0 && (u.fmt || svFmt f == 0 || fmtReserved (svFmt f)) && decide (svSub f < u.sub) &&
    (u.pos || svPos f == 0) && decide (svImm f < u.imm)

/-- Every opcode of this chapter is guarded by lanes, not by a scalar guard (03 R110). -/
def vecBody (legal : Bool) (act : State → Res) : Body := { plain legal act with vec := true }

/-! ## Elements (03 R108, R109) -/

/-- Element `i` of width `w`. -/
def elem (x : BitVec 128) (w i : Nat) : Nat := nbits x.toNat (w * i) w

/-- The register with element `i` of width `w` set to the low bits of `v`. -/
def putElem (x : BitVec 128) (w i v : Nat) : BitVec 128 :=
  BitVec.ofNat 128 (x.toNat - elem x w i * 2 ^ (w * i) + v % 2 ^ w * 2 ^ (w * i))

/-- Lane `i` is active. -/
def active (m : BitVec 16) (i : Nat) : Bool := m.getLsbD i

/-- Some lane below `n` is active. -/
def anyActive (m : BitVec 16) (n : Nat) : Bool := (List.range n).any (active m)

/-- `n` elements of width `w` by `g`; inactive ones keep their values. -/
def mapLanes (old : BitVec 128) (w n : Nat) (m : BitVec 16) (g : Nat → Nat) : BitVec 128 :=
  (List.range n).foldl (fun x i => if active m i then putElem x w i (g i) else x) old

/-- As `mapLanes`, with the flags of the active elements. -/
def mapLanesF (old : BitVec 128) (w n : Nat) (m : BitVec 16) (g : Nat → Nat × FFlags) : BitVec 128 × FFlags :=
  (List.range n).foldl (fun r i =>
    if active m i then let y := g i; (putElem r.1 w i y.1, r.2 ||| y.2) else r) (old, 0)

/-- A predicate whose bit `i` below `n` is `g i` in an active lane, and 0 elsewhere (03 R118). -/
def lanesPred (n : Nat) (m : BitVec 16) (g : Nat → Bool) : BitVec 16 :=
  (List.range n).foldl (fun (p : BitVec 16) i => if active m i && g i then p ||| BitVec.twoPow 16 i else p) 0

/-- A reserved format code in `fmt`, or in `sub` of VCVT, raises XC_FORMAT when one of lanes 0 to n - 1 is active (03 R114). -/
def withFormat (s : State) (t : Tid) (f : Fld) (code n : Nat) (k : Res) : Res :=
  if fmtReserved code && anyActive (laneMask (s.thr t) f) n then .trap xFormat (BitVec.ofNat 64 code) s else k

/-! ## Integer instructions (03 R115) -/

/-- v[d].e[i] := op w (v[s1].e[i]) (v[s2].e[i]) modulo 2^w. -/
def svInt (op : Nat → Nat → Nat → Nat) (t : Tid) (f : Fld) : Body :=
  vecBody (fieldsOk .v .v .v f && svOk f {}) fun s =>
    withFormat s t f (svFmt f) (svN f) (.ok (s.modThr t fun x =>
      let a := x.rv f.s1.toNat
      let b := x.rv f.s2.toNat
      x.wv f.d.toNat (mapLanes (x.rv f.d.toNat) (svW f) (svN f) (laneMask x f) (fun i =>
        op (svW f) (elem a (svW f) i) (elem b (svW f) i)))))

def evAdd (_w a b : Nat) : Nat := a + b
def evSub (w a b : Nat) : Nat := a + 2 ^ w - b
def evMul (_w a b : Nat) : Nat := a * b
def evAnd (_w a b : Nat) : Nat := a &&& b
def evOr (_w a b : Nat) : Nat := a ||| b
def evXor (_w a b : Nat) : Nat := a ^^^ b
def evShl (w a b : Nat) : Nat := a <<< (b % w)
def evShr (w a b : Nat) : Nat := a >>> (b % w)
def evSra (w a b : Nat) : Nat := unsignedOf w (signedOf w a / (2 ^ (b % w) : Nat))
def evMin (w a b : Nat) : Nat := if signedOf w a < signedOf w b then a else b
def evMax (w a b : Nat) : Nat := if signedOf w a < signedOf w b then b else a
def evMinu (_w a b : Nat) : Nat := min a b
def evMaxu (_w a b : Nat) : Nat := max a b

/-- VADD (03 R115). -/
def bodyVadd (t : Tid) (f : Fld) : Body := svInt evAdd t f
def execVadd (t : Tid) (f : Fld) (s : State) : Oc := issue t 0x100 f (bodyVadd t f) s

/-- VSUB (03 R115). -/
def bodyVsub (t : Tid) (f : Fld) : Body := svInt evSub t f
def execVsub (t : Tid) (f : Fld) (s : State) : Oc := issue t 0x101 f (bodyVsub t f) s

/-- VMUL (03 R115). -/
def bodyVmul (t : Tid) (f : Fld) : Body := svInt evMul t f
def execVmul (t : Tid) (f : Fld) (s : State) : Oc := issue t 0x102 f (bodyVmul t f) s

/-- VAND (03 R115). -/
def bodyVand (t : Tid) (f : Fld) : Body := svInt evAnd t f
def execVand (t : Tid) (f : Fld) (s : State) : Oc := issue t 0x103 f (bodyVand t f) s

/-- VOR (03 R115). -/
def bodyVor (t : Tid) (f : Fld) : Body := svInt evOr t f
def execVor (t : Tid) (f : Fld) (s : State) : Oc := issue t 0x104 f (bodyVor t f) s

/-- VXOR (03 R115). -/
def bodyVxor (t : Tid) (f : Fld) : Body := svInt evXor t f
def execVxor (t : Tid) (f : Fld) (s : State) : Oc := issue t 0x105 f (bodyVxor t f) s

/-- VSHL (03 R115). -/
def bodyVshl (t : Tid) (f : Fld) : Body := svInt evShl t f
def execVshl (t : Tid) (f : Fld) (s : State) : Oc := issue t 0x106 f (bodyVshl t f) s

/-- VSHR (03 R115). -/
def bodyVshr (t : Tid) (f : Fld) : Body := svInt evShr t f
def execVshr (t : Tid) (f : Fld) (s : State) : Oc := issue t 0x107 f (bodyVshr t f) s

/-- VSRA (03 R115). -/
def bodyVsra (t : Tid) (f : Fld) : Body := svInt evSra t f
def execVsra (t : Tid) (f : Fld) (s : State) : Oc := issue t 0x108 f (bodyVsra t f) s

/-- VMIN (03 R115). -/
def bodyVmin (t : Tid) (f : Fld) : Body := svInt evMin t f
def execVmin (t : Tid) (f : Fld) (s : State) : Oc := issue t 0x109 f (bodyVmin t f) s

/-- VMAX (03 R115). -/
def bodyVmax (t : Tid) (f : Fld) : Body := svInt evMax t f
def execVmax (t : Tid) (f : Fld) (s : State) : Oc := issue t 0x10A f (bodyVmax t f) s

/-- VMINU (03 R115). -/
def bodyVminu (t : Tid) (f : Fld) : Body := svInt evMinu t f
def execVminu (t : Tid) (f : Fld) (s : State) : Oc := issue t 0x10B f (bodyVminu t f) s

/-- VMAXU (03 R115). -/
def bodyVmaxu (t : Tid) (f : Fld) : Body := svInt evMaxu t f
def execVmaxu (t : Tid) (f : Fld) (s : State) : Oc := issue t 0x10C f (bodyVmaxu t f) s

/-! ## Floating point (03 R116, R117) -/

/-- Code and width of a VF operation: FP32 with ew 2, BF16 or FP16 with ew 1; a reserved code passes to R114. -/
def svFloatOk (f : Fld) : Bool :=
  fmtReserved (svFmt f) && (svEw f == 1 || svEw f == 2) || (svEw f == 2 && svFmt f == 0) ||
    (svEw f == 1 && (svFmt f == 1 || svFmt f == 2))

def svFormat (f : Fld) : FFmt := if svFmt f = 0 then fp32 else if svFmt f = 1 then bf16 else fp16

/-- The rounding of a short-vector instruction. -/
def svMode (x : Thread) (f : Fld) : RMode := plainMode (x.rmOf (svRm f))

/-- v[d].e[i] := op of v[s1].e[i], v[s2].e[i] and v[d].e[i], rounded once. -/
def svFloat (op : FVal → FVal → FVal → FVal × FFlags) (t : Tid) (f : Fld) : Body :=
  vecBody (fieldsOk .v .v .v f && svOk f { fmt := true } && svFloatOk f) fun s =>
    withFormat s t f (svFmt f) (svN f) (.ok (s.modThr t fun x =>
      let F := svFormat f
      let at_ (r i : Nat) : FVal := F.decode (elem (x.rv r) (svW f) i)
      let r := mapLanesF (x.rv f.d.toNat) (svW f) (svN f) (laneMask x f) (fun i =>
        let v := op (at_ f.s1.toNat i) (at_ f.s2.toNat i) (at_ f.d.toNat i)
        let c := F.deliver (svMode x f) v.1
        (c.1, v.2 ||| c.2))
      (x.wv f.d.toNat r.1).raise r.2))

/-- VFADD (03 R116). -/
def bodyVfadd (t : Tid) (f : Fld) : Body := svFloat (fun a b _ => a.add b) t f
def execVfadd (t : Tid) (f : Fld) (s : State) : Oc := issue t 0x110 f (bodyVfadd t f) s

/-- VFSUB (03 R116). -/
def bodyVfsub (t : Tid) (f : Fld) : Body := svFloat (fun a b _ => a.add b.negate) t f
def execVfsub (t : Tid) (f : Fld) (s : State) : Oc := issue t 0x111 f (bodyVfsub t f) s

/-- VFMUL (03 R116). -/
def bodyVfmul (t : Tid) (f : Fld) : Body := svFloat (fun a b _ => a.mul b) t f
def execVfmul (t : Tid) (f : Fld) (s : State) : Oc := issue t 0x112 f (bodyVfmul t f) s

/-- VFMA: d := d + s1 * s2 (03 R116). -/
def bodyVfma (t : Tid) (f : Fld) : Body := svFloat (fun a b d => a.fma b d) t f
def execVfma (t : Tid) (f : Fld) (s : State) : Oc := issue t 0x113 f (bodyVfma t f) s

/-- VFMIN (03 R116). -/
def bodyVfmin (t : Tid) (f : Fld) : Body := svFloat (fun a b _ => FVal.pick false a b) t f
def execVfmin (t : Tid) (f : Fld) (s : State) : Oc := issue t 0x114 f (bodyVfmin t f) s

/-- VFMAX (03 R116). -/
def bodyVfmax (t : Tid) (f : Fld) : Body := svFloat (fun a b _ => FVal.pick true a b) t f
def execVfmax (t : Tid) (f : Fld) (s : State) : Oc := issue t 0x115 f (bodyVfmax t f) s

/-! ## Conversion (03 R120, R114) -/

/-- Formats that VCVT converts between: FP32, BF16, FP16, E4M3, E5M2, INT8. -/
def cvtCode (c : Nat) : Bool := c ≤ 5

/-- The group check: pos below the ratio of the widths, unless a code is reserved. -/
def cvtPosOk (f : Fld) : Bool :=
  fmtReserved (svFmt f) || fmtReserved (svSub f) ||
    (let ws := fmtBits (svSub f)
     let wd := fmtBits (svFmt f)
     decide (svPos f < max ws wd / min ws wd))

def cvtLegal (f : Fld) : Bool :=
  fieldsOk .v .v .z f && svOk f { fmt := true, sub := 16, pos := true } && svEw f == 0 &&
    (cvtCode (svFmt f) || fmtReserved (svFmt f)) && (cvtCode (svSub f) || fmtReserved (svSub f)) && cvtPosOk f

/-- The converted register, the CORE_FPCSR flags and the FU_CVTSTAT bits. -/
def cvtLanes (x : Thread) (f : Fld) : BitVec 128 × FFlags × CStat :=
  let cs := svSub f
  let cd := svFmt f
  let ws := fmtBits cs
  let wd := fmtBits cd
  let n := 128 / max ws wd
  let src := x.rv f.s1.toNat
  (List.range n).foldl (fun r i =>
    if active (laneMask x f) i then
      let si := if ws < wd then i + svPos f * n else i
      let di := if wd < ws then i + svPos f * n else i
      let c := convert cd (svMode x f) (elemVal cs (elem src ws si))
      (putElem r.1 wd di c.code, r.2.1 ||| c.fl, r.2.2 ||| c.stat)
    else r) (x.rv f.d.toNat, 0, 0)

def bodyVcvt (t : Tid) (f : Fld) : Body :=
  vecBody (cvtLegal f) fun s =>
    withFormat s t f (svFmt f) 16 (withFormat s t f (svSub f) 16 (
      let r := cvtLanes (s.thr t) f
      .ok (cvtStat (s.modThr t fun x => (x.wv f.d.toNat r.1).raise r.2.1) t.lathe.val r.2.2)))

/-- VCVT (03 R120). -/
def execVcvt (t : Tid) (f : Fld) (s : State) : Oc := issue t 0x118 f (bodyVcvt t f) s

/-! ## Compares (03 R118) -/

def evRel (sub w a b : Nat) : Bool :=
  match sub with
  | 0 => a == b
  | 1 => a != b
  | 2 => decide (signedOf w a < signedOf w b)
  | 3 => decide (signedOf w a ≤ signedOf w b)
  | 4 => decide (a < b)
  | _ => decide (a ≤ b)

def bodyVcmp (t : Tid) (f : Fld) : Body :=
  vecBody (fieldsOk .p .v .v f && svOk f { sub := 6 }) fun s =>
    withFormat s t f (svFmt f) (svN f) (.ok (s.modThr t fun x =>
      x.wp f.d.toNat (lanesPred (svN f) (laneMask x f) (fun i =>
        evRel (svSub f) (svW f) (elem (x.rv f.s1.toNat) (svW f) i) (elem (x.rv f.s2.toNat) (svW f) i)))))

/-- VCMP (03 R118). -/
def execVcmp (t : Tid) (f : Fld) (s : State) : Oc := issue t 0x120 f (bodyVcmp t f) s

/-- A float relation 0 EQ, 1 LT, 2 LE, 3 UN with its invalid flag (02 R77). -/
def fRel (sub : Nat) (a b : FVal) : Bool × FFlags :=
  match sub with
  | 0 => (a.eq b, fIf (a.isSig || b.isSig) fNv)
  | 1 => (a.lt b, fIf (a.isNan || b.isNan) fNv)
  | 2 => (a.le b, fIf (a.isNan || b.isNan) fNv)
  | _ => (a.isNan || b.isNan, fIf (a.isSig || b.isSig) fNv)

def bodyVfcmp (t : Tid) (f : Fld) : Body :=
  vecBody (fieldsOk .p .v .v f && svOk f { fmt := true, sub := 4 } && svFloatOk f) fun s =>
    withFormat s t f (svFmt f) (svN f) (.ok (s.modThr t fun x =>
      let F := svFormat f
      let m := laneMask x f
      let rel (i : Nat) : Bool × FFlags :=
        fRel (svSub f) (F.decode (elem (x.rv f.s1.toNat) (svW f) i)) (F.decode (elem (x.rv f.s2.toNat) (svW f) i))
      let fl := (List.range (svN f)).foldl (fun (a : FFlags) i => if active m i then a ||| (rel i).2 else a) 0
      (x.wp f.d.toNat (lanesPred (svN f) m (fun i => (rel i).1))).raise fl))

/-- VFCMP (03 R118). -/
def execVfcmp (t : Tid) (f : Fld) (s : State) : Oc := issue t 0x121 f (bodyVfcmp t f) s

/-! ## Widening multiply and dot product (03 R121, R122) -/

/-- fmt 0 is integer; BF16 and FP16 take ew 1 and leave sub[0] 0. A reserved code passes to R114. -/
def wmulOk (f : Fld) : Bool :=
  (svEw f == 0 || svEw f == 1) &&
    (svFmt f == 0 || fmtReserved (svFmt f) || (svEw f == 1 && (svFmt f == 1 || svFmt f == 2) && svSub f % 2 == 0))

def wmulProduct (x : Thread) (f : Fld) (i : Nat) : Nat × FFlags :=
  let w := svW f
  let k := i + (if svSub f / 2 % 2 = 1 then svN f / 2 else 0)
  let a := elem (x.rv f.s1.toNat) w k
  let b := elem (x.rv f.s2.toNat) w k
  if svFmt f = 0 then
    (if svSub f % 2 = 1 then (a * b, 0) else (unsignedOf (2 * w) (signedOf w a * signedOf w b), 0))
  else
    let v := ((svFormat f).decode a).mul ((svFormat f).decode b)
    let c := fp32.deliver (svMode x f) v.1
    (c.1, v.2 ||| c.2)

def bodyVwmul (t : Tid) (f : Fld) : Body :=
  vecBody (fieldsOk .v .v .v f && svOk f { fmt := true, sub := 4 } && wmulOk f) fun s =>
    withFormat s t f (svFmt f) (svN f / 2) (.ok (s.modThr t fun x =>
      let r := mapLanesF (x.rv f.d.toNat) (2 * svW f) (svN f / 2) (laneMask x f) (wmulProduct x f)
      (x.wv f.d.toNat r.1).raise r.2))

/-- VWMUL (03 R121). -/
def execVwmul (t : Tid) (f : Fld) (s : State) : Oc := issue t 0x128 f (bodyVwmul t f) s

/-- Formats of VDOT: INT8, BF16, E4M3; a reserved code passes to R114. -/
def dotOk (f : Fld) : Bool :=
  svEw f == 2 && (svFmt f == 5 || svFmt f == 1 || svFmt f == 3 || fmtReserved (svFmt f))

/-- A product of a lane, with the invalid flag. -/
def dotMul (c : Nat) (p : Nat × Nat) : FVal × FFlags :=
  let a := elemVal c p.1
  let b := elemVal c p.2
  let m := a.mul b
  (m.1, m.2 ||| fIf (a.isNan || b.isNan) fNv)

/-- The exact sum of a lane's products, with the invalid flag; a sum of zeros that are all negative is -0. -/
def dotSum (c : Nat) (ps : List (Nat × Nat)) : FVal × FFlags :=
  match ps with
  | [] => (.fin false 0 0, 0)
  | p :: r => r.foldl (fun a q =>
      let m := dotMul c q
      let z := a.1.add m.1
      (z.1, a.2 ||| (m.2 ||| z.2))) (dotMul c p)

def dotLane (x : Thread) (f : Fld) (i : Nat) : Nat × FFlags :=
  let c := svFmt f
  let w := fmtBits c
  let k := 32 / w
  let at_ (r j : Nat) : Nat := elem (x.rv r) w (k * i + j)
  let ps := (List.range k).map (fun j => (at_ f.s1.toNat j, at_ f.s2.toNat j))
  let acc := elem (x.rv f.d.toNat) 32 i
  if c = 5 then
    let sum := ps.foldl (fun (z : Int) p => z + signedOf 8 p.1 * signedOf 8 p.2) 0
    (unsignedOf 32 ((acc : Int) + sum), 0)
  else
    let v := dotSum c ps
    let q := (fp32.decode acc).add v.1
    let r := fp32.deliver (svMode x f) q.1
    (r.1, v.2 ||| (q.2 ||| r.2))

def bodyVdot (t : Tid) (f : Fld) : Body :=
  vecBody (fieldsOk .v .v .v f && svOk f { fmt := true } && dotOk f) fun s =>
    withFormat s t f (svFmt f) 4 (.ok (s.modThr t fun x =>
      let r := mapLanesF (x.rv f.d.toNat) 32 4 (laneMask x f) (dotLane x f)
      (x.wv f.d.toNat r.1).raise r.2))

/-- VDOT (03 R122). -/
def execVdot (t : Tid) (f : Fld) (s : State) : Oc := issue t 0x12A f (bodyVdot t f) s

/-! ## Moves (03 R119) -/

def bodyVbcast (t : Tid) (f : Fld) : Body :=
  vecBody (fieldsOk .v .g .z f && svOk f {}) fun s =>
    withFormat s t f (svFmt f) (svN f) (.ok (s.modThr t fun x =>
      x.wv f.d.toNat (mapLanes (x.rv f.d.toNat) (svW f) (svN f) (laneMask x f) (fun _ => (x.rg f.s1.toNat).toNat))))

/-- VBCAST (03 R119). -/
def execVbcast (t : Tid) (f : Fld) (s : State) : Oc := issue t 0x138 f (bodyVbcast t f) s

def bodyVins (t : Tid) (f : Fld) : Body :=
  vecBody (fieldsOk .v .g .z f && svOk f { imm := svN f }) fun s =>
    withFormat s t f (svFmt f) (svN f) (.ok (s.modThr t fun x =>
      if active (laneMask x f) (svImm f) then
        x.wv f.d.toNat (putElem (x.rv f.d.toNat) (svW f) (svImm f) (x.rg f.s1.toNat).toNat)
      else x))

/-- VINS (03 R119). -/
def execVins (t : Tid) (f : Fld) (s : State) : Oc := issue t 0x139 f (bodyVins t f) s

def bodyVext (t : Tid) (f : Fld) : Body :=
  vecBody (fieldsOk .g .v .z f && svOk f { sub := 2, imm := svN f }) fun s =>
    withFormat s t f (svFmt f) (svN f) (.ok (s.modThr t fun x =>
      if active (laneMask x f) (svImm f) then
        let e := elem (x.rv f.s1.toNat) (svW f) (svImm f)
        x.wg f.d.toNat (if svSub f = 1 then BitVec.ofInt 64 (signedOf (svW f) e) else BitVec.ofNat 64 e)
      else x))

/-- VEXT (03 R119). -/
def execVext (t : Tid) (f : Fld) (s : State) : Oc := issue t 0x13A f (bodyVext t f) s

/-! ## Memory accesses (03 R124 to R133) -/

/-- The checks of one element's access; control space raises XC_VMEM. -/
def elemCheck (s : State) (t : Tid) (p : Perm) (a : Word) (size : Nat) : Acc := checkData s t p a size true

/-- An access of a vector: element number and address. -/
abbrev Elems := List (Nat × Word)

/-- The first element, in order, whose checks fail: its number, cause and address. -/
def firstFault (s : State) (t : Tid) (p : Perm) (size : Nat) (es : Elems) : Option (Nat × Nat × Word) :=
  es.findSome? (fun e =>
    match elemCheck s t p e.2 size with
    | .trap c v => some (e.1, c, v)
    | _ => none)

/-- The bank of an element of this device takes no request of the thread's lathe now. -/
def elemRefused (s : State) (t : Tid) (home : Bool) (a : Nat) : Option Nat :=
  match bankMet s t a home with
  | some b =>
    let granted := match (s.thr t).bankGrant with
      | some g => g.1 == b
      | none => false
    if !granted && bankFull s t.lathe.val b then some b else none
  | none => none

/-- A wait that the elements must make first: a sleeping lathe, a row copy, a full bank queue, an older load of the thread that
cannot be served. `home`: the access acts at the line's home (R310). -/
def elemWait (s : State) (t : Tid) (p : Perm) (home : Bool) (size : Nat) (es : Elems) : Option (Wait × State) :=
  es.findSome? (fun e =>
    match elemCheck s t p e.2 size with
    | .wake l => some (.wake l, wakeLathe s l)
    | .ok =>
      let a := canon s t e.2
      if memBusy s a then some (.memory, s)
      else
        match elemRefused s t home a with
        | some b => some (.bank, bankRefuse s t b false)
        | none => none
    | _ => none)

/-- A trap, with its refusal logged where an S resource refused the element. -/
def elemTrap (s : State) (t : Tid) (kind size : Nat) (c : Nat) (v : Word) : Res :=
  .trap c v (if c = xWorld then noteWorld s t v kind size else s)

/-- An entry that touches one of the elements. -/
def entryAtAny (s : State) (t : Tid) (es : Elems) (size : Nat) (e : StoreEnt) : Bool :=
  es.any (fun p => entryAt s t p.2 size e)

/-- Read an element of this device: its bank serves the older requests first. -/
def readElem (s : State) (t : Tid) (v : VecLoad) (p : VecPart) : State :=
  let n := v.w / 8
  let put (s : State) (q : VecLoad) : State := s.modThr t (fun x => { x with vld := some q })
  match placeOf s t p.addr with
  | .ram a =>
    let b := bankMet s t a false
    let s1 := serveAhead s (some t) b s.mem.presented a n
    if memBusy s a || stuckBehind s1 (some t) b s.mem.presented a n then s
    else if (poisonAt s1 a n).isSome then meetPoison s1 t p.addr
    else put (coreRead s1 t.lathe.val t.core.val a) (v.put p (some (memNat s1 a n)) none)
  | .asleep l => wakeLathe s l
  | _ => put s (v.put p none (some xVmem))

/-- Read element `k` if its turn has come: in element order, but for a VLD and in a SPEC region (R130). An element at the address
of an earlier one has that one's bytes (R131). -/
def pumpPart (t : Tid) (s : State) (k : Nat) : State :=
  match (s.thr t).vld with
  | none => s
  | some v =>
    match v.parts.find? (fun p => p.elem == k) with
    | none => s
    | some p =>
      let before := v.parts.takeWhile (fun q => q.elem != k)
      let self := isSelf s (chainOf p.addr)
      let free := !v.gather || (ratLookup s (if self then 0 else 1) (localOf p.addr)).spec
      if p.tag.isSome || p.val.isSome || p.err.isSome || before.any (fun q => q.err.isSome) ||
          !(free || before.all (fun q => q.val.isSome)) || (s.thr t).st == .waiting .poison then s
      else
        match before.find? (fun q => q.addr == p.addr) with
        | some q => if q.val.isSome then s.modThr t (fun x => { x with vld := some (v.put p q.val none) }) else s
        | none =>
          if self then readElem s t v p
          else
            match (if rcacheAt s p.addr then copyOf s t p.addr else none) with
            | some c =>
              let d := (c.data.drop (p.addr.toNat % 64)).take (v.w / 8)
              (copyHit s t p.addr).modThr t (fun x => { x with vld := some (v.put p (some (leNat d)) none) })
            | none =>
              let line := rcacheAt s p.addr
              let a := if line then localOf p.addr / 64 * 64 else localOf p.addr
              let v := { v with parts := v.parts.map (fun q => if q.elem = k then { q with tag := some s.chain.nextTag } else q) }
              (request (s.modThr t (fun x => { x with vld := some v })) (chainOf p.addr) pRead (BitVec.ofNat 48 a) 0
                (leBytes 2 (if line then 64 else v.w / 8)) (fun _ => .vec t)).2

/-- A vector load goes on: every element whose turn has come is read. -/
def pumpVec (s : State) (t : Tid) : State :=
  match (s.thr t).vld with
  | none => s
  | some v => (v.parts.map (fun p => p.elem)).foldl (pumpPart t) s

/-- Every element before the first failing one has its value, or all have. -/
def VecLoad.settled (v : VecLoad) : Bool := (v.parts.takeWhile (fun p => p.err.isNone)).all (fun p => p.val.isSome)

/-- Start the loads of elements `es`; `bad`: an element behind them whose check has failed. -/
def startVec (s : State) (t : Tid) (gather : Bool) (f : Fld) (inst : Word) (es : Elems) (bad : Option VecPart) : State :=
  let parts : List VecPart := es.map (fun e => ⟨e.1, e.2, none, none, none⟩)
  pumpVec (s.modThr t (fun x => { x with vld := some ⟨gather, f.d.toNat, svW f, parts ++ bad.toList, inst⟩ })) t

/-- Active elements of `es` in order. -/
def activeElems (x : Thread) (f : Fld) (es : Elems) : Elems := es.filter (fun e => active (laneMask x f) e.1)

/-- The elements of VLD and VST (03 R124). -/
def runElems (x : Thread) (f : Fld) : Elems :=
  let a := x.rg f.s1.toNat + ((BitVec.ofNat 16 (svImm f)).signExtend 64)
  activeElems x f ((List.range (svN f)).map (fun i => (i, a + BitVec.ofNat 64 (i * (svW f / 8)))))

/-- A load whose active elements have passed their checks. Its thread leaves the issue slot, whether or not the data are present
within 4 cycles (DESIGN CHOICE, notes/assumptions/61.md). -/
def goVec (s : State) (t : Tid) (gather : Bool) (f : Fld) (inst : Word) (es : Elems) (bad : Option VecPart) : Res :=
  let s := startVec s t gather f inst es bad
  if (s.thr t).st = .waiting .poison then .wait .poison (s.modThr t (fun x => { x with vld := none })) else .wait .vecLoad s

def bodyVld (t : Tid) (f : Fld) : Body :=
  let size := svW f / 8
  vecBody (fieldsOk .v .g .z f && svOk f { imm := 65536 }) fun s => withFormat s t f (svFmt f) (svN f) (
    let es := runElems (s.thr t) f
    match firstFault s t .r size es, elemWait s t .r false size es with
    | some (_, c, v), _ => elemTrap s t 0 size c v
    | none, some (w, s) => .wait w s
    | none, none =>
      if es.isEmpty then .ok s
      else afterDrain s t (entryAtAny s t es size) fun s => goVec s t false f (insWord 0x130 f) es none)

/-- VLD (03 R124). -/
def execVld (t : Tid) (f : Fld) (s : State) : Oc := issue t 0x130 f (bodyVld t f) s

/-- One address of each 4 KiB granule that the elements on other devices touch, where they touch several: a READ of it asks for the
checks of the elements there (R124). -/
def probesOf (s : State) (es : Elems) : Elems :=
  let far := es.filter (fun e => !isSelf s (chainOf e.2))
  let firsts := far.foldl (fun (r : Elems) e => if r.any (fun q => q.2.toNat / 4096 == e.2.toNat / 4096) then r else r ++ [e]) []
  if 1 < firsts.length then firsts else []

/-- The stores of `es`, behind the thread's earlier stores of the same bytes; `bad`: an element behind them whose checks failed. -/
def goStores (s : State) (t : Tid) (scatter : Bool) (f : Fld) (inst : Word) (es : Elems) (bad : Option (Nat × Nat × Word)) : Res :=
  let size := svW f / 8
  afterDrain s t (entryAtAny s t es size) fun s =>
    let data := (s.thr t).rv f.d.toNat
    let v : VecStore :=
      { scatter := scatter, probes := if scatter then [] else probesOf s es
        elems := es.map (fun e => (e.1, e.2, leBytes size (elem data (svW f) e.1))), tag := none, bad := bad, inst := inst }
    let s := pumpStore t 64 (s.modThr t (fun x => { x with vst := some v }))
    match (s.thr t).vst with
    | none => .ok s
    | some v =>
      if !v.settled then .wait .vecStore s
      else
        match v.bad with
        | none => .ok (s.modThr t v.close)
        | some (_, c, w) => elemTrap (s.modThr t v.close) t 1 size c w

def bodyVst (t : Tid) (f : Fld) : Body :=
  let size := svW f / 8
  vecBody (fieldsOk .v .g .z f && svOk f { imm := 65536 }) fun s => withFormat s t f (svFmt f) (svN f) (
    let es := runElems (s.thr t) f
    match firstFault s t .w size es, elemWait s t .w true size es with
    | some (_, c, v), _ => elemTrap s t 1 size c v
    | none, some (w, s) => .wait w s
    | none, none => goStores s t false f (insWord 0x131 f) es none)

/-- VST (03 R124). -/
def execVst (t : Tid) (f : Fld) (s : State) : Oc := issue t 0x131 f (bodyVst t f) s

/-- Registers of an index group (03 R127). -/
def groupSize (f : Fld) : Nat := if svN f ≤ 4 then 1 else svN f / 4

/-- The elements of a gather or scatter from VPROG on (03 R127, R128). -/
def indexElems (x : Thread) (f : Fld) : Elems :=
  let es := (List.range (svN f)).map (fun i =>
    let idx := elem (x.rv (f.s2.toNat + i / 4)) 32 (i % 4)
    (i, x.rg f.s1.toNat + BitVec.ofNat 64 (idx * 2 ^ svPos f)))
  activeElems x f (es.filter (fun e => decide (x.vprog.toNat ≤ e.1)))

def indexLegal (gather : Bool) (f : Fld) : Bool :=
  fieldsOk .v .g .v f && svOk f { pos := true } && f.s2.toNat % groupSize f == 0 &&
    !(gather && decide (f.s2.toNat ≤ f.d.toNat) && decide (f.d.toNat < f.s2.toNat + groupSize f))

/-- Write gathered values into their elements. -/
def putParts (x : BitVec 128) (w : Nat) (ps : List VecPart) : BitVec 128 :=
  ps.foldl (fun x p =>
    match p.val with
    | some v => putElem x w p.elem v
    | none => x) x

/-- A gather whose element `k` failed its checks: it traps at once where every earlier element is on this device. -/
def gatherFault (s : State) (t : Tid) (f : Fld) (inst : Word) (es : Elems) (k c : Nat) (w : Word) : Res :=
  let size := svW f / 8
  let before := es.filter (fun e => decide (e.1 < k))
  afterDrain s t (entryAtAny s t before size) fun s =>
    let s1 := startVec s t true f inst before (some ⟨k, w, none, none, some c⟩)
    match (s1.thr t).vld with
    | some v =>
      if v.settled && (s1.thr t).st != .waiting .poison then
        elemTrap (s1.modThr t (fun x =>
          { x.wv f.d.toNat (putParts (x.rv f.d.toNat) (svW f) (v.parts.filter (fun p => p.err.isNone))) with
            vld := none, vprog := BitVec.ofNat 5 k })) t 0 size c w
      else goVec (if c = xWorld then noteWorld s t w 0 size else s) t true f inst before (some ⟨k, w, none, none, some c⟩)
    | none => .ok s1

def bodyVgather (t : Tid) (f : Fld) : Body :=
  let size := svW f / 8
  vecBody (indexLegal true f) fun s => withFormat s t f (svFmt f) (svN f) (
    let es := indexElems (s.thr t) f
    let fault := firstFault s t .r size es
    let reach := match fault with
      | some (k, _, _) => es.filter (fun e => decide (e.1 < k))
      | none => es
    match elemWait s t .r false size reach, fault with
    | some (w, s), _ => .wait w s
    | none, some (k, c, v) => gatherFault s t f (insWord 0x134 f) es k c v
    | none, none =>
      if es.isEmpty then .ok (s.modThr t (fun x => { x with vprog := 0 }))
      else afterDrain s t (entryAtAny s t es size) fun s => goVec s t true f (insWord 0x134 f) es none)

/-- VGATHER (03 R128). -/
def execVgather (t : Tid) (f : Fld) (s : State) : Oc := issue t 0x134 f (bodyVgather t f) s

def bodyVscatter (t : Tid) (f : Fld) : Body :=
  let size := svW f / 8
  vecBody (indexLegal false f) fun s => withFormat s t f (svFmt f) (svN f) (
    let es := indexElems (s.thr t) f
    let fault := firstFault s t .w size es
    let reach := match fault with
      | some (k, _, _) => es.filter (fun e => decide (e.1 < k))
      | none => es
    match elemWait s t .w true size reach with
    | some (w, s) => .wait w s
    | none => goStores s t true f (insWord 0x135 f) reach fault)

/-- VSCATTER (03 R131). -/
def execVscatter (t : Tid) (f : Fld) (s : State) : Oc := issue t 0x135 f (bodyVscatter t f) s

/-- The end of a vector load: the values, or the trap of its lowest failing element (03 R124, R129). -/
def endVec (s : State) (t : Tid) (v : VecLoad) : State :=
  match v.parts.find? (fun p => p.err.isSome) with
  | none =>
    completeWait (s.modThr t (fun x =>
      { x.wv v.d (putParts (x.rv v.d) v.w v.parts) with vld := none, vprog := if v.gather then 0 else x.vprog })) t
  | some p =>
    let x := s.thr t
    let s := if v.gather && !(x.tl && !x.nest) then
        s.modThr t (fun x =>
          { x.wv v.d (putParts (x.rv v.d) v.w (v.parts.filter (fun q => decide (q.elem < p.elem)))) with
            vprog := BitVec.ofNat 5 p.elem })
      else s
    trapAtWait (s.modThr t (fun x => { x with vld := none })) t (p.err.getD xVmem) p.addr v.inst

/-- VECTOR_LOAD_ARRIVAL: a vector load goes on, and ends when every active element has arrived (03 R125). -/
def execVectorLoadArrival (t : Tid) (s : State) : Oc :=
  if (s.thr t).st ≠ .waiting .vecLoad ∨ !clockRuns s t then .next s
  else
    let s := pumpVec s t
    match (s.thr t).vld with
    | some v => .next (if v.settled && (s.thr t).st == .waiting .vecLoad then endVec s t v else s)
    | none => .next s

/-- What an answer does, and what waited for it: the next elements of a vector access. -/
def answered (s : State) (o : Outstanding) (r : Answer) : State :=
  let s := answer s o r
  match o.origin with
  | .vec t => pumpVec s t
  | .vecStore t => settleStore s t
  | _ => s

end Sys2Proof.Machine
end

