-- ==== Sys2Proof/Machine/Scale.lean ====
section
/-!
DEFINITION. The scale table (04 R181 to R185, Table 4-10): what a store merges into a tensor's entry, the base exponent that a
step draws from its history, and the world of an entry.
-/

namespace Sys2Proof.Machine

/-- Local address of the entry of tensor `T`, in the table at DEV_SCALE_BASE. -/
def scaleAt (s : State) (T : BitVec 16) : Nat := (ctlGet s rScaleBase).toNat + 128 * T.toNat

def eGet (s : State) (T : BitVec 16) (off n : Nat) : Nat := memNat s (scaleAt s T + off) n
def ePut (s : State) (T : BitVec 16) (off n v : Nat) : State := memWrite s (scaleAt s T + off) (leBytes n v)

/-- Offsets of Table 4-10. -/
def eRing (k : Nat) : Nat := 4 * k
def eTag (k : Nat) : Nat := 0x40 + 2 * k
def eCur : Nat := 0x60
def eCurStep : Nat := 0x64
def eValid : Nat := 0x68
def eHist : Nat := 0x6A
def eClamp : Nat := 0x6C
def eEscape : Nat := 0x70
def eFull : Nat := 0x74
def eNonfinite : Nat := 0x78

def entryWorld (s : State) (T : BitVec 16) : World := if (eGet s T eHist 1).testBit 7 then .s else .ns

/-- An NS requester may not merge into an S entry (R185). -/
def mayMerge (s : State) (w : World) (T : BitVec 16) : Bool := w == .s || entryWorld s T == .ns

def curValid (s : State) (T : BitVec 16) : Bool := (eGet s T eHist 1).testBit 6

def ringValid (s : State) (T : BitVec 16) (k : Nat) : Bool := (eGet s T eValid 2).testBit k

/-- Put an amax of step `m` into the ring. -/
def ringPut (s : State) (T : BitVec 16) (m a : Nat) : State :=
  let k := m % 16
  let s := ePut s T (eRing k) 4 a
  let s := ePut s T (eTag k) 2 (m % 65536)
  ePut s T eValid 2 (eGet s T eValid 2 ||| 2 ^ k)

/-- The indivisible maximum at the entry, in step `n` (R181). -/
def mergeAmax (s : State) (T : BitVec 16) (n : Nat) (a : F32) : State :=
  let cs := eGet s T eCurStep 4
  let cur := eGet s T eCur 4
  if curValid s T ∧ cs = n then ePut s T eCur 4 (max cur a.toNat)
  else if !curValid s T ∨ cs < n then
    let s := if curValid s T then ringPut s T cs cur else s
    let s := ePut (ePut s T eCur 4 a.toNat) T eCurStep 4 n
    ePut s T eHist 1 (eGet s T eHist 1 ||| 0x40)
  else
    let k := n % 16
    if ringValid s T k ∧ eGet s T (eTag k) 2 = n % 65536 then ePut s T (eRing k) 4 (max (eGet s T (eRing k) 4) a.toNat)
    else if !ringValid s T k then ringPut s T n a.toNat
    else s

/-- Add to a counter of the entry, saturating. -/
def eCount (s : State) (T : BitVec 16) (off n : Nat) : State :=
  if n = 0 then s else ePut s T off 4 (min 0xFFFFFFFF (eGet s T off 4 + n))

/-- The merge of a store: its amax, and the count of its NaN and infinite source values. -/
def mergeStore (s : State) (T : BitVec 16) (step : BitVec 32) (a : F32) (nonfin : Nat) : State :=
  eCount (mergeAmax s T step.toNat a) T eNonfinite nonfin

/-- The amax and the non-finite count of a list of stored FP32 values. -/
def amaxList (xs : List F32) : F32 := xs.foldl (fun a x => amaxMerge a (amaxOf x)) 0
def nonfiniteCount (xs : List F32) : Nat := (xs.filter nonFinite).length

/-- The history of T as seen by step `n` (R182): its ring entries, then cur. -/
def history (s : State) (T : BitVec 16) (n : Nat) : List Nat :=
  let H := eGet s T eHist 1 % 16 + 1
  let js := (List.range (min H n)).map (· + 1)
  let ring := (List.range 16).filterMap (fun k =>
    if ringValid s T k && js.any (fun j => eGet s T (eTag k) 2 == (n - j) % 65536) then some (eGet s T (eRing k) 4) else none)
  let cur := if curValid s T && js.any (fun j => eGet s T eCurStep 4 == n - j) then [eGet s T eCur 4] else []
  ring ++ cur

/-- The base exponent for step `n` of a tensor stored in format `c` (R183). -/
def baseFor (s : State) (T : BitVec 16) (c : Nat) (step : BitVec 32) (initBase : Int) : Int :=
  baseExp c ((history s T step.toNat).foldl max 0) (eGet s T eHist 1 / 16 % 4) initBase

/-- The scale policy of a world: ESCAPE rather than CLAMP (R173). -/
def escapePolicy (s : State) (w : World) : Bool := (ctlGet s rScalePolicy).getLsbD (if w = .s then 1 else 0)

end Sys2Proof.Machine
end

