-- ==== Sys2Proof/Machine/LongVector.lean ====
section
/-!
DEFINITION. Long-vector instructions (03 R134 to R149): a core's context of 16 registers of 512 FP32 lanes and 4 lane masks,
the queue of its operations, and the strided loads and stores.
-/

namespace Sys2Proof.Machine

/-! ## Ownership of the tile context (05 R190, 03 R135) -/

/-- A thread takes ownership: every tile is unconfigured and the long-vector context reads as zero (03 R136). -/
def takeContext (s : State) (t : Tid) : State :=
  s.modCore t.lathe.val t.core.val (fun c => { c with owner := some t.thread.val, lv := [], lm := [] })

/-- An instruction that needs ownership takes it, or waits for it. -/
def withContext (s : State) (t : Tid) (k : State → Res) : Res :=
  match (s.core t.lathe.val t.core.val).owner with
  | none => k (takeContext s t)
  | some o => if o = t.thread.val then k s else .wait .tileContext s

/-- The core's queues hand out one number to each operation, in program order. -/
def nextSeq (s : State) (t : Tid) : Nat := (s.core t.lathe.val t.core.val).nextSeq

def bumpSeq (s : State) (t : Tid) : State := s.modCore t.lathe.val t.core.val (fun c => { c with nextSeq := c.nextSeq + 1 })

def State.ctx (s : State) (t : Tid) : Core := s.core t.lathe.val t.core.val

/-- Put an operation in the finishing queue. -/
def enqueueFin (s : State) (t : Tid) (o : FinOp) : State :=
  bumpSeq (s.modCore t.lathe.val t.core.val (fun c => { c with finQ := c.finQ ++ [o] })) t

/-! ## Fields (03 Table 3-4) -/

def lvFmt (f : Fld) : Nat := nbits f.imm.toNat 28 4
def lvRm (f : Fld) : Nat := nbits f.imm.toNat 26 2
def lvMe (f : Fld) : Bool := f.imm.getLsbD 25
def lvMk (f : Fld) : Nat := nbits f.imm.toNat 23 2
def lvSb (f : Fld) : Bool := f.imm.getLsbD 22
def lvSub (f : Fld) : Nat := nbits f.imm.toNat 16 6
def lvStride (f : Fld) : Int := signedOf 16 (nbits f.imm.toNat 0 16)

/-- A long-vector register field. -/
def lvReg (x : BitVec 6) : Bool := decide (x.toNat < 16)

/-- A mask register field. -/
def lmReg (x : BitVec 6) : Bool := decide (x.toNat < 4)

/-! ## Lanes -/

def laneOf (l : Lanes) (i : Nat) : F32 := l.getD i 0

def Core.lvr (c : Core) (r : Nat) : Lanes := mget c.lv r []
def Core.lmr (c : Core) (r : Nat) : BitVec 512 := mget c.lm r 0

/-- Lane `i` is active (03 R140). -/
def laneOn (c : Core) (me : Bool) (mk i : Nat) : Bool := !me || (c.lmr mk).getLsbD i

/-- The 512 lanes by `g` where active, and as they were elsewhere, with the flags of the active ones. -/
def mapLv (old : Lanes) (on : Nat → Bool) (g : Nat → F32 × FFlags) : Lanes × FFlags :=
  (List.range 512).foldr (fun i r =>
    if on i then let y := g i; (y.1 :: r.1, y.2 ||| r.2) else (laneOf old i :: r.1, r.2)) ([], 0)

/-! ## LV.ALU (03 Table 3-6, R141) -/

/-- 1 / sqrt of a value, with a sticky bit. -/
def FVal.rsqrt (a : FVal) : FVal × FFlags :=
  match a with
  | .nan _ g => (qn, fIf g fNv)
  | .inf n => if n then (qn, fNv) else (.fin false 0 0, 0)
  | .fin n m e =>
    if m = 0 then (.inf n, fDz)
    else if n then (qn, fNv)
    else
      let odd : Bool := e % 2 != 0
      let m2 := if odd then 2 * m else m
      let e2 := if odd then e - 1 else e
      let k := 70 + bitLen m2
      let x := 2 ^ (2 * k) / m2
      let r := isqrt x ((bitLen x + 1) / 2) 0
      (.fin false (2 * r + (if m2 * r * r = 2 ^ (2 * k) then 0 else 1)) (-(k : Int) - 1 - e2 / 2), 0)

def lvUnary (sub : Nat) : Bool := 7 ≤ sub && sub ≤ 11

/-- One lane of LV.ALU: operands d, s1, s2. -/
def lvOp (sub : Nat) (rm : RMode) (d a b : F32) : F32 × FFlags :=
  let fin (v : FVal × FFlags) : F32 × FFlags :=
    let c := fp32.deliver rm v.1
    (BitVec.ofNat 32 c.1, v.2 ||| c.2)
  let x := f32v a
  let y := f32v b
  match sub with
  | 0 => fin (x.add y)
  | 1 => fin (x.add y.negate)
  | 2 => fin (x.mul y)
  | 3 => fin (x.fma y (f32v d))
  | 4 => fin (x.div y)
  | 5 => fin (FVal.pick false x y)
  | 6 => fin (FVal.pick true x y)
  | 7 => fin x.sqrt
  | 8 => fin x.rsqrt
  | 9 => fin ((FVal.fin false 1 0).div x)
  | 10 => (fabs32 a, 0)
  | 11 => (fneg32 a, 0)
  | _ => (a, 0)

/-- s1 and s2 of an LV.ALU; sb only in a binary operation or MOV. -/
def lvAluLegal (f : Fld) : Bool :=
  let sub := lvSub f
  lvFmt f == 0 && nbits f.imm.toNat 0 16 == 0 && decide (sub ≤ 12) && lvReg f.d &&
    (if sub = 12 ∧ lvSb f then f.s1 == 0 && Use.g.ok f.s2
     else if 7 ≤ sub then !lvSb f && lvReg f.s1 && f.s2 == 0
     else lvReg f.s1 && (if lvSb f then Use.g.ok f.s2 else lvReg f.s2))

/-- An operation enters the long-vector queue of 8 entries (03 R147). -/
def queueLv (s : State) (t : Tid) (o : FinOp) : Res :=
  if released s t .lvQueue then .ok (enqueueFin s t o) else .wait .lvQueue s

def bodyLvAlu (t : Tid) (f : Fld) : Body :=
  plain (lvAluLegal f) fun s => withContext s t fun s =>
    let x := s.thr t
    let scalar : Option F32 := if lvSb f then some ((x.rg f.s2.toNat).setWidth 32) else none
    queueLv s t
      { seq := nextSeq s t, thread := t.thread.val, kind := .alu, d := f.d.toNat, s1 := f.s1.toNat, s2 := f.s2.toNat
        sub := lvSub f, scalar := scalar, rm := BitVec.ofNat 2 (x.rmOf (lvRm f)), me := lvMe f, mreg := lvMk f }

/-- LV.ALU (03 R141). -/
def execLvAlu (t : Tid) (f : Fld) (s : State) : Oc := issue t 0x1C8 f (bodyLvAlu t f) s

/-- What a queued LV.ALU writes, and its flags. -/
def runAlu (c : Core) (o : FinOp) : Core × FFlags :=
  let a := c.lvr o.s1
  let b := c.lvr o.s2
  let dd := c.lvr o.d
  let rm := plainMode o.rm.toNat
  let r := mapLv dd (laneOn c o.me o.mreg) (fun i =>
    match o.scalar with
    | some v => if o.sub = 12 then (v, 0) else lvOp o.sub rm (laneOf dd i) (laneOf a i) v
    | none => lvOp o.sub rm (laneOf dd i) (laneOf a i) (laneOf b i))
  ({ c with lv := mset c.lv o.d r.1 }, r.2)

/-! ## LV.CMP (03 R142) -/

def bodyLvCmp (t : Tid) (f : Fld) : Body :=
  plain (lvFmt f == 0 && nbits f.imm.toNat 0 16 == 0 && !lvSb f && decide (lvSub f ≤ 3) && lmReg f.d && lvReg f.s1 &&
      lvReg f.s2) fun s => withContext s t fun s =>
    queueLv s t
      { seq := nextSeq s t, thread := t.thread.val, kind := .cmp, d := f.d.toNat, s1 := f.s1.toNat, s2 := f.s2.toNat
        sub := lvSub f, me := lvMe f, mreg := lvMk f }

/-- LV.CMP (03 R142). -/
def execLvCmp (t : Tid) (f : Fld) (s : State) : Oc := issue t 0x1C9 f (bodyLvCmp t f) s

/-- The mask whose bit `i` is `g i`. -/
def maskOf (g : Nat → Bool) : BitVec 512 :=
  BitVec.ofNat 512 ((List.range 512).foldr (fun i n => 2 * n + (if g i then 1 else 0)) 0)

def runCmp (c : Core) (o : FinOp) : Core × FFlags :=
  let a := c.lvr o.s1
  let b := c.lvr o.s2
  let on := laneOn c o.me o.mreg
  let rel (i : Nat) : Bool × FFlags := fRel o.sub (f32v (laneOf a i)) (f32v (laneOf b i))
  let fl := (List.range 512).foldl (fun (fl : FFlags) i => if on i then fl ||| (rel i).2 else fl) 0
  ({ c with lm := mset c.lm o.d (maskOf (fun i => on i && (rel i).1)) }, fl)

/-! ## LV.MASK (03 R143) -/

/-- `mk` with me = 0 and the `rm` of LV.CMP, LV.RED, LV.MASK and LVLD are ignored (DESIGN CHOICE,
notes/assumptions/62.md). -/
def lvMaskLegal (f : Fld) : Bool :=
  let sub := lvSub f
  lvFmt f == 0 && nbits f.imm.toNat 0 16 == 0 && !lvSb f && !lvMe f && decide (sub ≤ 6) && lmReg f.d &&
    (if 5 ≤ sub then f.s1 == 0 && f.s2 == 0 else if sub = 4 then lmReg f.s1 && f.s2 == 0 else lmReg f.s1 && lmReg f.s2)

def bodyLvMask (t : Tid) (f : Fld) : Body :=
  plain (lvMaskLegal f) fun s => withContext s t fun s =>
    queueLv s t
      { seq := nextSeq s t, thread := t.thread.val, kind := .mask, d := f.d.toNat, s1 := f.s1.toNat, s2 := f.s2.toNat
        sub := lvSub f }

/-- LV.MASK (03 R143). -/
def execLvMask (t : Tid) (f : Fld) (s : State) : Oc := issue t 0x1CB f (bodyLvMask t f) s

def maskOp (sub : Nat) (a b : BitVec 512) : BitVec 512 :=
  match sub with
  | 0 => a &&& b
  | 1 => a ||| b
  | 2 => a ^^^ b
  | 3 => a &&& ~~~b
  | 4 => ~~~a
  | 5 => BitVec.allOnes 512
  | _ => 0

def runMask (c : Core) (o : FinOp) : Core × FFlags :=
  ({ c with lm := mset c.lm o.d (maskOp o.sub (c.lmr o.s1) (c.lmr o.s2)) }, 0)

/-! ## LV.RED (03 R144) -/

/-- One level of the fixed tree: neighbours added, nearest even. -/
def sumPairs : List F32 → List F32 × FFlags
  | a :: b :: r =>
    let v := (f32v a).add (f32v b)
    let c := fp32.deliver .rne v.1
    let q := sumPairs r
    (BitVec.ofNat 32 c.1 :: q.1, v.2 ||| (c.2 ||| q.2))
  | l => (l, 0)

/-- `n` levels. -/
def sumTree : Nat → List F32 × FFlags → List F32 × FFlags
  | 0, r => r
  | n + 1, r => let q := sumPairs r.1; sumTree n (q.1, r.2 ||| q.2)

/-- What an inactive lane enters as. -/
def redEntry (sub : Nat) : F32 :=
  match sub with
  | 1 => 0xFF800000#32
  | 2 => 0x7F800000#32
  | _ => 0

/-- The reduction of the active lanes' values. -/
def lvReduce (sub : Nat) (on : Nat → Bool) (l : Lanes) : F32 × FFlags :=
  if sub = 0 then
    let r := sumTree 9 ((List.range 512).map (fun i => if on i then laneOf l i else 0), 0)
    (laneOf r.1 0, r.2)
  else
    let xs := ((List.range 512).filter on).map (laneOf l)
    let fl := fIf (xs.any (fun x => (f32v x).isSig)) fNv
    let ys := xs.map (fun x => if sub = 3 then fabs32 x else x)
    let good := ys.filter (fun x => !(f32v x).isNan)
    if xs.isEmpty then (redEntry sub, 0)
    else if good.isEmpty then (0x7FC00000#32, fl)
    else
      let pick (a b : F32) : F32 := toF32 .rne (FVal.pick (sub != 2) (f32v a) (f32v b)).1
      (good.foldl pick (redEntry sub), fl)

/-- Earlier queued operations of the thread, of every queue, come first (03 R147). -/
def afterQueues (s : State) (t : Tid) (k : State → Res) : Res := if hasQueued s t then .wait .queues s else k s

def bodyLvRed (t : Tid) (f : Fld) : Body :=
  plain (lvFmt f == 0 && nbits f.imm.toNat 0 16 == 0 && !lvSb f && decide (lvSub f ≤ 3) && Use.g.ok f.d && lvReg f.s1 &&
      f.s2 == 0) fun s => withContext s t fun s => afterQueues s t fun s =>
    let c := s.ctx t
    let r := lvReduce (lvSub f) (laneOn c (lvMe f) (lvMk f)) (c.lvr f.s1.toNat)
    .hold .longLatency (s.modThr t (fun x => { x.raise r.2 with result := some (f.d.toNat, r.1.setWidth 64) }))

/-- LV.RED (03 R144). -/
def execLvRed (t : Tid) (f : Fld) (s : State) : Oc := issue t 0x1CA f (bodyLvRed t f) s

/-! ## LVLD and LVST (03 R145, R146) -/

/-- The line of an address. -/
def lineAt (w : Word) : Word := w - BitVec.ofNat 64 (w.toNat % 64)

/-- Bytes that a path of a lathe reads (08 R310): this device's memory, at the home of each line; a copy of a remote line, which it
may also fill; a line that the operation has asked for; or a read at the other device. The access lies in one 64-byte line. -/
def pathReadLine (s : State) (t : Tid) (w : Word) (n : Nat) : List Byte × State :=
  if isSelf s (chainOf w) then
    let a := canon s t w
    let s := serveRun s (some t) a n
    (memRead s a n, homeRead s a)
  else
    match (s.ctx t).lines.find? (fun q => q.line == lineAt w) with
    | some q => ((q.data.drop (w.toNat % 64)).take n, s)
    | none => engineRead s (reqOf s t) w n

/-- The lines of a run of `n` bytes at `w`: address and length of each part; `k` bounds their number. -/
def lineParts : Nat → Word → Nat → List (Word × Nat)
  | 0, _, _ => []
  | k + 1, w, n =>
    if n = 0 then []
    else
      let m := min n (64 - w.toNat % 64)
      (w, m) :: lineParts k (w + BitVec.ofNat 64 m) (n - m)

/-- Bytes of a run that a path of a lathe reads. -/
def pathRead (s : State) (t : Tid) (w : Word) (n : Nat) : List Byte × State :=
  if isSelf s (chainOf w) && !decide (2 ^ 48 < localOf w + n) then
    let a := canon s t w
    let s := serveRun s (some t) a n
    (memRead s a n, (runLines a n).foldl homeRead s)
  else
    (lineParts (n / 64 + 2) w n).foldl (fun r p =>
      let q := pathReadLine r.2 t p.1 p.2
      (r.1 ++ q.1, q.2)) ([], s)

/-- A write of a path to another device: each piece is incomplete until it is answered, and an error is reported (05 R217). -/
def pathSend (t : Tid) (w : Word) (s : State) (c : Nat × List Byte) : State :=
  let a := localOf w + 512 * c.1
  let s := s.modThr t (fun x => { x with inflight := x.inflight ++ [⟨some s.chain.nextTag, none⟩] })
  (request s (chainOf w) pWrite (BitVec.ofNat 48 a) 0xFFFFFFFFFFFFFFFF#64 c.2
    (fun _ => .pathWrite t (w + BitVec.ofNat 64 (512 * c.1)))).2

/-- Bytes that a path of a lathe writes. -/
def pathWrite (s : State) (t : Tid) (w : Word) (d : List Byte) : State :=
  if isSelf s (chainOf w) then
    let a := canon s t w
    memWrite ((runLines a d.length).foldl homeWrite (serveRun s (some t) a d.length)) a d
  else
    let s := storeCopies s w d
    let s := s.modCore t.lathe.val t.core.val (fun c => { c with
      lines := c.lines.map (fun q => { q with data := overlay q.line.toNat q.data (addressed w d) }) })
    (indexed (pieces 512 (cdiv d.length 512) d)).foldl (pathSend t w) s

def lvMemLegal (store : Bool) (f : Fld) : Bool :=
  (if store then Use.g.ok f.d && lvReg f.s2 else lvReg f.d && f.s2 == 0) && Use.g.ok f.s1 && lvSub f == 0 && !lvSb f &&
    (decide (lvFmt f ≤ 5) || fmtReserved (lvFmt f))

/-- Element `i` is at base + i * stride * b; a stride of 0 is 1. -/
def lvElems (c : Core) (base : Word) (stride : Int) (fmt : Nat) (me : Bool) (mk : Nat) : Elems :=
  let st : Int := (if stride = 0 then 1 else stride) * (fmtBits fmt / 8 : Nat)
  ((List.range 512).filter (laneOn c me mk)).map (fun i => (i, base + BitVec.ofInt 64 ((i : Int) * st)))

/-- Seed and step of the thread's task (03 R146, 04 R167). -/
def taskSeed (x : Thread) : Word := (x.task.map (fun r => r.snap.seed)).getD 0
def taskStep (x : Thread) : BitVec 32 := (x.task.map (fun r => r.snap.step)).getD 0

def keyAmax (key : Word) : Bool := key.getLsbD 52
def keyTensor (key : Word) : BitVec 16 := (key >>> 32).setWidth 16

/-- The stochastic key of an LVST. -/
def lvKey (a : LvAccess) : Key := ⟨a.seed, keyTensor a.key, a.step, wbits a.key 48 4⟩

/-- Lane `i` of an LVST converted to its format. -/
def lvConvert (a : LvAccess) (x : F32) (i : Nat) : Cvt :=
  let rm := a.rm.toNat
  let c := convert a.fmt.toNat (modeAt rm (some (lvKey a)) (wbits a.key 0 32 + i)) (f32v x)
  { c with fl := c.fl ||| fIf (f32v x).isSig fNv }

/-- The bytes that an LVST stores at an element. -/
def lvBytes (s : State) (t : Tid) (a : LvAccess) (e : Nat × Word) : List Byte :=
  leBytes (fmtBits a.fmt.toNat / 8) (lvConvert a (laneOf ((s.ctx t).lvr a.src) e.1) e.1).code

/-- Neighbouring elements of one line. -/
def lineGroups : Elems → List (Word × Elems)
  | [] => []
  | e :: r =>
    match lineGroups r with
    | (l, g) :: gs => if lineAt e.2 = l then (l, e :: g) :: gs else (lineAt e.2, [e]) :: (l, g) :: gs
    | [] => [(lineAt e.2, [e])]

/-- A line with the bytes of an LVST's elements, and the mask of those bytes. -/
def lvImage (s : State) (t : Tid) (a : LvAccess) (g : Elems) : List Byte × Word :=
  g.foldl (fun r e =>
    let d := lvBytes s t a e
    (putAt r.1 (e.2.toNat % 64) d, r.2 ||| (BitVec.ofNat 64 (2 ^ d.length - 1) <<< (e.2.toNat % 64)))) (List.replicate 64 0, 0)

def lvSet (s : State) (t : Tid) (a : LvAccess) : State :=
  s.modCore t.lathe.val t.core.val (fun c => { c with lvAccess := some a })

/-- Read a line of another device: a copy of it serves at once (R310), else a READ goes out. `put` lists the line. -/
def askLine (t : Tid) (put : State → LvLine → State) (origin : Origin) (s : State) (w : Word) : State :=
  match (if rcacheAt s w then copyOf s t w else none) with
  | some c => put (copyHit s t w) ⟨w, none, c.data, none⟩
  | none =>
    (request (put s ⟨w, some s.chain.nextTag, [], none⟩) (chainOf w) pRead (BitVec.ofNat 48 (localOf w)) 0 (leBytes 2 64)
      (fun _ => origin)).2

/-- The lines of other devices that runs of bytes touch. -/
def farLines (s : State) (ps : List (Word × Nat)) : List Word :=
  ((ps.filter (fun p => !isSelf s (chainOf p.1))).flatMap (fun p =>
    (lineParts (p.2 / 64 + 2) p.1 p.2).map (fun q => lineAt q.1))).eraseDups

/-- Where the lines that an access reads on other devices stand. -/
inductive Far where
  /-- all are here -/
  | ready (s : State)
  /-- some are out -/
  | out (s : State)
  /-- an error response, and its line -/
  | err (code : Nat) (line : Word) (s : State)

/-- Where they stand once those not listed are asked for. -/
def farNow (t : Tid) (ps : List (Word × Nat)) (get : State → List LvLine) (put : State → LvLine → State) (origin : Origin)
    (s : State) : Far :=
  let ws := farLines s ps
  let s1 := (ws.filter (fun w => !(get s).any (fun q => q.line == w))).foldl (askLine t put origin) s
  let ls := (get s1).filter (fun q => ws.contains q.line)
  if ls.any (fun q => q.tag.isSome) then .out s1
  else
    match ls.find? (fun q => q.err.isSome) with
    | some q => .err (q.err.getD 1) q.line s1
    | none => .ready s1

/-- The lines of the operation at the head of a queue of `t`'s core. -/
def farPath (s : State) (t : Tid) (ps : List (Word × Nat)) : Far :=
  farNow t ps (fun s => (s.ctx t).lines)
    (fun s q => s.modCore t.lathe.val t.core.val (fun c => { c with lines := c.lines ++ [q] })) (.path t) s

/-- The lines of a record that an instruction of `t` reads. -/
def farRecord (s : State) (t : Tid) (ps : List (Word × Nat)) : Far :=
  farNow t ps (fun s => (s.thr t).recLines) (fun s q => s.modThr t (fun x => { x with recLines := x.recLines ++ [q] })) (.record t) s

/-- `n` bytes at `w` among the lines of a record. -/
def lineBytes (ls : List LvLine) (w : Word) (n : Nat) : List Byte :=
  (lineParts (n / 64 + 2) w n).flatMap (fun p =>
    match ls.find? (fun q => q.line == lineAt p.1) with
    | some q => (q.data.drop (p.1.toNat % 64)).take p.2
    | none => List.replicate p.2 0)

/-- The cause of an error's code; code 4 stands for FENCED. -/
def codeCause (code : Nat) : Nat := if code = 4 then xFenced else (Answer.err code).cause

/-- An instruction of `t` reads `n` bytes at `w`, whose checks it has passed: from memory, or when the lines of the other device
have come. -/
def takeBytes (s : State) (t : Tid) (w : Word) (n : Nat) (k : List Byte → State → Res) : Res :=
  let clear (s : State) : State := s.modThr t (fun x => { x with recLines := [] })
  if isSelf s (chainOf w) then
    let r := pathRead s t w n
    k r.1 r.2
  else
    match farRecord s t [(w, n)] with
    | .out s => .wait .record s
    | .err code at_ s =>
      if code = 3 then .wait .poison (detect (clear s) ⟨cPoisonRead, 1, BitVec.ofNat 16 (coreIndex t), at_, some t, 0, false⟩)
      else .trap (codeCause code) at_ (clear s)
    | .ready s => k (lineBytes (s.thr t).recLines w n) (clear s)

/-- Ask for a line of another device for an LVLD or LVST: its elements go out as one request. -/
def lvAsk (t : Tid) (s : State) (q : Word × Elems) : State :=
  match (s.ctx t).lvAccess with
  | none => s
  | some a =>
    let put (s : State) (l : LvLine) : State := lvSet s t { a with lines := a.lines ++ [l] }
    if a.store then
      let m := lvImage s t a q.2
      let s := put (q.2.foldl (fun s e => storeCopies s e.2 (lvBytes s t a e)) s) ⟨q.1, some s.chain.nextTag, [], none⟩
      (request s (chainOf q.1) pWrite (BitVec.ofNat 48 (localOf q.1)) m.2 m.1 (fun _ => .lv t)).2
    else askLine t put (.lv t) s q.1

/-- The checks of LVLD and LVST, and the start of the access. -/
def lvAccessBody (store : Bool) (op : Nat) (t : Tid) (f : Fld) : Body :=
  plain (lvMemLegal store f) fun s => withContext s t fun s =>
    if fmtReserved (lvFmt f) then .trap xFormat (BitVec.ofNat 64 (lvFmt f)) s
    else
      afterQueues s t fun s =>
        let x := s.thr t
        let base := x.rg f.s1.toNat
        let size := fmtBits (lvFmt f) / 8
        let es := lvElems (s.ctx t) base (lvStride f) (lvFmt f) (lvMe f) (lvMk f)
        let p : Perm := if store then .w else .r
        let kind := if store then 1 else 0
        let key := if store then x.rg f.d.toNat else 0
        match firstFault s t p size es with
        | some (_, c, v) => elemTrap s t kind size c v
        | none =>
          if store && keyAmax key && !mayMerge s (reqOf s t).world (keyTensor key) then
            .trap xWorld 0 (noteWorld s t base kind size)
          else
            match elemWait s t p true size es with
            | some (w, s) => .wait w s
            | none =>
              afterDrain s t (fun _ => true) fun s =>
                let a : LvAccess :=
                  { thread := t.thread.val, store := store, d := f.d.toNat, addr := base, stride := lvStride f
                    fmt := BitVec.ofNat 4 (lvFmt f), rm := BitVec.ofNat 2 (x.rmOf (lvRm f)), me := lvMe f, mreg := lvMk f
                    key := key, src := f.s2.toNat, seed := taskSeed x, step := taskStep x, inst := insWord op f }
                .wait .lvAccess ((lineGroups (es.filter (fun e => !isSelf s (chainOf e.2)))).foldl (lvAsk t) (lvSet s t a))

/-- LVLD (03 R145). -/
def bodyLvld (t : Tid) (f : Fld) : Body := lvAccessBody false 0x1C0 t f
def execLvld (t : Tid) (f : Fld) (s : State) : Oc := issue t 0x1C0 f (bodyLvld t f) s

/-- LVST (03 R146). -/
def bodyLvst (t : Tid) (f : Fld) : Body := lvAccessBody true 0x1C1 t f
def execLvst (t : Tid) (f : Fld) (s : State) : Oc := issue t 0x1C1 f (bodyLvst t f) s

/-- The bytes of an element of an LVLD: memory's, or those that its line brought. -/
def lvTake (s : State) (t : Tid) (a : LvAccess) (e : Nat × Word) : List Byte × State :=
  let n := fmtBits a.fmt.toNat / 8
  if isSelf s (chainOf e.2) then pathReadLine s t e.2 n
  else
    match a.lines.find? (fun q => q.line == lineAt e.2) with
    | some q => ((q.data.drop (e.2.toNat % 64)).take n, s)
    | none => (List.replicate n 0, s)

/-- The elements of an LVLD, each as FP32. -/
def lvLoad (s : State) (t : Tid) (a : LvAccess) (es : Elems) : SMap F32 × State :=
  es.foldl (fun r e =>
    let q := lvTake r.2 t a e
    (r.1 ++ [(e.1, elemF32 a.fmt.toNat (leNat q.1))], q.2)) ([], s)

/-- Store the elements of this device; a line that they fill is written whole. -/
def lvStore (s : State) (t : Tid) (a : LvAccess) (es : Elems) : State :=
  (lineGroups (es.filter (fun e => isSelf s (chainOf e.2)))).foldl (fun s g =>
    let m := lvImage s t a g.2
    if m.2 = 0xFFFFFFFFFFFFFFFF#64 then pathWrite s t g.1 m.1
    else g.2.foldl (fun s e => pathWrite s t e.2 (lvBytes s t a e)) s) s

/-- The end of an LVST none of whose elements erred: flags, conversion status and the merge of amax. -/
def lvStoreEnd (s : State) (t : Tid) (a : LvAccess) (es : Elems) : State :=
  let src := (s.ctx t).lvr a.src
  let cs := es.map (fun e => lvConvert a (laneOf src e.1) e.1)
  let xs := es.map (fun e => laneOf src e.1)
  let s := s.modThr t (fun x => x.raise (cs.foldl (fun (z : FFlags) c => z ||| c.fl) 0))
  let s := cvtStat s t.lathe.val (cs.foldl (fun (z : CStat) c => z ||| c.stat) 0)
  if keyAmax a.key then mergeStore s (keyTensor a.key) a.step (amaxList xs) (nonfiniteCount xs) else s

/-- The error response of an element on another device: its line's, or while that is out the one that the command reports. -/
def lvErr (a : LvAccess) (errs : List ElemErr) (e : Nat × Word) : Option Nat :=
  match a.lines.find? (fun q => q.line == lineAt e.2) with
  | some q => if q.tag.isSome then (errs.find? (fun r => r.elem.val == e.1)).map (fun r => r.code) else q.err
  | none => none

/-- Every line on another device is answered, or has an element whose error is reported. -/
def lvAnswered (a : LvAccess) (errs : List ElemErr) (es : Elems) : Bool :=
  a.lines.all (fun q => q.tag.isNone || es.any (fun e => lineAt e.2 == q.line && (lvErr a errs e).isSome))

/-- A poisoned line that an element of this device meets. -/
def elemPoison (s : State) (t : Tid) (es : Elems) (size : Nat) : Option Word :=
  (es.find? (fun e => isSelf s (chainOf e.2) && (poisonAt s (canon s t e.2) size).isSome)).map (fun e => e.2)

def endLvAccess (s : State) (t : Tid) (a : LvAccess) (errs : List ElemErr) : State :=
  let size := fmtBits a.fmt.toNat / 8
  let es := lvElems (s.ctx t) a.addr a.stride a.fmt.toNat a.me a.mreg
  let bad := es.filterMap (fun e => (lvErr a errs e).map (fun c => (e.2, c)))
  let drop (s : State) : State := s.modCore t.lathe.val t.core.val (fun c => { c with lvAccess := none })
  let s := if a.store then lvStore s t a es else s
  let poison : Option Word :=
    match bad.find? (fun b => b.2 == 3) with
    | some b => some b.1
    | none => if a.store then none else elemPoison s t es size
  match poison, bad with
  | some p, _ => meetPoison (drop s) t p
  | none, (v, code) :: _ => trapAtWait (drop s) t (codeCause code) v a.inst
  | none, [] =>
    if a.store then completeWait (lvStoreEnd (drop s) t a es) t
    else
      let r := lvLoad (drop s) t a es
      let put (c : Core) : Core :=
        { c with lv := mset c.lv a.d ((List.range 512).map (fun i => mget r.1 i (laneOf (c.lvr a.d) i))) }
      completeWait (r.2.modCore t.lathe.val t.core.val put) t

/-- LONG_VECTOR_ACCESS_COMPLETE: every element of the thread's LVLD or LVST has completed; `errs` are error responses that it
brings. It does not complete while a line of another device is out, a row is copied, or an older load cannot be served. -/
def execLongVectorAccessComplete (t : Tid) (errs : List ElemErr) (s : State) : Oc :=
  match (s.ctx t).lvAccess with
  | some a =>
    let es := lvElems (s.ctx t) a.addr a.stride a.fmt.toNat a.me a.mreg
    let near := es.filter (fun e => isSelf s (chainOf e.2))
    let held := (unserved s != 0 || !s.mem.rowCopy.isEmpty) && near.any (fun e =>
      let r := canon s t e.2
      memBusy s r || stuckBehind (serveRun s (some t) r 1) (some t) (some (bankOf s r)) s.mem.presented r (fmtBits a.fmt.toNat / 8))
    if a.thread = t.thread.val ∧ (s.thr t).st = .waiting .lvAccess ∧ clockRuns s t ∧ lvAnswered a errs es ∧ !held then
      .next (endLvAccess s t a errs)
    else .next s
  | none => .next s

end Sys2Proof.Machine
end

