-- ==== Sys2Proof/Machine/Blocks.lean ====
section
/-!
DEFINITION. Tensors in memory (04 R169 to R180, R550): descriptors, the bytes of a window, loading elements with their block
exponents, and storing elements with shifts, escapes and scale bytes.
-/

namespace Sys2Proof.Machine

/-! ## Descriptors (04 R179, R180) -/

def descBytes : Nat := 64

def tdescOf (w : Word) (b : List Byte) : TDesc :=
  { at_ := w, data := BitVec.ofNat 64 (leAt b 0 8), shift := BitVec.ofNat 64 (leAt b 8 8)
    escape := BitVec.ofNat 64 (leAt b 0x10 8), rows := leAt b 0x18 4, cols := leAt b 0x1C 4
    tensor := BitVec.ofNat 16 (leAt b 0x20 2), fmt := BitVec.ofNat 4 (leAt b 0x22 1), base := signedOf 8 (leAt b 0x23 1)
    initBase := signedOf 8 (leAt b 0x24 1), escGroup := leAt b 0x25 1 % 8 }

def TDesc.c (d : TDesc) : Nat := d.fmt.toNat

/-- A descriptor that makes an instruction raise XC_FORMAT (R151, R171, R180). -/
def TDesc.bad (d : TDesc) : Bool :=
  fmtReserved d.c || decide (4 < d.escGroup) || d.initBase == -128 || (fmtBlock d.c && d.cols % 32 != 0)

/-- The checks of a record's read, which is one load (05 R198). -/
def recordCheck (s : State) (t : Tid) (a : Word) (n : Nat) : Acc :=
  if a.toNat % 64 ≠ 0 then .trap xAlign a
  else if !windowOk (s.thr t) .r a n then .trap xWindow a
  else checkAcc s (reqOf s t) a n true

/-- Read `n` bytes at a 64-byte aligned address at issue: the checks of the read, then its bytes (02 R93). -/
def readRecord (s : State) (t : Tid) (a : Word) (n : Nat) (k : List Byte → State → Res) : Res :=
    match recordCheck s t a n with
    | .trap c v => elemTrap s t 0 n c v
    | .wake l => .wait (.wake l) (wakeLathe s l)
    | _ =>
      if isSelf s (chainOf a) && runBusy s (canon s t a) n then .wait .memory s
      else if isSelf s (chainOf a) && (poisonAt s (canon s t a) n).isSome then
        .wait .poison (detect s ⟨cPoisonRead, 1, BitVec.ofNat 16 (coreIndex t), a, some t, 0, false⟩)
      else takeBytes s t a n k

/-! ## Windows of a tensor (05 R211) -/

/-- A run of elements of one tensor row: the linear index of its first element, and their number. -/
abbrev Run := Nat × Nat

/-- The in-bounds runs of a window of `rows` by `cols` tensor elements at (r0, c0), in row order. -/
def windowRuns (d : TDesc) (r0 c0 rows cols : Nat) : List Run :=
  let n := min cols (d.cols - c0)
  if n = 0 then []
  else (List.range (min rows (d.rows - r0))).map (fun i => ((r0 + i) * d.cols + c0, n))

/-- Address of byte `k` of the data plane. -/
def dataAt (d : TDesc) (k : Nat) : Word := d.data + BitVec.ofNat 64 k

/-- First byte and byte count of a run in the data plane. -/
def runBytes (d : TDesc) (r : Run) : Nat × Nat :=
  let b := fmtBits d.c
  (r.1 * b / 8, (r.1 + r.2) * b / 8 + (if (r.1 + r.2) * b % 8 = 0 then 0 else 1) - r.1 * b / 8)

/-- Bytes that an operation accesses: the permission they need, and the size of each access among them. -/
structure Span where
  perm : Perm
  at_ : Word
  n : Nat
  unit : Nat := 1
  deriving DecidableEq, Repr

def Span.run (p : Span) : Word × Nat := (p.at_, p.n)

/-- The bytes of the planes that belong to blocks `b0` to `b1`: shift codes and escape slots, or scale bytes. -/
def planeSpans (p : Perm) (d : TDesc) (b0 b1 : Nat) : List Span :=
  if fmtTB d.c then
    [⟨p, d.shift + BitVec.ofNat 64 (b0 / 2), b1 / 2 - b0 / 2 + 1, 1⟩,
     ⟨p, d.escape + BitVec.ofNat 64 (2 * (b0 / 2 ^ d.escGroup)), 2 * (b1 / 2 ^ d.escGroup - b0 / 2 ^ d.escGroup + 1), 2⟩]
  else if fmtMX d.c then [⟨p, d.shift + BitVec.ofNat 64 b0, b1 - b0 + 1, 1⟩]
  else []

/-- The blocks that a store of a run writes in part. -/
def partBlocks (d : TDesc) (r : Run) : List Nat :=
  if !fmtBlock d.c then []
  else ([r.1 / 32, (r.1 + r.2 - 1) / 32].eraseDups).filter (fun b => decide (32 * b < r.1) || decide (r.1 + r.2 < 32 * b + 32))

/-- The bytes an access to a run touches: data, shift or scale plane, escape slots (R171, R178). A store reads and may write all of
a block that it writes in part (R550). -/
def runSpans (p : Perm) (d : TDesc) (r : Run) : List Span :=
  let q := runBytes d r
  let data : Span := ⟨p, dataAt d q.1, q.2, max 1 (fmtBits d.c / 8)⟩
  let part (b : Nat) : List Span :=
    let k := runBytes d (32 * b, 32)
    ⟨.rw, dataAt d k.1, k.2, 1⟩ :: planeSpans .rw d b b
  data :: planeSpans p d (r.1 / 32) ((r.1 + r.2 - 1) / 32) ++ (if p = .r then [] else (partBlocks d r).flatMap part)

/-- The checks of a span: alignment before the others at one byte (02 R72, R93). -/
def checkSpan (s : State) (t : Tid) (p : Span) : Acc :=
  if p.n ≠ 0 ∧ p.at_.toNat % p.unit ≠ 0 then .trap xAlign p.at_ else checkRun s t p.perm p.at_ p.n

/-- The outcome of the checks of several spans: the lowest-addressed failing byte (05 R217). -/
def checkSpans (s : State) (t : Tid) (ps : List Span) : Acc :=
  ps.foldl (fun (best : Acc) p =>
    match checkSpan s t p, best with
    | .trap c v, .trap c' v' => if v.toNat < v'.toNat then .trap c v else .trap c' v'
    | .trap c v, _ => .trap c v
    | _, .trap c' v' => .trap c' v'
    | .wake l, _ => .wake l
    | _, .wake l => .wake l
    | _, b => b) .ok

/-- A row copy or poison that the bytes of this device meet when they are read. -/
def spansBusy (s : State) (t : Tid) (ps : List (Word × Nat)) : Bool :=
  ps.any (fun p => isSelf s (chainOf p.1) && runBusy s (canon s t p.1) p.2)

/-- The first poisoned byte that the runs meet. -/
def spansPoison (s : State) (t : Tid) (ps : List (Word × Nat)) : Option Word :=
  ps.findSome? (fun p =>
    let a := canon s t p.1
    if isSelf s (chainOf p.1) then (poisonAt s a p.2).map (fun l => p.1 + BitVec.ofNat 64 (l - a)) else none)

/-! ## Loading (R169 to R171, R177, R178) -/

/-- Code of element `i` in the bytes of a run whose first byte is byte `k0` of the plane. -/
def codeIn (c : Nat) (k0 : Nat) (b : List Byte) (i : Nat) : Nat :=
  let w := fmtBits c
  nbits (leAt b (i * w / 8 - k0) (max 1 (w / 8))) (i * w % 8) w

/-- The exponent of block `b`; `none` decodes every element as NaN. Whether an escape was missed. -/
def blockExp (d : TDesc) (B : Int) (b : Nat) (code slot : Nat) : Option Int × Bool :=
  if fmtMX d.c then (if code = 0xFF then (none, false) else (some ((code : Int) - 127), false))
  else if code = 8 then
    (if slot.testBit 15 ∧ nbits slot 8 4 = b % 2 ^ d.escGroup then (some ((nbits slot 0 8 : Int) - 127), false)
     else (some B, true))
  else (some (B + shiftOf code), false)

/-- The shift or scale code of block `b`, and its escape slot where the code is ESCAPE. -/
def blockCodes (s : State) (t : Tid) (d : TDesc) (b : Nat) : (Nat × Nat) × State :=
  if fmtMX d.c then
    let r := pathRead s t (d.shift + BitVec.ofNat 64 b) 1
    ((leNat r.1, 0), r.2)
  else
    let r := pathRead s t (d.shift + BitVec.ofNat 64 (b / 2)) 1
    let code := nbits (leNat r.1) (4 * (b % 2)) 4
    if code = 8 then
      let q := pathRead r.2 t (d.escape + BitVec.ofNat 64 (2 * (b / 2 ^ d.escGroup))) 2
      ((code, leNat q.1), q.2)
    else ((code, 0), r.2)

/-- The exponent of a block as it stands under base `B`. -/
def readExp (s : State) (t : Tid) (d : TDesc) (B : Int) (b : Nat) : (Option Int × Bool) × State :=
  let r := blockCodes s t d b
  (blockExp d B b r.1.1 r.1.2, r.2)

/-- Exponents of the blocks `b0` to `b0 + n - 1`. -/
def readExps (s : State) (t : Tid) (d : TDesc) (B : Int) (b0 n : Nat) : List (Option Int × Bool) × State :=
  (List.range n).foldl (fun r k =>
    let q := readExp r.2 t d B (b0 + k)
    (r.1 ++ [q.1], q.2)) ([], s)

/-- A loaded element: linear index, code, exponent (0 for element formats), whether an escape was missed. -/
structure Elt where
  lin : Nat
  code : Nat
  exp : Option Int
  miss : Bool
  deriving DecidableEq, Repr

/-- The elements of one run. -/
def loadRun (s : State) (t : Tid) (d : TDesc) (B : Int) (r : Run) : List Elt × State :=
  let q := runBytes d r
  let data := pathRead s t (dataAt d q.1) q.2
  let b0 := r.1 / 32
  let es : List (Option Int × Bool) × State :=
    if fmtBlock d.c then readExps data.2 t d B b0 ((r.1 + r.2 - 1) / 32 - b0 + 1) else ([], data.2)
  ((List.range r.2).map (fun k =>
    let i := r.1 + k
    let e := if fmtBlock d.c then es.1.getD (i / 32 - b0) (none, false) else (some 0, false)
    ⟨i, codeIn d.c q.1 data.1 i, e.1, e.2⟩), es.2)

def loadRuns (s : State) (t : Tid) (d : TDesc) (B : Int) (rs : List Run) : List Elt × State :=
  rs.foldl (fun a r =>
    let q := loadRun a.2 t d B r
    (a.1 ++ q.1, q.2)) ([], s)

/-- An element as FP32: magnitudes above the range become infinities, those below it round to nearest (05 R213). -/
def Elt.val (c : Nat) (e : Elt) : F32 :=
  match e.exp with
  | some k => blockElem (if fmtBlock c then c else fmtElem c) e.code k
  | none => 0x7FC00000#32

/-- The base that a tensor's descriptor holds in memory, as loads and partial stores take it (R184, R550). -/
def baseNow (s : State) (t : Tid) (d : TDesc) : Int :=
  if isSelf s (chainOf d.at_) then signedOf 8 (memNat s (canon s t d.at_ + 0x23) 1) else d.base

/-! ## Storing (R172 to R176, R178, R550) -/

/-- How a store converts: format, rounding field and key, scale policy, base. -/
structure Enc where
  rm : Nat
  key : Option Key
  escapes : Bool
  base : Int
  deriving DecidableEq, Repr

/-- Codes to be written, by linear index, with the conversion status they raised. -/
structure Coded where
  codes : List (Nat × Nat) := []
  stat : CStat := 0
  deriving DecidableEq, Repr

def codeAt (d : TDesc) (q : Enc) (e : Int) (a : Coded) (x : Nat × F32) : Coded :=
  let c := convertAt d.c (modeAt q.rm q.key x.1) e x.2
  ⟨a.codes ++ [(x.1, c.code)], a.stat ||| c.stat⟩

def codeAll (d : TDesc) (q : Enc) (e : Int) (xs : List (Nat × F32)) : Coded := xs.foldl (codeAt d q e) {}

/-- Consecutive indices put together. -/
def runsOf : List (Nat × Nat) → List (Nat × List Nat)
  | [] => []
  | (i, c) :: r =>
    match runsOf r with
    | (j, cs) :: q => if j = i + 1 then (i, c :: cs) :: q else (i, [c]) :: (j, cs) :: q
    | [] => [(i, [c])]

/-- Two codes of 4 bits a byte, low nibble first. -/
def packNibbles : List Nat → List Byte
  | a :: b :: r => BitVec.ofNat 8 (a % 16 + 16 * (b % 16)) :: packNibbles r
  | [a] => [BitVec.ofNat 8 (a % 16)]
  | [] => []

/-- Write a run of codes from linear index `i`; 4-bit codes keep the other half of a byte they share. -/
def writeRun (s : State) (t : Tid) (d : TDesc) (r : Nat × List Nat) : State :=
  let w := fmtBits d.c
  if 8 ≤ w then
    pathWrite s t (dataAt d (r.1 * (w / 8))) (r.2.flatMap (leBytes (w / 8)))
  else
    let lo := r.1 / 2
    let fin := r.1 + r.2.length
    let pre : List Nat × State :=
      if r.1 % 2 = 1 then let q := pathRead s t (dataAt d lo) 1; ([leNat q.1 % 16], q.2) else ([], s)
    let post : List Nat × State :=
      if fin % 2 = 1 then let q := pathRead pre.2 t (dataAt d (fin / 2)) 1; ([leNat q.1 / 16], q.2) else ([], pre.2)
    pathWrite post.2 t (dataAt d lo) (packNibbles (pre.1 ++ r.2 ++ post.1))

def insertCode (x : Nat × Nat) : List (Nat × Nat) → List (Nat × Nat)
  | [] => [x]
  | y :: r => if x.1 ≤ y.1 then x :: y :: r else y :: insertCode x r

/-- Write codes at their places, in address order. -/
def writeCodes (s : State) (t : Tid) (d : TDesc) (cs : List (Nat × Nat)) : State :=
  (runsOf (cs.foldr insertCode [])).foldl (fun s r => writeRun s t d r) s

/-- Elements by block: block number and its elements, in order of first appearance. -/
def byBlock (xs : List (Nat × F32)) : List (Nat × List (Nat × F32)) :=
  xs.foldr (fun x acc =>
    match acc with
    | (b, ys) :: r => if b = x.1 / 32 then (b, x :: ys) :: r else (x.1 / 32, [x]) :: (b, ys) :: r
    | [] => [(x.1 / 32, [x])]) []

/-- A block to be stored: its written elements; what it held, where it is written in part: e_old and the unwritten elements. -/
structure Blk where
  b : Nat
  xs : List (Nat × F32)
  old : Option (Int × List (Nat × F32))
  /-- its escape was missed (R177) -/
  miss : Bool := false
  deriving DecidableEq, Repr

/-- The unwritten elements of a block written in part, decoded at its old exponent (R550). -/
def blockOld (s : State) (t : Tid) (d : TDesc) (B : Int) (b : Nat) (xs : List (Nat × F32)) :
    Option (Int × List (Nat × F32)) × Bool × State :=
  if xs.length = 32 then (none, false, s)
  else
    let q := loadRun s t d B (32 * b, 32)
    let e := (q.1.head?.bind (fun x => x.exp)).getD (-127)
    (some (e, (q.1.filter (fun x => !xs.any (fun y => y.1 == x.lin))).map (fun x => (x.lin, x.val d.c))),
      q.1.any (fun x => x.miss), q.2)

def blocksToStore (s : State) (t : Tid) (d : TDesc) (B : Int) (xs : List (Nat × F32)) : List Blk × State :=
  (byBlock xs).foldl (fun a p =>
    let q := blockOld a.2 t d B p.1 p.2
    (a.1 ++ [⟨p.1, p.2, q.1, q.2.1⟩], q.2.2)) ([], s)

/-- The codes of a block stored at exponent `e`: the written elements, and the others where the exponent changed. -/
def blkCodes (d : TDesc) (q : Enc) (e : Int) (k : Blk) : Coded :=
  let w := codeAll d q e k.xs
  match k.old with
  | some (e0, ys) => if e0 = e then w else let o := codeAll d q e ys; ⟨w.codes ++ o.codes, w.stat ||| o.stat⟩
  | none => w

def blkMax (k : Blk) (e : Int) : Int :=
  match k.old with
  | some (e0, _) => max e e0
  | none => e

/-- What a store leaves for the scale table and FU_CVTSTAT. -/
structure StoreStat where
  stat : CStat := 0
  clamp : Nat := 0
  escape : Nat := 0
  full : Nat := 0
  deriving DecidableEq, Repr

def StoreStat.add (a b : StoreStat) : StoreStat := ⟨a.stat ||| b.stat, a.clamp + b.clamp, a.escape + b.escape, a.full + b.full⟩

/-- A microscaling block (R178). -/
def storeMx (s : State) (t : Tid) (d : TDesc) (q : Enc) (k : Blk) : StoreStat × State :=
  let e := blkMax k (mxExp d.c (k.xs.map (fun x => x.2)))
  let c := blkCodes d q e k
  let s := pathWrite s t (d.shift + BitVec.ofNat 64 k.b) [BitVec.ofInt 8 (e + 127)]
  ({ stat := c.stat }, writeCodes s t d c.codes)

/-- Put a shift code in its nibble. -/
def writeShift (s : State) (t : Tid) (d : TDesc) (b code : Nat) : State :=
  let w := d.shift + BitVec.ofNat 64 (b / 2)
  let q := pathRead s t w 1
  let o := leNat q.1
  let v := if b % 2 = 0 then o / 16 * 16 + code % 16 else o % 16 + 16 * (code % 16)
  pathWrite q.2 t w [BitVec.ofNat 8 v]

/-- e_blk of a Turler block: within the window, or beyond it. -/
def tbBlk (d : TDesc) (B : Int) (k : Blk) : Int := blkMax k (tbExp d.c B (k.xs.map (fun x => x.2)))

def inWindow (B e : Int) : Bool := decide (-7 ≤ e - B) && decide (e - B ≤ 7)

/-- Store a Turler block at shift `sh`, exponent `e`. -/
def storeTb (s : State) (t : Tid) (d : TDesc) (q : Enc) (k : Blk) (sh : Nat) (e : Int) : StoreStat × State :=
  let c := blkCodes d q e k
  ({ stat := c.stat }, writeCodes (writeShift s t d k.b sh) t d c.codes)

/-- The slot of an escape group after a store that wrote blocks `ks` of it: kept, cleared, or taken (R174, R175). The taker. A slot
with no taker is written as 0 whole, though R174 gives only its valid bit (DESIGN CHOICE, notes/assumptions/58.md). -/
def storeSlot (s : State) (t : Tid) (d : TDesc) (B : Int) (g : Nat) (ks asks : List Blk) : Option Nat × State :=
  let G := 2 ^ d.escGroup
  let blocks := d.rows * d.cols / 32
  let members := (List.range G).filterMap (fun j => if g * G + j < blocks then some (g * G + j) else none)
  let whole := members.all (fun b => ks.any (fun k => k.b == b))
  let w := d.escape + BitVec.ofNat 64 (2 * g)
  let r := if whole then (([] : List Byte), s) else pathRead s t w 2
  let slot := leNat r.1
  let keep := !whole && slot.testBit 15 && !ks.any (fun k => k.b == g * G + nbits slot 8 4)
  if keep then (none, r.2)
  else
    match asks.head? with
    | none => (none, pathWrite r.2 t w [0, 0])
    | some k =>
      let E := (clampI (-127) 127 (tbBlk d B k) + 127).toNat
      (some k.b, pathWrite r.2 t w (leBytes 2 (0x8000 + (k.b - g * G) * 256 + E)))

/-- Store one block whose exponent lies outside the window, when it does not take the slot. -/
def storeClamped (s : State) (t : Tid) (d : TDesc) (q : Enc) (k : Blk) : StoreStat × State :=
  let sh : Int := if tbBlk d q.base k < q.base then -7 else 7
  storeTb s t d q k (unsignedOf 4 sh) (q.base + sh)

/-- Store one Turler block: in the window, escaped, clamped by policy, or clamped for want of a slot. -/
def storeOne (s : State) (t : Tid) (d : TDesc) (q : Enc) (taker : Option Nat) (k : Blk) : StoreStat × State :=
  let e := tbBlk d q.base k
  if inWindow q.base e then storeTb s t d q k (unsignedOf 4 (e - q.base)) e
  else if !q.escapes then
    let r := storeClamped s t d q k
    (r.1.add { stat := cClamp, clamp := 1 }, r.2)
  else if taker = some k.b then
    let r := storeTb s t d q k 8 (clampI (-127) 127 e)
    (r.1.add { escape := 1 }, r.2)
  else
    let r := storeClamped s t d q k
    (r.1.add { stat := cFull, full := 1 }, r.2)

/-- Store the blocks of one escape group. -/
def storeGroup (s : State) (t : Tid) (d : TDesc) (q : Enc) (g : Nat) (ks : List Blk) : StoreStat × State :=
  let asks := ks.filter (fun k => q.escapes && !inWindow q.base (tbBlk d q.base k))
  let slot := storeSlot s t d q.base g ks asks
  ks.foldl (fun a k =>
    let r := storeOne a.2 t d q slot.1 k
    (a.1.add r.1, r.2)) (({} : StoreStat), slot.2)

/-- Store FP32 values, by rising linear index, into a tensor (05 R214): the descriptor's base is written for a Turler format
(R184). -/
def storeTensor (s : State) (t : Tid) (d : TDesc) (q : Enc) (xs : List (Nat × F32)) : StoreStat × State :=
  if !fmtBlock d.c then
    let c := codeAll d q 0 xs
    ({ stat := c.stat }, writeCodes s t d c.codes)
  else
    let B0 := baseNow s t d
    let bs := blocksToStore s t d B0 xs
    let z : StoreStat := { stat := if bs.1.any (fun k => k.miss) then cMiss else 0 }
    if fmtMX d.c then
      bs.1.foldl (fun a k =>
        let r := storeMx a.2 t d q k
        (a.1.add r.1, r.2)) (z, bs.2)
    else
      let s := pathWrite bs.2 t (d.at_ + 0x23) [BitVec.ofInt 8 q.base]
      let gs := (bs.1.map (fun k => k.b / 2 ^ d.escGroup)).eraseDups
      gs.foldl (fun a g =>
        let r := storeGroup a.2 t d q g (bs.1.filter (fun k => k.b / 2 ^ d.escGroup == g))
        (a.1.add r.1, r.2)) (z, s)

/-- A block of a block tile stored as it is: its number, exponent, and codes by linear index. -/
structure TileBlk where
  b : Nat
  exp : Int
  codes : List (Nat × Nat)
  deriving DecidableEq, Repr

/-- The shift of an unchanged block; one of zeros alone stands at R172's -7. -/
def TileBlk.shift (d : TDesc) (B : Int) (k : TileBlk) : Option Int :=
  if inWindow B k.exp then some (k.exp - B)
  else if k.codes.all (fun p => p.2 % 2 ^ (fmtBits d.c - 1) == 0) then some (-7)
  else none

/-- Store the blocks of a tile unchanged under base `B`, which keeps each within its window (05 R214). -/
def storeSame (s : State) (t : Tid) (d : TDesc) (B : Int) (ks : List TileBlk) : State :=
  let s := pathWrite s t (d.at_ + 0x23) [BitVec.ofInt 8 B]
  let s := ((ks.map (fun k => k.b / 2 ^ d.escGroup)).eraseDups).foldl (fun s g =>
    (storeSlot s t d B g ((ks.filter (fun k => k.b / 2 ^ d.escGroup == g)).map (fun k => ⟨k.b, [], none, false⟩)) []).2) s
  ks.foldl (fun s k => writeCodes (writeShift s t d k.b (unsignedOf 4 ((k.shift d B).getD 0))) t d k.codes) s

/-- The counts of a store in its tensor's entry, and its conversion status. -/
def noteStore (s : State) (l : Nat) (T : BitVec 16) (r : StoreStat) : State :=
  eCount (eCount (eCount (cvtStat s l r.stat) T eClamp r.clamp) T eEscape r.escape) T eFull r.full

end Sys2Proof.Machine
end

