-- ==== Sys2Proof/Machine/Tiles.lean ====
section
/-!
DEFINITION. Tile registers and accumulator tiles (05): shapes and storage, TCFG and its waits, TREL, TLD, TST, TZERO, the issue of
TMMA, and the completion of a queued tile operation.
-/

namespace Sys2Proof.Machine

/-! ## A tile's elements (05 R191, R213, R222) -/

def Core.tile (c : Core) (k : Nat) : Tile := mget c.tiles k {}
def Core.putTile (c : Core) (k : Nat) (x : Tile) : Core := { c with tiles := mset c.tiles k x }

def Tile.conf (x : Tile) : Bool := x.rows != 0

/-- The code of an element; an empty tile reads as zeros. -/
def Tile.code (x : Tile) (i : Nat) : Nat := if x.loaded then (x.data.getD i 0).toNat else 0

/-- The exponent of a block; an empty tile reads -127. -/
def Tile.exp (x : Tile) (b : Nat) : Int := if x.loaded then x.exps.getD b (-127) else -127

/-- Element `i` as FP32, its block exponent applied. -/
def Tile.elem (x : Tile) (i : Nat) : F32 :=
  let c := x.fmt.toNat
  if fmtBlock c then blockElem c (x.code i) (x.exp (i / 32)) else elemF32 c (x.code i)

/-- The elements of a tile, row-major. -/
def Tile.vals (x : Tile) : List F32 := (List.range (x.rows * x.cols)).map x.elem

/-- New contents; the version advances (R230). -/
def Tile.load (x : Tile) (data : List F32) (exps : List Int) : Tile :=
  { x with loaded := true, data := data, exps := exps, version := x.version + 1 }

/-- The exponent of a block of a tile: ceil(log2 a) - emax, or -127 when a = 0 (R213). -/
def tileExp (c : Nat) (xs : List F32) : Int :=
  let a := blockMax xs
  if a = 0 then -127 else ceilLog2 a - fmtEmax c

/-- FP32 values converted into a tile's format, and the conversion status (R213, 07 R274). -/
def Tile.fill (x : Tile) (rm : Nat) (xs : List F32) : Tile × CStat :=
  let c := x.fmt.toNat
  let mode := plainMode rm
  let conv (e : Int) (ys : List F32) : List Cvt := ys.map (convertAt c mode e)
  let blocks := if fmtBlock c then pieces 32 (xs.length / 32) xs else []
  let exps := blocks.map (tileExp c)
  let cs := if fmtBlock c then ((exps.zip blocks).map (fun p => conv p.1 p.2)).flatten else conv 0 xs
  (x.load (cs.map (fun q => BitVec.ofNat 32 q.code)) exps, cs.foldl (fun (z : CStat) q => z ||| q.stat) 0)

/-! ## Shape faults (05 R223) -/

/-- A failing shape check, as TFAULT records it. -/
structure TFault where
  actual : Nat
  expected : Nat
  dim : Nat
  operand : Nat
  tile : Nat
  deriving DecidableEq, Repr

def dRows : Nat := 1
def dCols : Nat := 2
def dFormat : Nat := 3
def dK : Nat := 4
def dStorage : Nat := 5
def dAlign : Nat := 6

def TFault.word (f : TFault) : Word :=
  BitVec.ofNat 64 (min f.actual 0xFFFFFFFF * 2 ^ 32 + f.expected % 65536 * 2 ^ 16 + f.dim * 2 ^ 8 + f.operand * 2 ^ 4 + f.tile)

/-- XC_TILE_SHAPE. -/
def shapeTrap (s : State) (t : Tid) (f : TFault) : Res :=
  .trap xShape 0 (s.modThr t (fun x => { x with tfault := f.word }))

/-- The first failing check of a list: each a condition that must hold, with what TFAULT records when it does not. -/
def firstBad : List (Bool × TFault) → Option TFault
  | [] => none
  | (ok, f) :: r => if ok then firstBad r else some f

def withShape (s : State) (t : Tid) (cs : List (Bool × TFault)) (k : State → Res) : Res :=
  match firstBad cs with
  | some f => shapeTrap s t f
  | none => k s

/-! ## Storage (05 R194, R195) -/

/-- A shape: tile number, rows, cols, format. -/
abbrev Shape := Nat × Nat × Nat × Nat

def shapeTile (x : Shape) : Tile := { rows := x.2.1, cols := x.2.2.1, fmt := BitVec.ofNat 4 x.2.2.2 }

/-- Data size in bytes. -/
def tileData (rows cols fmt : Nat) : Nat := rows * cdiv (cols * fmtBits fmt) 8

/-- The formats of Table 5-1. -/
def tileFmt (c : Nat) : Bool := c ≤ 6 || fmtTB c

/-- Granules that a list of changed tiles asks for beyond those they hold, in the tile file (`acc` false) or accumulator store. -/
def need (c : Core) (acc : Bool) (ch : List Shape) : Int :=
  (ch.filter (fun x => decide (8 ≤ x.1) == acc)).foldl (fun n x =>
    n + (tileGranules x.1 (shapeTile x) : Int) - (tileGranules x.1 (c.tile x.1) : Int)) 0

/-- A TCFG applies: storage freed and allocated, shapes recorded, every changed tile empty or unconfigured (R203). -/
def applyCfg (s : State) (t : Tid) (ch : List Shape) : State :=
  let c := s.ctx t
  let rt := need c false ch
  let ra := need c true ch
  let s := s.modLathe t.lathe.val (fun y =>
    { y with tileFree := ((y.tileFree : Int) - rt).toNat, accFree := ((y.accFree : Int) - ra).toNat })
  s.modCore t.lathe.val t.core.val (fun c => ch.foldl (fun c x =>
    c.putTile x.1 { shapeTile x with version := (c.tile x.1).version + 1 }) c)

/-! ## TCFG (05 R198 to R205) -/

/-- An entry of a configuration record; a shape of 0 rows or columns is 0 x 0 with format 0 (R191). -/
def cfgEntry (b : List Byte) (e : Nat) : Shape :=
  let w := leAt b (8 * e) 8
  let rows := nbits w 0 16
  let cols := nbits w 16 16
  if rows = 0 ∨ cols = 0 then (e, 0, 0, 0) else (e, rows, cols, nbits w 32 4)

/-- Table 5-5. -/
def cfgChecks (x : Shape) : List (Bool × TFault) :=
  let e := x.1
  let rows := x.2.1
  let cols := x.2.2.1
  let fmt := x.2.2.2
  let acc : Bool := 8 ≤ e
  let lim := if acc then 128 else 512
  let data := tileData rows cols fmt
  [(decide (rows ≤ lim), ⟨rows, lim, dRows, 5, e⟩),
   (decide (cols ≤ 512), ⟨cols, 512, dCols, 5, e⟩),
   (if acc then fmt == 0 else tileFmt fmt, ⟨fmt, if acc then 0 else 0xFFFF, dFormat, 5, e⟩),
   (!fmtBlock fmt || cols % 32 == 0, ⟨cols, 32, dAlign, 5, e⟩),
   (acc || decide (data ≤ 131072), ⟨cdiv data 1024, 128, dStorage, 5, e⟩)]

/-- The first failing check of the masked entries: a reserved format code, or a shape. -/
def cfgBad : List Shape → Option (Nat ⊕ TFault)
  | [] => none
  | x :: r =>
    if x.2.1 = 0 then cfgBad r
    else if fmtReserved x.2.2.2 then some (.inl x.2.2.2)
    else
      match firstBad (cfgChecks x) with
      | some f => some (.inr f)
      | none => cfgBad r

/-- The entry changes its tile (R200). -/
def changes (c : Core) (x : Shape) : Bool :=
  let y := c.tile x.1
  !(y.rows == x.2.1 && y.cols == x.2.2.1 && y.fmt.toNat == x.2.2.2)

/-- The context would hold more storage than the lathe has (R204). -/
def tooMuch (c : Core) (ch : List Shape) : Bool :=
  decide (4096 < (fileGranules c : Int) + need c false ch) || decide (2048 < (accGranules c : Int) + need c true ch)

/-- The shapes that a waiting TCFG asks for. -/
def cfgWait (x : Thread) : Option (Word × List Shape) :=
  match x.st with
  | .waiting (.tcfg i ch _) => some (i, ch)
  | _ => none

def tidOf? (l c k : Nat) : Option Tid := (coreThreads l c)[k]?

/-- Both parts of the head of the FIFO fit in the free storage. -/
def partsFit (y : Lathe) (c : Core) (ch : List Shape) : Bool :=
  decide (need c false ch ≤ (y.tileFree : Int)) && decide (need c true ch ≤ (y.accFree : Int))

/-- The head of the FIFO, with its request: thread, instruction, shapes. -/
def cfgHead (s : State) (l : Nat) : Option (Tid × Word × List Shape) :=
  match (s.lathe l).tcfgQ with
  | [] => none
  | p :: _ => (tidOf? l p.1 p.2).bind (fun t => (cfgWait (s.thr t)).map (fun w => (t, w.1, w.2)))

/-- A context that holds storage of a kind that the head lacks has an owner that does not wait in the FIFO. -/
def canRelease (s : State) (l : Nat) (lackT lackA : Bool) (c : Nat) : Bool :=
  let x := s.core l c
  ((lackT && decide (0 < fileGranules x)) || (lackA && decide (0 < accGranules x))) &&
    (match x.owner with
      | some k => !(s.lathe l).tcfgQ.contains (c, k)
      | none => true)

/-- The stall of R204: the head cannot be granted, and no owner can release what it lacks. -/
def cfgStall (s : State) (l : Nat) : Bool :=
  match cfgHead s l with
  | some (t, _, ch) =>
    let y := s.lathe l
    let c := s.ctx t
    let lackT := decide ((y.tileFree : Int) < need c false ch)
    let lackA := decide ((y.accFree : Int) < need c true ch)
    (lackT || lackA) && !(List.range 68).any (canRelease s l lackT lackA)
  | none => false

/-- While the stall holds, the youngest entry leaves the FIFO and traps. `n` bounds the entries. -/
def breakStall (l : Nat) : Nat → State → State
  | 0, s => s
  | n + 1, s =>
    if cfgStall s l then
      match (s.lathe l).tcfgQ.getLast? with
      | some p =>
        let s := s.modLathe l (fun y => { y with tcfgQ := y.tcfgQ.dropLast })
        (match tidOf? l p.1 p.2 with
          | some t =>
            (match cfgWait (s.thr t) with
              | some w => breakStall l n (trapAtWait s t xCapacity 0 w.1)
              | none => breakStall l n s)
          | none => breakStall l n s)
      | none => s
    else s

/-- The thread joins the FIFO (R202). -/
def joinCfg (s : State) (t : Tid) : State :=
  s.modLathe t.lathe.val (fun y => { y with tcfgQ := y.tcfgQ ++ [(t.core.val, t.thread.val)] })

/-- The interlock is over, or there is none (R201). -/
def interlocked (s : State) (t : Tid) (ch : List Shape) : Bool := tilesBusy (s.ctx t) (ch.map (fun x => x.1))

def needsStorage (c : Core) (ch : List Shape) : Bool := decide (0 < need c false ch) || decide (0 < need c true ch)

/-- The request of a TCFG whose record has passed its checks. -/
def requestCfg (s : State) (t : Tid) (inst : Word) (ch : List Shape) : Res :=
  if ch.isEmpty then .ok s
  else if tooMuch (s.ctx t) ch then .trap xCapacity 0 s
  else if interlocked s t ch then .wait (.tcfg inst ch true) s
  else if needsStorage (s.ctx t) ch then .wait (.tcfg inst ch false) (joinCfg s t)
  else .ok (applyCfg s t ch)

/-- Every entry of the thread's own store buffer comes first. -/
def drainAll (s : State) (t : Tid) (k : State → Res) : Res := afterDrain s t (fun _ => true) k

def bodyTcfg (t : Tid) (f : Fld) : Body :=
  plain (fieldsOk .z .g .z f && immBelow f 10) fun s => withContext s t fun s =>
    if f.imm.toNat = 0 then .ok s
    else drainAll s t fun s => readRecord s t ((s.thr t).rg f.s1.toNat) 128 fun b s =>
      let es := ((List.range 10).filter (fun e => f.imm.getLsbD e)).map (cfgEntry b)
      match cfgBad es with
      | some (.inl c) => .trap xFormat (BitVec.ofNat 64 c) s
      | some (.inr q) => shapeTrap s t q
      | none => requestCfg s t (insWord 0x180 f) (es.filter (changes (s.ctx t)))

/-- TCFG (05 R199). -/
def execTcfg (t : Tid) (f : Fld) (s : State) : Oc := issue t 0x180 f (bodyTcfg t f) s

/-- A granted or freed TCFG applies, and its thread goes on. -/
def finishCfg (s : State) (t : Tid) (ch : List Shape) : State :=
  let s := s.modLathe t.lathe.val (fun y => { y with tcfgQ := y.tcfgQ.filter (· != (t.core.val, t.thread.val)) })
  completeWait (applyCfg s t ch) t

/-- TCFG_APPLY: a TCFG whose interlock is over applies, or joins the FIFO; a granted one applies (05 R201 to R203). -/
def execTcfgApply (t : Tid) (s : State) : Oc :=
  match (s.thr t).st with
  | .waiting (.tcfg i ch granted) =>
    if !clockRuns s t then .next s
    else if (s.lathe t.lathe.val).tcfgQ.contains (t.core.val, t.thread.val) then
      .next (if granted then finishCfg s t ch else s)
    else if interlocked s t ch then .next s
    else if needsStorage (s.ctx t) ch then
      let s := joinCfg (s.modThr t (fun x => { x with st := .waiting (.tcfg i ch false) })) t
      .next (breakStall t.lathe.val 64 s)
    else .next (finishCfg s t ch)
  | _ => .next s

/-- TCFG_GRANT: the head of the FIFO is granted when both parts fit; in a stall the youngest entries trap (05 R202, R204). -/
def execTcfgGrant (l : Fin 68) (s : State) : Oc :=
  match cfgHead s l.val with
  | some (t, i, ch) =>
    if !clockRuns s t then .next s
    else if partsFit (s.lathe l.val) (s.ctx t) ch then .next (s.modThr t (fun x => { x with st := .waiting (.tcfg i ch true) }))
    else .next (breakStall l.val 64 s)
  | none => .next s

/-! ## TREL (05 R206, R207) -/

/-- The named tiles become unconfigured and their storage free. -/
def relTiles (s : State) (t : Tid) (ks : List Nat) : State :=
  let c := s.ctx t
  let sum (acc : Bool) : Nat :=
    (ks.filter (fun k => decide (8 ≤ k) == acc)).foldl (fun n k => n + tileGranules k (c.tile k)) 0
  let s := s.modLathe t.lathe.val (fun y => { y with tileFree := y.tileFree + sum false, accFree := y.accFree + sum true })
  s.modCore t.lathe.val t.core.val (fun c => ks.foldl (fun c k => c.putTile k (c.tile k).clear) c)

def noTiles (c : Core) : Bool := (List.range 10).all (fun k => !(c.tile k).conf)

def bodyTrel (t : Tid) (f : Fld) : Body :=
  plain (fieldsOk .z .z .z f && immBelow f 10) fun s => withContext s t fun s =>
    let m : BitVec 10 := f.imm.setWidth 10
    if tilesBusy (s.ctx t) (maskTiles m) then .wait (.trel m) s
    else
      let s := relTiles s t (maskTiles m)
      if !noTiles (s.ctx t) then .ok s
      else if hasQueued s t then .wait (.trel 0) s
      else .ok (releaseContext s t.lathe.val t.core.val)

/-- TREL (05 R206). -/
def execTrel (t : Tid) (f : Fld) (s : State) : Oc := issue t 0x181 f (bodyTrel t f) s

/-- TILE_CONTEXT_RELEASE: the owner's TREL has left no tile configured and its queues are empty (05 R192, R207). -/
def execTileContextRelease (c : Cid) (s : State) : Oc :=
  let l := c.lathe.val
  let x := s.core l c.core.val
  match x.owner.bind (tidOf? l c.core.val) with
  | some t =>
    if (s.thr t).st = .waiting (.trel 0) ∧ noTiles x ∧ !hasQueued s t ∧ clockRuns s t then
      .next (completeWait (releaseContext s l c.core.val) t)
    else .next s
  | none => .next s

/-! ## Queueing (05 R224) -/

def tileReg (x : BitVec 6) : Bool := decide (x.toNat < 8)
def accReg (x : BitVec 6) : Bool := decide (x.toNat < 2)

/-- An entry of the tile queue; a full queue makes the thread wait. -/
def queueTile (s : State) (t : Tid) (o : TileOp) : Res :=
  if released s t .tileQueue then
    .ok (bumpSeq (s.modCore t.lathe.val t.core.val (fun c => { c with tileQ := c.tileQ ++ [o] })) t)
  else .wait .tileQueue s

/-! ## TLD and TST (05 R211 to R217) -/

def posRow (w : Word) : Nat := wbits w 0 32
def posCol (w : Word) : Nat := wbits w 32 32

/-- Rows and columns of the tensor window of a tile. -/
def winRows (x : Tile) (tr : Bool) : Nat := if tr then x.cols else x.rows
def winCols (x : Tile) (tr : Bool) : Nat := if tr then x.rows else x.cols

/-- A tensor descriptor is read and passes its checks (R151, R171, R180). -/
def withTensor (s : State) (t : Tid) (a : Word) (k : TDesc → State → Res) : Res :=
  readRecord s t a descBytes fun b s =>
    let d := tdescOf a b
    if d.bad then .trap xFormat (BitVec.ofNat 64 d.c) s else k d s

/-- Table 5-6. -/
def moveChecks (x : Tile) (k : Nat) (d : TDesc) (c0 : Nat) (tr conv : Bool) : List (Bool × TFault) :=
  [(x.conf, ⟨0, 1, dRows, 0, k⟩),
   (conv || d.fmt == x.fmt, ⟨d.c, x.fmt.toNat, dFormat, 4, 0xF⟩),
   (conv || !fmtBlock d.c || !tr, ⟨d.c, 0xFFFF, dFormat, 4, 0xF⟩),
   (conv || !fmtBlock d.c || c0 % 32 == 0, ⟨c0, 32, dAlign, 4, 0xF⟩)]

/-- The bytes that a store or load of runs touches, with the permission each needs. -/
def spansOf (p : Perm) (d : TDesc) (rs : List Run) : List Span := rs.flatMap (runSpans p d)

/-- Checks of the bytes an operation will access, then whether its memory is at hand (R217). -/
def withSpans (s : State) (t : Tid) (kind : Nat) (ps : List Span) (k : State → Res) : Res :=
  match checkSpans s t ps with
  | .trap c v => elemTrap s t kind 64 c v
  | .wake l => .wait (.wake l) (wakeLathe s l)
  | _ => if spansBusy s t (ps.map Span.run) then .wait .memory s else k s

/-- A descriptor that a Turler block store writes needs R and W. -/
def descSpan (d : TDesc) : List Span := if fmtTB d.c then [⟨.rw, d.at_, descBytes, 1⟩] else []

/-- A merge into an entry of the other world (R185). -/
def withEntry (s : State) (t : Tid) (v : Word) (T : BitVec 16) (k : State → Res) : Res :=
  if mayMerge s (reqOf s t).world T then k s else .trap xWorld v (noteWorld s t v 1 64)

/-- The base exponent of a Turler block store, drawn at issue (04 R183, R184). -/
def drawBase (s : State) (x : Thread) (d : TDesc) : Int :=
  if fmtTB d.c then baseFor s d.tensor d.c (taskStep x) d.initBase else 0

def moveLegal (store : Bool) (f : Fld) : Bool :=
  tileReg f.d && Use.g.ok f.s1 && Use.g.ok f.s2 && immBelow f 4 && (store || f.imm.getLsbD 1 || nbits f.imm.toNat 2 2 == 0)

/-- The queue entry of a TLD or TST. -/
def moveOp (s : State) (t : Tid) (store : Bool) (f : Fld) (d : TDesc) : TileOp :=
  let x := s.thr t
  let pos := x.rg f.s2.toNat
  { seq := nextSeq s t, thread := t.thread.val, kind := if store then .tst else .tld, d := f.d.toNat, desc := some d
    r0 := posRow pos, c0 := posCol pos, tr := f.imm.getLsbD 0, conv := f.imm.getLsbD 1
    rm := BitVec.ofNat 2 (x.rmOf (nbits f.imm.toNat 2 2)), escapes := escapePolicy s (reqOf s t).world
    seed := taskSeed x, step := taskStep x, base := if store then drawBase s x d else 0 }

def moveBody (store : Bool) (t : Tid) (f : Fld) : Body :=
  plain (moveLegal store f) fun s => withContext s t fun s =>
    if !released s t .tileQueue then .wait .tileQueue s
    else drainAll s t fun s => withTensor s t ((s.thr t).rg f.s1.toNat) fun d s =>
      let o := moveOp s t store f d
      let x := (s.ctx t).tile o.d
      let runs := windowRuns d o.r0 o.c0 (winRows x o.tr) (winCols x o.tr)
      withShape s t (moveChecks x o.d d o.c0 o.tr o.conv) fun s =>
        withSpans s t (if store then 1 else 0) (spansOf (if store then .w else .r) d runs ++ (if store then descSpan d else []))
          fun s =>
            if store then withEntry s t d.at_ d.tensor fun s => queueTile s t o else queueTile s t o

/-- TLD (05 R213). -/
def bodyTld (t : Tid) (f : Fld) : Body := moveBody false t f
def execTld (t : Tid) (f : Fld) (s : State) : Oc := issue t 0x182 f (bodyTld t f) s

/-- TST (05 R214). -/
def bodyTst (t : Tid) (f : Fld) : Body := moveBody true t f
def execTst (t : Tid) (f : Fld) (s : State) : Oc := issue t 0x183 f (bodyTst t f) s

/-- In-bounds columns of a window: the stride of its loaded elements. -/
def winStride (d : TDesc) (o : TileOp) (x : Tile) : Nat := min (winCols x o.tr) (d.cols - o.c0)

/-- The tensor element of the window's row `r`, column `c`, of those loaded. -/
def winElt (d : TDesc) (o : TileOp) (x : Tile) (es : List Elt) (r c : Nat) : Option Elt :=
  if o.r0 + r < d.rows ∧ o.c0 + c < d.cols then es[r * winStride d o x + c]? else none

/-- The tensor element of tile element `i`. -/
def tileElt (d : TDesc) (o : TileOp) (x : Tile) (es : List Elt) (i : Nat) : Option Elt :=
  if o.tr then winElt d o x es (i % x.cols) (i / x.cols) else winElt d o x es (i / x.cols) (i % x.cols)

/-- The effect of a TLD, and its conversion status. -/
def runTld (s : State) (t : Tid) (o : TileOp) (d : TDesc) : State :=
  let x := (s.ctx t).tile o.d
  let r := loadRuns s t d (baseNow s t d) (windowRuns d o.r0 o.c0 (winRows x o.tr) (winCols x o.tr))
  let n := x.rows * x.cols
  let at_ (i : Nat) : Option Elt := tileElt d o x r.1 i
  let miss : CStat := if r.1.any (fun e => e.miss) then cMiss else 0
  let q : Tile × CStat :=
    if o.conv then x.fill o.rm.toNat ((List.range n).map (fun i => ((at_ i).map (Elt.val d.c)).getD 0))
    else
      (x.load ((List.range n).map (fun i => BitVec.ofNat 32 (((at_ i).map (fun e => e.code)).getD 0)))
        (if fmtBlock d.c then (List.range (n / 32)).map (fun b => ((at_ (32 * b)).bind (fun e => e.exp)).getD (-127)) else []), 0)
  let s := r.2.modCore t.lathe.val t.core.val (fun c => c.putTile o.d q.1)
  cvtStat s t.lathe.val (miss ||| q.2)

/-- The tile element that the window's row `r`, column `c` takes. -/
def storeIdx (o : TileOp) (x : Tile) (r c : Nat) : Nat := if o.tr then c * x.cols + r else r * x.cols + c

/-- In-bounds elements of a TST by rising linear index: linear index and tile element. -/
def storeElts (d : TDesc) (o : TileOp) (x : Tile) : List (Nat × Nat) :=
  (List.range (min (winRows x o.tr) (d.rows - o.r0))).flatMap (fun r =>
    (List.range (winStride d o x)).map (fun c => ((o.r0 + r) * d.cols + (o.c0 + c), storeIdx o x r c)))

/-- The blocks of a block tile that a TST without conversion stores: they are whole (Table 5-6). -/
def tileBlks (x : Tile) (es : List (Nat × Nat)) : List TileBlk :=
  (pieces 32 (es.length / 32) es).filterMap (fun k =>
    k.head?.map (fun p => ⟨p.1 / 32, x.exp (p.2 / 32), k.map (fun p => (p.1, x.code p.2))⟩))

/-- The effect of a TST. -/
def runTst (s : State) (t : Tid) (o : TileOp) (d : TDesc) : State :=
  let x := (s.ctx t).tile o.d
  let es := storeElts d o x
  let vals := es.map (fun p => (p.1, x.elem p.2))
  let fs := vals.map (fun p => p.2)
  let q : Enc := ⟨o.rm.toNat, some ⟨o.seed, d.tensor, o.step, 1⟩, o.escapes, o.base⟩
  let r : StoreStat × State :=
    if !o.conv && !fmtBlock d.c then ({}, writeCodes s t d (es.map (fun p => (p.1, x.code p.2))))
    else if !o.conv && (tileBlks x es).all (fun k => (k.shift d o.base).isSome) then
      ({}, storeSame s t d o.base (tileBlks x es))
    else storeTensor s t d q vals
  mergeStore (noteStore r.2 t.lathe.val d.tensor r.1) d.tensor o.step (amaxList fs) (nonfiniteCount fs)

/-! ## TZERO and the issue of TMMA (05 R209, R218 to R222) -/

def bodyTzero (t : Tid) (f : Fld) : Body :=
  plain (accReg f.d && f.s1 == 0 && f.s2 == 0 && immBelow f 0) fun s => withContext s t fun s =>
    withShape s t [(((s.ctx t).tile (8 + f.d.toNat)).conf, ⟨0, 1, dRows, 0, 8 + f.d.toNat⟩)] fun s =>
      queueTile s t { seq := nextSeq s t, thread := t.thread.val, kind := .tzero, d := f.d.toNat }

/-- TZERO (05 R209). -/
def execTzero (t : Tid) (f : Fld) (s : State) : Oc := issue t 0x184 f (bodyTzero t f) s

/-- Format classes of Table 5-7. -/
inductive MmaClass where
  | bf | fp | e8 | i8 | b4
  deriving DecidableEq, Repr

def mmaClass (c : Nat) : Option MmaClass :=
  match c with
  | 1 => some .bf
  | 2 => some .fp
  | 3 | 4 | 0xB | 0xD => some .e8
  | 5 => some .i8
  | 6 | 0xC => some .b4
  | _ => none

/-- Elements per cell (06 Table 6-1). -/
def MmaClass.pack : MmaClass → Nat
  | .bf => 1
  | .fp => 1
  | .e8 => 2
  | .i8 => 2
  | .b4 => 4

/-- The depth for the shape in effect (06 R236). -/
def MmaClass.depth (m : MmaClass) (shallow : Bool) : Nat := if shallow then 32 * m.pack else 128 * m.pack

/-- Table 5-8. -/
def mmaChecks (c : Core) (shallow : Bool) (d a w k : Nat) : List (Bool × TFault) :=
  let acc := c.tile (8 + d)
  let x := c.tile a
  let y := c.tile w
  let cls := mmaClass x.fmt.toNat
  let depth := ((cls.map (fun m => m.depth shallow)).getD 0)
  [(acc.conf, ⟨0, 1, dRows, 0, 8 + d⟩),
   (x.conf, ⟨0, 1, dRows, 1, a⟩),
   (y.conf, ⟨0, 1, dRows, 2, w⟩),
   (cls.isSome, ⟨x.fmt.toNat, 0xFFFF, dFormat, 1, a⟩),
   (mmaClass y.fmt.toNat == cls, ⟨y.fmt.toNat, x.fmt.toNat, dFormat, 2, w⟩),
   (acc.rows == x.rows, ⟨acc.rows, x.rows, dRows, 0, 8 + d⟩),
   (acc.cols == y.cols, ⟨acc.cols, y.cols, dCols, 0, 8 + d⟩),
   (decide (y.rows ≤ depth), ⟨y.rows, depth, dRows, 2, w⟩),
   (decide (k ≤ x.cols), ⟨k, x.cols, dK, 3, 0xF⟩),
   (decide (k ≤ y.rows), ⟨k, y.rows, dK, 3, 0xF⟩)]

/-- The shape that a TMMA issues under (06 R251). -/
def shapeNow (s : State) (l : Nat) : Bool := (ctlGet s (rArrShape l)).getLsbD 0

def bodyTmma (t : Tid) (f : Fld) : Body :=
  plain (accReg f.d && tileReg f.s1 && tileReg f.s2 && immBelow f 8) fun s => withContext s t fun s =>
    let k := ((s.thr t).rg (nbits f.imm.toNat 0 5)).toNat
    let sh := shapeNow s t.lathe.val
    withShape s t (mmaChecks (s.ctx t) sh f.d.toNat f.s1.toNat f.s2.toNat k) fun s =>
      if k = 0 then .ok s
      else
        queueTile s t
          { seq := nextSeq s t, thread := t.thread.val, kind := .tmma, d := f.d.toNat, s1 := f.s1.toNat, s2 := f.s2.toNat
            k := k, band := if sh then nbits f.imm.toNat 6 2 else 0, shallow := sh
            gen := (s.lathe t.lathe.val).arr.gen + (s.lathe t.lathe.val).arr.shapeQ.length }

/-- TMMA (05 R219). -/
def execTmma (t : Tid) (f : Fld) (s : State) : Oc := issue t 0x185 f (bodyTmma t f) s

/-! ## Order of a context's queued work (05 R225) -/

def TileOp.memory (o : TileOp) : Bool := o.kind == .tld || o.kind == .tst
def FinOp.memory (o : FinOp) : Bool := o.kind == .tdrain

def clash (a b : List Nat) (ma mb : Bool) : Bool := a.any b.contains || (ma && mb)

/-- An earlier finishing operation stands before a tile operation. -/
def behindFin (c : Core) (o : TileOp) : Bool :=
  c.finQ.any (fun p => decide (p.seq < o.seq) && clash o.touches p.touches o.memory p.memory)

/-- An earlier tile operation stands before a finishing operation. -/
def behindTile (c : Core) (o : FinOp) : Bool :=
  c.tileQ.any (fun p => decide (p.seq < o.seq) && clash o.touches p.touches o.memory p.memory)

/-- Every thread of a core whose wait is over becomes READY. -/
def wakeCore (s : State) (l c : Nat) : State := (coreThreads l c).foldl wakeIf s

/-- The head of a tile queue leaves it. -/
def popTile (s : State) (t : Tid) : State := s.modCore t.lathe.val t.core.val (fun c => { c with tileQ := c.tileQ.drop 1 })

/-- The memory that a TLD or TST reads or writes. -/
def moveSpans (s : State) (t : Tid) (o : TileOp) (d : TDesc) : List (Word × Nat) :=
  let x := (s.ctx t).tile o.d
  (spansOf (if o.kind = .tst then .w else .r) d (windowRuns d o.r0 o.c0 (winRows x o.tr) (winCols x o.tr))).map Span.run

/-- What an operation reads of them: all for a TLD; for a TST what it does not write whole. -/
def moveReads (s : State) (t : Tid) (o : TileOp) (d : TDesc) : List (Word × Nat) :=
  if o.kind = .tst ∧ 8 ≤ fmtBits d.c ∧ !fmtBlock d.c then [] else moveSpans s t o d

/-- Poison that a load of the spans meets. -/
def movePoison (s : State) (t : Tid) (o : TileOp) (d : TDesc) : Option Word :=
  if o.kind = .tld then spansPoison s t (moveSpans s t o d) else none

def anyRemote (s : State) (ps : List (Word × Nat)) : Bool := ps.any (fun p => !isSelf s (chainOf p.1))

/-- The effect of the head of a tile queue. -/
def runTile (s : State) (t : Tid) (o : TileOp) (err : Option Nat) : State :=
  match o.kind, o.desc with
  | .tzero, _ => s.modCore t.lathe.val t.core.val (fun c => c.putTile (8 + o.d) ((c.tile (8 + o.d)).load [] []))
  | .tmma, _ => s
  | k, some d =>
    (match movePoison s t o d, err with
      | some p, _ => lateError s t 3 p
      | none, some e =>
        if anyRemote s (moveSpans s t o d) then lateError s t e d.data
        else if k = .tld then runTld s t o d else runTst s t o d
      | none, none => if k = .tld then runTld s t o d else runTst s t o d)
  | _, none => s

/-- The lines of other devices that the head of a tile queue reads; an error reported by the command ends the wait for them. -/
def tileFar (s : State) (t : Tid) (o : TileOp) (err : Option Nat) : Far :=
  match o.desc, err with
  | some d, none => farPath s t (moveReads s t o d)
  | _, _ => .ready s

/-- The operation has left its queue: the lines it asked for are dropped. -/
def dropLines (s : State) (t : Tid) : State := s.modCore t.lathe.val t.core.val (fun c => { c with lines := [] })

/-- TILE_OP_COMPLETE: the oldest entry of the tile queue of core `c`, other than a TMMA, completes (05 R225, R227). One that reads
another device asks for its lines first, and completes when they have come; `err`: an error response that the command brings. -/
def execTileOpComplete (c : Cid) (err : Option Nat) (s : State) : Oc :=
  let x := s.core c.lathe.val c.core.val
  match x.tileQ with
  | o :: _ =>
    match tidOf? c.lathe.val c.core.val o.thread with
    | some t =>
      if o.kind = .tmma ∨ behindFin x o ∨ !clockRuns s t then .next s
      else
        let fin (s : State) : Oc := .next (wakeCore (popTile (dropLines s t) t) c.lathe.val c.core.val)
        match tileFar s t o err with
        | .out s => .next s
        | .err code w s => fin (lateError s t code w)
        | .ready s => fin (runTile s t o err)
    | none => .next s
  | [] => .next s

end Sys2Proof.Machine
end

