-- ==== Sys2Proof/Machine/ArrayUnits.lean ====
section
/-!
DEFINITION. The array of a lathe (06): the arithmetic of a pass and its checks, the grant of passes, commit and catch, the steps of
catch handling, the row and column maps, and the change of shape.
-/

namespace Sys2Proof.Machine

/-! ## Operands -/

/-- A tile element as the array takes it: exact, its block exponent applied (05 R222). -/
def Tile.exact (x : Tile) (i : Nat) : FVal :=
  let c := x.fmt.toNat
  if fmtBlock c then (elemVal c (x.code i)).scale (x.exp (i / 32)) else elemVal c (x.code i)

def Tile.cell (x : Tile) (i j : Nat) : FVal := x.exact (i * x.cols + j)

/-! ## 16-bit passes (R239) -/

/-- One step of a partial sum: an exact product, one rounding. -/
def mac (sigma : F32) (a w : FVal) : F32 := toF32 .rne (a.fma w (f32v sigma)).1

/-- The partial sum over k in `ks`. -/
def sigmaOf (a w : Nat → FVal) (ks : List Nat) : F32 := ks.foldl (fun z k => mac z (a k) (w k)) 0

/-- FP32 sum in list order, nearest even. -/
def sum32 (xs : List F32) : F32 := xs.foldl fadd32 0

/-! ## Exact passes (R240 to R244) -/

/-- The scale of a nonzero finite element (Table 6-3). -/
def scaleOf : FVal → Option Int
  | .fin _ m e => if m = 0 then none else some e
  | _ => none

/-- qw_lo(k) and qw_hi(k) of row `k` of W. -/
def rowScale (w : Tile) (k : Nat) : Option (Int × Int) :=
  (List.range w.cols).foldl (fun (r : Option (Int × Int)) n =>
    match scaleOf (w.cell k n), r with
    | some q, some (lo, hi) => some (min lo q, max hi q)
    | some q, none => some (q, q)
    | none, r => r) none

/-- The segments of a reduction (R241): `n` elements from `k` on, the segment open since `start` with its window. -/
def segWalk (qa : Nat → Option Int) (qw : Nat → Option (Int × Int)) : Nat → Nat → Nat → Option (Int × Int) → List (Nat × Nat)
  | 0, k, start, _ => [(start, k)]
  | n + 1, k, start, win =>
    match qa k, qw k with
    | some a, some (l, h) =>
      (match win with
        | some (lo, hi) =>
          if 24 < max hi (a + h) - min lo (a + l) then (start, k) :: segWalk qa qw n (k + 1) k (some (a + l, a + h))
          else segWalk qa qw n (k + 1) start (some (min lo (a + l), max hi (a + h)))
        | none => segWalk qa qw n (k + 1) start (some (a + l, a + h)))
    | _, _ => segWalk qa qw n (k + 1) start win

/-- The segments [first, past) of activation row `m`, K elements long. -/
def segments (x w : Tile) (K m : Nat) : List (Nat × Nat) :=
  segWalk (fun k => scaleOf (x.cell m k)) (rowScale w) K 0 0 none

/-- The exact sum of the terms of a segment at a position, with the rules for non-finite elements (R242, R243). The zeros that the
vector carries elsewhere make no term: they meet no infinite weight (DESIGN CHOICE, notes/assumptions/65.md). -/
def exactSum (x w : Tile) (m n : Nat) (seg : Nat × Nat) : FVal :=
  (List.range (seg.2 - seg.1)).foldl (fun z j =>
    (z.add ((x.cell m (seg.1 + j)).mul (w.cell (seg.1 + j) n)).1).1) (.fin false 0 0)

/-- The FP32 result of an exact sum (R244). -/
def exactResult (v : FVal) : F32 :=
  match v with
  | .fin _ m _ => if m = 0 then 0 else toF32 .rne v
  | _ => toF32 .rne v

/-! ## The accumulator after a pass (R245) -/

def MmaClass.exact : MmaClass → Bool
  | .bf => false
  | .fp => false
  | _ => true

/-- The results of row `m` at position `n`, one per vector. -/
def rowResults (cls : MmaClass) (x w : Tile) (K m n : Nat) : List F32 :=
  if cls.exact then (segments x w K m).map (fun g => exactResult (exactSum x w m n g))
  else [sigmaOf (fun k => x.cell m k) (fun k => w.cell k n) (List.range K)]

/-- acc d after the pass: every vector's result added in slot order. -/
def passResult (cls : MmaClass) (acc x w : Tile) (K : Nat) : Tile :=
  acc.load ((List.range (acc.rows * acc.cols)).map (fun i =>
    (rowResults cls x w K (i / acc.cols) (i % acc.cols)).foldl fadd32 (acc.elem i))) []

/-! ## Checks (R256 to R259) -/

/-- The exponent of the ulp of a finite FP32 magnitude. -/
def ulpExp (c : Nat) : Int := (max 1 (c / 2 ^ 23) : Nat) - 150

/-- |x - y| is at most `ulps` ulps of the larger of the two; a check with a value that is not finite is not made. -/
def within (ulps : Nat) (x y : F32) : Bool :=
  if nonFinite x || nonFinite y then true
  else
    let u := ulpExp (max (fabs32 x).toNat (fabs32 y).toNat)
    !FVal.lt (.fin false ulps u) ((f32v x).add (f32v y).negate).1.abs

/-- cw(k) of a 16-bit pass: the checksum of row `k` of W. -/
def checkW (w : Tile) (k : Nat) : F32 := sum32 ((List.range w.cols).map (fun n => toF32 .rne (w.cell k n)))

/-- ca(k) of a 16-bit pass: the checksum of column `k` of A. -/
def checkA (x : Tile) (k : Nat) : F32 := sum32 ((List.range x.rows).map (fun m => toF32 .rne (x.cell m k)))

/-- The row check of activation row `m`, over k in `ks`. -/
def rowCheck (ulps : Nat) (x w : Tile) (ks : List Nat) (m : Nat) : Bool :=
  let r (n : Nat) : F32 := sigmaOf (fun k => x.cell m k) (fun k => w.cell k n) ks
  within ulps (sum32 ((List.range w.cols).map r)) (sigmaOf (fun k => x.cell m k) (fun k => f32v (checkW w k)) ks)

/-- The column check of position `n`, over k in `ks`. -/
def colCheck (ulps : Nat) (x w : Tile) (ks : List Nat) (n : Nat) : Bool :=
  let r (m : Nat) : F32 := sigmaOf (fun k => x.cell m k) (fun k => w.cell k n) ks
  within ulps (sum32 ((List.range x.rows).map r)) (sigmaOf (fun k => f32v (checkA x k)) (fun k => w.cell k n) ks)

/-- An exact sum, in list order. -/
def sumX (xs : List FVal) : FVal := xs.foldl (fun z v => (z.add v).1) (.fin false 0 0)

/-- cw(k) and ca(k) of an exact pass (R256, R257). -/
def checkWX (w : Tile) (k : Nat) : FVal := sumX ((List.range w.cols).map (w.cell k))
def checkAX (x : Tile) (k : Nat) : FVal := sumX ((List.range x.rows).map (fun m => x.cell m k))

def FVal.finite : FVal → Bool
  | .fin _ _ _ => true
  | _ => false

/-- Two exact values are equal. -/
def FVal.same (a b : FVal) : Bool :=
  match (a.add b.negate).1 with
  | .fin _ m _ => m == 0
  | _ => false

/-- The vectors of an exact pass: activation row and segment. -/
def vectors (x w : Tile) (K : Nat) : List (Nat × (Nat × Nat)) :=
  (List.range x.rows).flatMap (fun m => (segments x w K m).map (fun g => (m, g)))

/-- The row check of a vector of an exact pass: none where it is not made, else whether it passes (R258, R259). -/
def rowCheckX (x w : Tile) (v : Nat × (Nat × Nat)) : Option Bool :=
  let rs := (List.range w.cols).map (fun n => exactSum x w v.1 n v.2)
  let y := sumX ((List.range (v.2.2 - v.2.1)).map (fun j => ((x.cell v.1 (v.2.1 + j)).mul (checkWX w (v.2.1 + j))).1))
  if rs.all FVal.finite && y.finite then some ((sumX rs).same y) else none

/-- The column check of position `n` of an exact pass. -/
def colCheckX (x w : Tile) (K n : Nat) : Option Bool :=
  let rs := (vectors x w K).map (fun v => exactSum x w v.1 n v.2)
  let y := sumX ((List.range K).map (fun k => ((checkAX x k).mul (w.cell k n)).1))
  if rs.all FVal.finite && y.finite then some ((sumX rs).same y) else none

/-- A check of a 16-bit pass is made where both its values are finite. -/
def made (x y : F32) (passes : Bool) : Option Bool := if nonFinite x || nonFinite y then none else some passes

/-- The checks that are made of a pass: whether each passes. -/
def checksOf (cls : MmaClass) (ulps : Nat) (x w : Tile) (K : Nat) : List Bool :=
  if cls.exact then (vectors x w K).filterMap (rowCheckX x w) ++ (List.range w.cols).filterMap (colCheckX x w K)
  else
    let ks := List.range K
    let r (m n : Nat) : F32 := sigmaOf (fun k => x.cell m k) (fun k => w.cell k n) ks
    (List.range x.rows).filterMap (fun m =>
      made (sum32 ((List.range w.cols).map (r m))) (sigmaOf (fun k => x.cell m k) (fun k => f32v (checkW w k)) ks)
        (rowCheck ulps x w ks m)) ++
    (List.range w.cols).filterMap (fun n =>
      made (sum32 ((List.range x.rows).map (fun m => r m n))) (sigmaOf (fun k => f32v (checkA x k)) (fun k => w.cell k n) ks)
        (colCheck ulps x w ks n))

/-! ## Row and column maps (R232, R233) -/

def physRow (u : ArrayUnit) (r : Nat) : Nat := (((List.range 130).filter (fun p => !u.removedRows.contains p))[r]?).getD 0
def physCol (u : ArrayUnit) (j : Nat) : Nat := (((List.range 514).filter (fun p => !u.removedCols.contains p))[j]?).getD 0

/-- The array row of element `k` of a reduction in band `band`, P elements to a cell (R235). -/
def arrayRow (P band k : Nat) : Nat := 32 * band + k / P

/-- The cells that the localisation of a pass can mark: the rows it uses, its output positions and the checksum column, and a row's
checksum cell only where no other cell of the row is marked (R262). -/
def markable (u : ArrayUnit) (P K N band : Nat) (ms : List (Nat × Nat)) : List (Nat × Nat) :=
  let rows := (List.range (cdiv K P)).map (fun r => physRow u (arrayRow P band (P * r)))
  let cols := (List.range N).map (physCol u)
  let sum := physCol u 512
  ms.filter (fun m => rows.contains m.1 &&
    (cols.contains m.2 || (m.2 == sum && !ms.any (fun q => q.1 == m.1 && cols.contains q.2))))

/-- Cells that the localisation of a 16-bit pass marks by its tolerance alone (R262). -/
def ownMarks (u : ArrayUnit) (ulps : Nat) (x w : Tile) (K band : Nat) : List (Nat × Nat) :=
  (List.range K).flatMap (fun k =>
    let row := physRow u (arrayRow 1 band k)
    let cols := (List.range w.cols).filter (fun n => !colCheck ulps x w [k] n)
    if !cols.isEmpty then cols.map (fun n => (row, physCol u n))
    else if (List.range x.rows).all (rowCheck ulps x w [k]) then [] else [(row, physCol u 512)])

/-! ## Grants (R252) -/

def ulpsOf (s : State) (l : Nat) : Nat := wbits (ctlGet s (rArrTol l)) 0 16

/-- The array of a lathe can work. -/
def arrayRuns (s : State) (l : Nat) : Bool :=
  (s.lathe l).svc == .inService && (if h : l < 68 then clockOn s (.lathe ⟨l, h⟩) else true)

/-- The next TMMA of a context, when it is ready for band `band`: it issued before any change of shape that has yet to apply. -/
def readyMma (c : Core) (u : ArrayUnit) (band : Nat) : Option TileOp :=
  match c.tileQ with
  | o :: _ =>
    if o.kind = .tmma ∧ !o.granted ∧ o.gen = u.gen ∧ o.shallow = u.shallow ∧ o.band = band ∧ !behindFin c o then some o else none
  | [] => none

def latchHit (u : ArrayUnit) (band c : Nat) (x : Core) (o : TileOp) : Bool :=
  mget? u.latch band == some ⟨c, o.s2, (x.tile o.s2).version, o.k⟩

/-- Band `band` may grant: no pass is in it, no catch holds it or empties the array. -/
def mayGrant (u : ArrayUnit) (band : Nat) : Bool :=
  (mget? u.passes band).isNone && !u.catchQ.contains band && (u.shallow || band == 0) &&
    (match u.caught with
      | some k => k.band != band && k.stage == .retry
      | none => true)

/-- The core that band `band` grants, with its TMMA and its run of latch matches. -/
def chooseCore (s : State) (l band : Nat) : Option (Nat × TileOp × Nat) :=
  let u := (s.lathe l).arr
  let last := mget u.last band 67
  let run := mget u.streak band 0
  let keep : Option TileOp :=
    (readyMma (s.core l last) u band).filter (fun o => latchHit u band last (s.core l last) o && decide (run < 4))
  match keep with
  | some o => some (last, o, run + 1)
  | none =>
    ((List.range 68).map (fun k => (last + 1 + k) % 68)).findSome? (fun c =>
      (readyMma (s.core l c) u band).map (fun o => (c, o, 1)))

/-- The pass of a TMMA of core `c`. -/
def passOf (s : State) (l c : Nat) (o : TileOp) : Pass :=
  let x := s.core l c
  let acc := x.tile (8 + o.d)
  let a := x.tile o.s1
  let w := x.tile o.s2
  let cls := (mmaClass a.fmt.toNat).getD .bf
  let cs := checksOf cls (ulpsOf s l) a w o.k
  { core := c, acc := o.d, held := acc, result := passResult cls acc a w o.k, exact := cls.exact
    inTol := cs.all id, checked := !cs.isEmpty, ulps := ulpsOf s l, pack := cls.pack, k := o.k }

/-- The latches of a pass: its weights are placed in band `band`, its activation rows read (05 R230). -/
def setLatches (s : State) (l band c : Nat) (o : TileOp) : State :=
  let x := s.core l c
  s.modLathe l (fun y => { y with arr := { y.arr with
    latch := mset y.arr.latch band ⟨c, o.s2, (x.tile o.s2).version, o.k⟩
    rowLatch := some ⟨c, o.s1, (x.tile o.s1).version, 0⟩ } })

def grantHead (c : Core) : Core :=
  match c.tileQ with
  | o :: r => { c with tileQ := { o with granted := true } :: r }
  | [] => c

/-- PASS_GRANT: a band, or the array in the DEEP shape, grants a pass to the next ready context (06 R252). -/
def execPassGrant (l : Fin 68) (band : Fin 4) (s : State) : Oc :=
  let u := (s.lathe l.val).arr
  if !arrayRuns s l.val || !mayGrant u band.val then .next s
  else
    match chooseCore s l.val band.val with
    | none => .next s
    | some (c, o, run) =>
      let p := passOf s l.val c o
      let s := setLatches (s.modCore l.val c grantHead) l.val band.val c o
      .next (s.modLathe l.val (fun y => { y with arr := { y.arr with
        running := true, passes := mset y.arr.passes band.val p
        last := mset y.arr.last band.val c, streak := mset y.arr.streak band.val run } }))

def modArr (s : State) (l : Nat) (f : ArrayUnit → ArrayUnit) : State := s.modLathe l (fun y => { y with arr := f y.arr })

/-- ARRAY_STOP: with no pass granted and no vector inside it the array stops (06 R253). -/
def execArrayStop (l : Fin 68) (s : State) : Oc :=
  let u := (s.lathe l.val).arr
  if u.running && u.passes.isEmpty && u.caught.isNone then .next (modArr s l.val (fun u => { u with running := false }))
  else .next s

/-! ## Commit and catch (R258 to R266) -/

/-- The thread whose TMMA a pass runs. -/
def passThread (s : State) (l : Nat) (p : Pass) : Option Tid :=
  match (s.core l p.core).tileQ with
  | o :: _ => tidOf? l p.core o.thread
  | [] => none

/-- The pass of a band commits: its result stands in the accumulator, and its TMMA is complete. -/
def commit (s : State) (l band : Nat) (p : Pass) : State :=
  let s := s.modCore l p.core (fun c => { c.putTile (8 + p.acc) p.result with tileQ := c.tileQ.drop 1 })
  wakeCore (modArr s l (fun u => { u with passes := mdel u.passes band })) l p.core

def unlocated : BitVec 32 := 0xFFFFFFFF

/-- A catch is detected: its handling stands from then on (14 R472, R477). -/
def openCatch (s : State) (l : Nat) (p : Pass) : State :=
  detect s ⟨cCatchRetry, 2, BitVec.ofNat 16 l, 0, passThread s l p, unlocated, false⟩

/-- A handling of the array of lathe `l` that is open. -/
def Handling.ofArray (h : Handling) (l : Nat) : Bool := h.catching && h.unit == (0, l)

/-- Apply `f` to the open handlings of the array of lathe `l`. -/
def modCatching (s : State) (l : Nat) (f : Handling → Handling) : State :=
  let g (h : Handling) : Handling := if h.ofArray l then f h else h
  { s with flt := { s.flt with cur := s.flt.cur.map g, queue := s.flt.queue.map g } }

/-- The rung that the array attempts. -/
def attempt (s : State) (l c : Nat) : State := modCatching s l (fun h => { h with cls := max h.cls c })

/-- The array ends its handling of a catch: with what cause, and where. -/
def closeCatch (s : State) (l : Nat) (cause : BitVec 16) (detail : BitVec 32) : State :=
  modCatching s l (fun h => { h with ev := { h.ev with cause := cause, detail := detail }, catching := false })

/-- The retirement of the lathe of a catch: by its own handling, or by the one that it joined. -/
def askRetire (s : State) (l : Nat) (p : Pass) : State :=
  if s.flt.cur.any (fun h => h.ofArray l) || s.flt.queue.any (fun h => h.ofArray l) then
    modCatching s l (fun h => Handling.retired { h with cls := max h.cls 3 })
  else detect s ⟨cCatchRetire, 0, BitVec.ofNat 16 l, 0, passThread s l p, 0, false⟩

/-- Handling of a catch ends; the next waiting catch whose pass still stands is handled (R266). -/
def nextCatch (s : State) (l : Nat) : State :=
  let u := (s.lathe l).arr
  match u.catchQ.filterMap (fun b => (mget? u.passes b).map (fun p => (b, p))) with
  | (b, p) :: r => openCatch (modArr s l (fun u => { u with caught := some ⟨b, .retry, none⟩, catchQ := r.map (fun x => x.1) })) l p
  | [] => modArr s l (fun u => { u with caught := none, catchQ := [] })

def statAdd (s : State) (l lo : Nat) : State :=
  let w := ctlGet s (rArrStat l)
  ctlSet s (rArrStat l) (wput w lo 16 (BitVec.ofNat 64 (min 0xFFFF (wbits w lo 16 + 1))))

def clearLatches (u : ArrayUnit) : ArrayUnit := { u with latch := [], rowLatch := none }

/-- A pass catches: its held contents stand, the latches are cleared, and its handling starts or waits. A retry that fails is the
same catch and is not counted again (DESIGN CHOICE, notes/assumptions/66.md). -/
def catchPass (s : State) (l band : Nat) (p : Pass) : State :=
  let s := modArr (statAdd s l 32) l clearLatches
  if (s.lathe l).arr.caught.isNone then openCatch (modArr s l (fun u => { u with caught := some ⟨band, .retry, none⟩ })) l p
  else modArr s l (fun u => { u with catchQ := u.catchQ ++ [band] })

/-- PASS_CHECK: the checks of the pass of a band are made; `hwFail`: a fault of the hardware makes one of them fail
(06 R258 to R260). -/
def execPassCheck (l : Fin 68) (band : Fin 4) (hwFail : Bool) (s : State) : Oc :=
  let u := (s.lathe l.val).arr
  match mget? u.passes band.val with
  | none => .next s
  | some p =>
    let held : Bool := u.catchQ.contains band.val || (match u.caught with
      | some k => k.band == band.val
      | none => false)
    if held || !arrayRuns s l.val then .next s
    else if (hwFail && p.checked) || !p.inTol then .next (catchPass s l.val band.val p)
    else .next (commit s l.val band.val p)

def setStage (s : State) (l : Nat) (st : CatchStage) : State :=
  modArr s l (fun u => { u with caught := u.caught.map (fun k => { k with stage := st }) })

/-- The catch being handled, with its pass. -/
def caughtPass (s : State) (l : Nat) : Option (Catch × Pass) :=
  let u := (s.lathe l).arr
  u.caught.bind (fun k => (mget? u.passes k.band).map (fun p => (k, p)))

/-- A catch whose pass was discarded with its task leaves the array to the next one. -/
def withCatch (s : State) (l : Nat) (st : List CatchStage) (k : Catch → Pass → State) : Oc :=
  if !arrayRuns s l then .next s
  else
    match caughtPass s l with
    | some (c, p) => if st.contains c.stage then .next (k c p) else .next s
    | none => .next (if (s.lathe l).arr.caught.isSome then nextCatch (closeCatch s l cCatchRetry unlocated) l else s)

/-- Step 9: the lathe's retirement is asked for. -/
def retireFor (s : State) (l : Nat) (p : Pass) : State := askRetire (modArr (setStage s l .dead) l clearLatches) l p

/-- The pass commits and handling ends with a record. -/
def endCatch (s : State) (l : Nat) (k : Catch) (p : Pass) (cause : BitVec 16) (detail : BitVec 32) : State :=
  nextCatch (commit (closeCatch s l cause detail) l k.band p) l

/-- CATCH_RETRY: the retry of step 2 or of step 8 ends (06 Table 6-5). -/
def execCatchRetry (l : Fin 68) (hwFail : Bool) (s : State) : Oc :=
  withCatch s l.val [.retry, .last] fun k p =>
    let fails := (hwFail && p.checked) || !p.inTol
    let s := match (s.core l.val p.core).tileQ with
      | o :: _ => if fails then modArr s l.val clearLatches else setLatches s l.val k.band p.core o
      | [] => s
    if k.stage = .retry then
      (if fails then setStage s l.val .localise else endCatch s l.val k p cCatchRetry unlocated)
    else if fails then retireFor s l.val p
    else
      match k.remap with
      | some (r, c) => endCatch s l.val k p cCatchRemap (BitVec.ofNat 32 (c * 2 ^ 16 + r))
      | none => endCatch s l.val k p cCatchRetry unlocated

/-- An outcome of the localisation pass (Table 6-6). -/
inductive Located where
  | none_ | cell (r c : Nat) | row (r : Nat) | col (c : Nat) | uncoverable
  deriving DecidableEq, Repr

def classify (ms : List (Nat × Nat)) : Located :=
  match ms.eraseDups with
  | [] => .none_
  | [(r, c)] => .cell r c
  | (r, c) :: q => if q.all (fun m => m.1 == r) then .row r else if q.all (fun m => m.2 == c) then .col c else .uncoverable

/-- Step 6: the named row or column is removed, and the supervisor adds it to the repair map (R263). -/
def remapLine (s : State) (l : Nat) (isRow : Bool) (n : Nat) (loc : Nat × Nat) : State :=
  let s := modArr s l (fun u =>
    let u := if isRow then { u with removedRows := u.removedRows ++ [n] } else { u with removedCols := u.removedCols ++ [n] }
    { clearLatches u with caught := u.caught.map (fun k => { k with stage := .selfTest, remap := some loc }) })
  addRepair (attempt s l 2) ⟨2, if isRow then 1 else 2, BitVec.ofNat 16 l, BitVec.ofNat 32 n, 0⟩

def spareRow (u : ArrayUnit) : Bool := decide (u.removedRows.length < 2)
def spareCol (u : ArrayUnit) : Bool := u.removedCols.isEmpty

/-- Step 5. -/
def actOn (s : State) (l : Nat) (p : Pass) (o : Located) : State :=
  let u := (s.lathe l).arr
  match o with
  | .none_ => setStage s l .selfTest
  | .cell r c =>
    if spareRow u then remapLine s l true r (r, c) else if spareCol u then remapLine s l false c (r, c) else retireFor s l p
  | .row r => if spareRow u then remapLine s l true r (r, 0xFFFF) else retireFor s l p
  | .col c => if spareCol u then remapLine s l false c (0xFFFF, c) else retireFor s l p
  | .uncoverable => retireFor s l p

/-- LOCALISATION_PASS: once the passes of other bands have committed or caught, the cells that the pass marks, `marks` for faulty
hardware and those of the tolerance, are classified (06 R261 to R263). -/
def execLocalisationPass (l : Fin 68) (marks : List (Nat × Nat)) (s : State) : Oc :=
  withCatch s l.val [.localise] fun k p =>
    let u := (s.lathe l.val).arr
    let x := s.core l.val p.core
    if !u.passes.all (fun q => q.1 == k.band || u.catchQ.contains q.1) then s
    else
      match x.tileQ with
      | o :: _ =>
        let own := if p.exact then [] else ownMarks u p.ulps (x.tile o.s1) (x.tile o.s2) p.k k.band
        actOn s l.val p (classify (markable u p.pack p.k (x.tile o.s2).cols k.band (marks ++ own)))
      | [] => s

/-- SELF_TEST_TILE: the self-test passes end (06 R264, R265). -/
def execSelfTestTile (l : Fin 68) (pass : Bool) (s : State) : Oc :=
  withCatch s l.val [.selfTest] fun k p =>
    if !pass then retireFor s l.val p
    else if !p.exact && k.remap.isNone then endCatch (statAdd s l.val 16) l.val k p cCatchTol unlocated
    else setStage s l.val .last

/-! ## Shapes (R251) -/

/-- A queued TMMA of the lathe was issued before the next change of shape. -/
def queuedBefore (s : State) (l : Nat) : Bool :=
  (List.range 68).any (fun c => (s.core l c).tileQ.any (fun o => o.kind == .tmma && o.gen == (s.lathe l).arr.gen))

/-- SHAPE_CHANGE_APPLY: once the passes issued before it have committed and the array has stopped, the first change of shape
that waits applies (06 R251, R266). -/
def execShapeChangeApply (l : Fin 68) (s : State) : Oc :=
  let u := (s.lathe l.val).arr
  match u.shapeQ with
  | [] => .next s
  | sh :: r =>
    if u.running || !u.passes.isEmpty || u.caught.isSome || queuedBefore s l.val || !arrayRuns s l.val then .next s
    else
      let s := modArr s l.val (fun u => { clearLatches u with shallow := sh, gen := u.gen + 1, shapeQ := r })
      .next (if r.isEmpty then ctlSet s (rArrShape l.val) (ctlGet s (rArrShape l.val) &&& 1) else s)
end Sys2Proof.Machine
end

