-- ==== Sys2Proof/Machine/Finishing.lean ====
section
/-!
DEFINITION. The finishing unit (07): function tables and slots, FTAB, the issue and the effect of TDRAIN, FAPPLY and FDERIV, TAMAX,
and the completion of the operations of the finishing queue (03 R147, R148).
-/

namespace Sys2Proof.Machine

/-! ## Function tables (07 R280 to R284) -/

def f32At (b : List Byte) (off : Nat) : F32 := BitVec.ofNat 32 (leAt b off 4)

/-- A table of an image (Table 7-4). -/
def tableOf (b : List Byte) : FTable :=
  { lo := f32At b 8, hi := f32At b 0xC, scale := f32At b 0x10, la := f32At b 0x14, lb := f32At b 0x18, ra := f32At b 0x1C
    rb := f32At b 0x20
    coef := (List.range 256).map (fun i =>
      (f32At b (0x40 + 12 * i), f32At b (0x44 + 12 * i), f32At b (0x48 + 12 * i))) }

/-- R281. -/
def FTable.valid (T : FTable) : Bool :=
  !nonFinite T.lo && !nonFinite T.hi && FVal.lt (f32v T.lo) (f32v T.hi) && !nonFinite T.scale &&
    FVal.lt (.fin false 0 0) (f32v T.scale)

/-- A tail: b * x + a with one rounding, and a itself at an infinite input when b = 0. -/
def tailOf (a b x : F32) : F32 :=
  match f32v x with
  | .inf _ => if (f32v b).isZero then a else fma32 b x a
  | _ => fma32 b x a

/-- floor(u) between 0 and 255. -/
def segOf (u : F32) : Nat :=
  match f32v u with
  | .fin false m e => min 255 (if 0 ≤ e then m * 2 ^ e.toNat else m / 2 ^ (-e).toNat)
  | .inf false => 255
  | _ => 0

/-- R282. -/
def FTable.eval (T : FTable) (x : F32) : F32 :=
  let v := f32v x
  if v.isNan then 0x7FC00000#32
  else if FVal.lt v (f32v T.lo) then tailOf T.la T.lb x
  else if !FVal.lt v (f32v T.hi) then tailOf T.ra T.rb x
  else
    let u := fmul32 (fadd32 x (fneg32 T.lo)) T.scale
    let i := segOf u
    let t := fadd32 u (fneg32 (toF32 .rne (ofInt false i 0)))
    let c := T.coef.getD i (0, 0, 0)
    fma32 (fma32 c.2.2 t c.2.1) t c.1

/-- f of a slot; an empty slot is the identity (R284). -/
def slotF (s : State) (l k : Nat) (x : F32) : F32 :=
  match mget? (s.lathe l).slots k with
  | some f => f.fwd.eval x
  | none => x

/-- f' of a slot; an empty slot's is 1.0 (R284). -/
def slotD (s : State) (l k : Nat) (x : F32) : F32 :=
  match mget? (s.lathe l).slots k with
  | some f => f.der.eval x
  | none => f32One

/-! ## FTAB (07 R285) -/

def imageBytes : Nat := 6272

/-- A queued finishing operation that names slot `k`. -/
def FinOp.names (o : FinOp) (k : Nat) : Bool :=
  o.slot == k &&
    match o.kind, o.drain with
    | .fapply, _ => true
    | .fderiv, _ => true
    | .tdrain, some r => r.fnEn
    | _, _ => false

/-- The threads of lathe `l` whose FTAB of slot `k` waits or loads. -/
def ftabThreads (s : State) (l k : Nat) : List Nat :=
  ((latheThreads s l).filter (fun t =>
    match (s.thr t).st with
    | .waiting (.ftab j _) => j == k
    | _ => false)).map tkey

def bodyFtab (t : Tid) (f : Fld) : Body :=
  let k := nbits f.imm.toNat 0 4
  { always := fun s =>
      if !(fieldsOk .z .g .z f && immBelow f 4) then some (xIllegal, 0)
      else if decide (12 ≤ k) && (s.thr t).level == .u then some (xPriv, 0)
      else none
    act := fun s =>
      let a := (s.thr t).rg f.s1.toNat
      if a.toNat % 64 ≠ 0 then .trap xAlign a s
      else
        match checkRun s t .r a imageBytes with
        | .trap c v => elemTrap s t 0 64 c v
        | .wake l => .wait (.wake l) (wakeLathe s l)
        | _ => drainAll s t fun s => .wait (.ftab k a) s }

/-- FTAB (07 R285). -/
def execFtab (t : Tid) (f : Fld) (s : State) : Oc := issue t 0x198 f (bodyFtab t f) s

/-- Every operation queued on the lathe before thread `t` issued its FTAB of slot `k` is complete. -/
def slotFree (s : State) (t : Tid) (k : Nat) : Bool :=
  !s.cores.any (fun p => p.1 / 68 == t.lathe.val && p.2.finQ.any (fun o => o.names k && !o.hold.contains (tkey t)))

/-- Both tables are loaded, or the slot becomes empty. -/
def putSlot (s : State) (l k : Nat) (b : List Byte) : State :=
  let fwd := tableOf b
  let der := tableOf (b.drop 0xC40)
  if fwd.valid && der.valid then
    s.modLathe l (fun y => { y with slots := mset y.slots k ⟨f32At b 0, fwd, der⟩ })
  else
    let s := s.modLathe l (fun y => { y with slots := mdel y.slots k })
    ctlSet s (rFnstat l) (wput (ctlGet s (rFnstat l) ||| 2) 8 4 (BitVec.ofNat 64 k))

/-- FTAB_LOAD: the wait of an FTAB is over and its tables are loaded (07 R285). -/
def execFtabLoad (t : Tid) (s : State) : Oc :=
  match (s.thr t).st with
  | .waiting (.ftab k a) =>
    if !slotFree s t k || !clockRuns s t then .next s
    else
      let free (s : State) : State := (unholdFin s t.lathe.val (tkey t)).modThr t (fun x => { x with recLines := [] })
      match spansPoison s t [(a, imageBytes)] with
      | some p => .next (meetPoison (free s) t p)
      | none =>
        let fin (s : State) (b : List Byte) : Oc := .next (completeWait (putSlot (free s) t.lathe.val k b) t)
        if isSelf s (chainOf a) then
          let r := pathRead s t a imageBytes
          fin r.2 r.1
        else
          match farRecord s t [(a, imageBytes)] with
          | .out s => .next s
          | .err 3 w s => .next (meetPoison (free s) t w)
          | .err code w s => .next (trapAtWait (free s) t (codeCause code) w (wordAhead s t))
          | .ready s => fin s (lineBytes (s.thr t).recLines a imageBytes)
  | _ => .next s

/-! ## FAPPLY and FDERIV (07 R287, R288) -/

def fnSlot (f : Fld) : Nat := nbits f.imm.toNat 0 4
def fnTile (f : Fld) : Bool := f.imm.getLsbD 4
def fnRm (f : Fld) : Nat := nbits f.imm.toNat 5 2
def fnMe (f : Fld) : Bool := f.imm.getLsbD 7
def fnMk (f : Fld) : Nat := nbits f.imm.toNat 8 2
def fnBare (f : Fld) : Bool := f.imm.getLsbD 10

/-- A register field of kind `tile`. -/
def kindReg (tile : Bool) (x : BitVec 6) : Bool := if tile then tileReg x else lvReg x

/-- With kind 1, me and mk are 0; with kind 0, rm is 0. -/
def kindOk (f : Fld) : Bool := if fnTile f then !fnMe f && fnMk f == 0 else fnRm f == 0

/-- Table 7-6; `g`: the instruction reads a gradient. -/
def fnChecks (c : Core) (d a b : Nat) (g : Bool) : List (Bool × TFault) :=
  let x := c.tile d
  let y := c.tile a
  let z := c.tile b
  [(x.conf, ⟨0, 1, dRows, 0, d⟩),
   (y.conf, ⟨0, 1, dRows, 1, a⟩),
   (!g || z.conf, ⟨0, 1, dRows, 2, b⟩),
   (y.rows == x.rows, ⟨y.rows, x.rows, dRows, 1, a⟩),
   (y.cols == x.cols, ⟨y.cols, x.cols, dCols, 1, a⟩),
   (!g || z.rows == x.rows, ⟨z.rows, x.rows, dRows, 2, b⟩),
   (!g || z.cols == x.cols, ⟨z.cols, x.cols, dCols, 2, b⟩)]

/-- The issue of an FAPPLY or FDERIV. -/
def fnBody (kind : FinKind) (legal g : Bool) (t : Tid) (f : Fld) : Body :=
  plain (legal && kindOk f) fun s => withContext s t fun s =>
    let cs := if fnTile f then fnChecks (s.ctx t) f.d.toNat f.s1.toNat f.s2.toNat g else []
    withShape s t cs fun s =>
      .ok (enqueueFin s t
        { seq := nextSeq s t, thread := t.thread.val, kind := kind, d := f.d.toNat, s1 := f.s1.toNat, s2 := f.s2.toNat
          rm := BitVec.ofNat 2 ((s.thr t).rmOf (fnRm f)), me := fnMe f, mreg := fnMk f, slot := fnSlot f, tile := fnTile f
          bare := !g, hold := ftabThreads s t.lathe.val (fnSlot f) })

def bodyFapply (t : Tid) (f : Fld) : Body :=
  fnBody .fapply (kindReg (fnTile f) f.d && kindReg (fnTile f) f.s1 && f.s2 == 0 && immBelow f 10) false t f

/-- FAPPLY (07 R287). -/
def execFapply (t : Tid) (f : Fld) (s : State) : Oc := issue t 0x199 f (bodyFapply t f) s

def bodyFderiv (t : Tid) (f : Fld) : Body :=
  let s2 := if fnBare f then f.s2 == 0 else kindReg (fnTile f) f.s2
  fnBody .fderiv (kindReg (fnTile f) f.d && kindReg (fnTile f) f.s1 && s2 && immBelow f 11) (!fnBare f) t f

/-- FDERIV (07 R287). -/
def execFderiv (t : Tid) (f : Fld) (s : State) : Oc := issue t 0x19A f (bodyFderiv t f) s

/-- One element of an FAPPLY or FDERIV, with the flags of its multiplication. -/
def fnElem (s : State) (l : Nat) (o : FinOp) (x g : F32) : F32 × FFlags :=
  match o.kind with
  | .fapply => (slotF s l o.slot x, 0)
  | _ =>
    let d := slotD s l o.slot x
    if o.bare then (d, 0)
    else
      let p := (f32v g).mul (f32v d)
      let c := fp32.deliver .rne p.1
      (BitVec.ofNat 32 c.1, p.2 ||| c.2)

/-- The effect of an FAPPLY or FDERIV: the context, its flags and its conversion status. -/
def runFn (s : State) (l : Nat) (c : Core) (o : FinOp) : Core × FFlags × CStat :=
  if o.tile then
    let x := c.tile o.s1
    let g := c.tile o.s2
    let q := (c.tile o.d).fill o.rm.toNat
      ((List.range (x.rows * x.cols)).map (fun i => (fnElem s l o (x.elem i) (g.elem i)).1))
    (c.putTile o.d q.1, 0, q.2)
  else
    let r := mapLv (c.lvr o.d) (laneOn c o.me o.mreg) (fun i => fnElem s l o (laneOf (c.lvr o.s1) i) (laneOf (c.lvr o.s2) i))
    ({ c with lv := mset c.lv o.d r.1 }, r.2, 0)

/-! ## The issue of TDRAIN (07 R271, R278) -/

/-- A drain record (Table 7-2). -/
structure DrainRec where
  out : Word
  save : Word
  bias : Word
  cscale : Word
  alpha : F32
  ttensor : BitVec 16
  stensor : BitVec 16
  slot : Nat
  fnEn : Bool
  outTile : Option Nat
  outT : Bool
  outMerge : Bool
  saveEn : Bool
  saveTile : Option Nat
  saveT : Bool
  saveMerge : Bool
  deriving DecidableEq, Repr

def drainRecOf (b : List Byte) : DrainRec :=
  let fn := leAt b 0x28 1
  let o := leAt b 0x29 1
  let v := leAt b 0x2A 1
  { out := BitVec.ofNat 64 (leAt b 0 8), save := BitVec.ofNat 64 (leAt b 8 8), bias := BitVec.ofNat 64 (leAt b 0x10 8)
    cscale := BitVec.ofNat 64 (leAt b 0x18 8), alpha := f32At b 0x20, ttensor := BitVec.ofNat 16 (leAt b 0x24 2)
    stensor := BitVec.ofNat 16 (leAt b 0x26 2), slot := fn % 16, fnEn := fn.testBit 4
    outTile := if o.testBit 0 then some (nbits o 1 3) else none, outT := o.testBit 4, outMerge := o.testBit 5
    saveEn := v.testBit 0, saveTile := if v.testBit 0 && v.testBit 1 then some (nbits v 2 3) else none
    saveT := v.testBit 5, saveMerge := v.testBit 6 }

/-- An optional descriptor is read when `on`. -/
def withTensorIf (on : Bool) (s : State) (t : Tid) (a : Word) (k : Option TDesc → State → Res) : Res :=
  if on then withTensor s t a fun d s => k (some d) s else k none s

/-- Checks 2 to 4 of Table 7-3 for a destination tile. -/
def drainTileChecks (c : Core) (M N : Nat) (tile : Option Nat) (tr : Bool) : List (Bool × TFault) :=
  match tile with
  | none => []
  | some k =>
    let x := c.tile k
    let r := if tr then N else M
    let n := if tr then M else N
    [(x.conf, ⟨0, 1, dRows, 1, k⟩), (x.rows == r, ⟨x.rows, r, dRows, 1, k⟩), (x.cols == n, ⟨x.cols, n, dCols, 1, k⟩)]

/-- Checks 8 and 9 for a destination in memory. -/
def drainMemChecks (M N c0 : Nat) (d : Option TDesc) (tr : Bool) : List (Bool × TFault) :=
  match d with
  | none => []
  | some d =>
    let n := if tr then M else N
    [(!fmtBlock d.c || c0 % 32 == 0, ⟨c0, 32, dAlign, 4, 0xF⟩), (!fmtBlock d.c || n % 32 == 0, ⟨n, 32, dAlign, 4, 0xF⟩)]

/-- Table 7-3. -/
def drainChecks (c : Core) (a : Nat) (r : DrainRec) (c0 : Nat) (out save : Option TDesc) : List (Bool × TFault) :=
  let acc := c.tile (8 + a)
  [(acc.conf, ⟨0, 1, dRows, 0, 8 + a⟩)] ++ drainTileChecks c acc.rows acc.cols r.outTile r.outT ++
    drainTileChecks c acc.rows acc.cols r.saveTile r.saveT ++ drainMemChecks acc.rows acc.cols c0 out r.outT ++
    drainMemChecks acc.rows acc.cols c0 save r.saveT

/-- The in-bounds runs of a destination in memory. -/
def drainRuns (acc : Tile) (r0 c0 : Nat) (d : TDesc) (tr : Bool) : List Run :=
  windowRuns d r0 c0 (if tr then acc.cols else acc.rows) (if tr then acc.rows else acc.cols)

/-- The bytes that a drain reads or writes. -/
def destSpans (acc : Tile) (r0 c0 : Nat) (d : Option TDesc) (tr : Bool) : List Span :=
  match d with
  | none => []
  | some d => spansOf .w d (drainRuns acc r0 c0 d tr) ++ descSpan d

def vecSpan (a : Word) (n : Nat) : List Span := if a = 0 then [] else [⟨.r, a, 4 * n, 4⟩]

def drainSpans (acc : Tile) (r : DrainRec) (r0 c0 : Nat) (out save : Option TDesc) : List Span :=
  vecSpan r.bias acc.cols ++ vecSpan r.cscale acc.cols ++ destSpans acc r0 c0 out r.outT ++ destSpans acc r0 c0 save r.saveT

/-- The tensor that a destination merges into, with what XTVAL names (R185, R275). -/
def mergeOf (d : Option TDesc) (merge : Bool) (T : BitVec 16) (rec_ : Word) : Option (BitVec 16 × Word) :=
  match d with
  | some d => some (d.tensor, d.at_)
  | none => if merge then some (T, rec_) else none

def withEntryOpt (s : State) (t : Tid) (m : Option (BitVec 16 × Word)) (k : State → Res) : Res :=
  match m with
  | some (T, v) => withEntry s t v T k
  | none => k s

/-- The queue entry of a TDRAIN. -/
def drainOp (s : State) (t : Tid) (f : Fld) (rec_ : Word) (r : DrainRec) (out save : Option TDesc) : FinOp :=
  let x := s.thr t
  let pos := x.rg f.s2.toNat
  let base (d : Option TDesc) : Int := (d.map (drawBase s x)).getD 0
  let dr : Drain :=
    { rec_ := rec_, out := out, save := save, bias := r.bias, cscale := r.cscale, alpha := r.alpha, fnEn := r.fnEn
      outTile := r.outTile, outTr := r.outT, outMerge := if r.outMerge then some r.ttensor else none, saveEn := r.saveEn
      saveTile := r.saveTile, saveTr := r.saveT, saveMerge := if r.saveMerge then some r.stensor else none
      z := f.imm.getLsbD 2, outBase := base out, saveBase := base save }
  { seq := nextSeq s t, thread := t.thread.val, kind := .tdrain, d := f.d.toNat
    rm := BitVec.ofNat 2 (x.rmOf (nbits f.imm.toNat 0 2)), slot := r.slot, drain := some dr, r0 := posRow pos, c0 := posCol pos
    escapes := escapePolicy s (reqOf s t).world, seed := taskSeed x, step := taskStep x
    hold := if r.fnEn then ftabThreads s t.lathe.val r.slot else [] }

def bodyTdrain (t : Tid) (f : Fld) : Body :=
  plain (accReg f.d && Use.g.ok f.s1 && Use.g.ok f.s2 && immBelow f 3) fun s => withContext s t fun s =>
      let a := (s.thr t).rg f.s1.toNat
      let c0 := posCol ((s.thr t).rg f.s2.toNat)
      let r0 := posRow ((s.thr t).rg f.s2.toNat)
      drainAll s t fun s => readRecord s t a 64 fun b s =>
        let r := drainRecOf b
        withTensorIf r.outTile.isNone s t r.out fun out s =>
          withTensorIf (r.saveEn && r.saveTile.isNone) s t r.save fun save s =>
            let acc := (s.ctx t).tile (8 + f.d.toNat)
            withShape s t (drainChecks (s.ctx t) f.d.toNat r c0 out save) fun s =>
              withSpans s t 1 (drainSpans acc r r0 c0 out save) fun s =>
                withEntryOpt s t (mergeOf out r.outMerge r.ttensor a) fun s =>
                  withEntryOpt s t (if r.saveEn then mergeOf save r.saveMerge r.stensor a else none) fun s =>
                    .ok (enqueueFin s t (drainOp s t f a r out save))

/-- TDRAIN (07 R278). -/
def execTdrain (t : Tid) (f : Fld) (s : State) : Oc := issue t 0x190 f (bodyTdrain t f) s

/-! ## The drain pipeline (07 R272 to R277) -/

/-- A vector of N FP32 values; `none`: address 0. -/
def readVec (s : State) (t : Tid) (a : Word) (n : Nat) : Option (List F32) × State :=
  if a = 0 then (none, s)
  else
    let r := pathRead s t a (4 * n)
    (some ((List.range n).map (fun k => f32At r.1 (4 * k))), r.2)

/-- z of R272. -/
def drainZ (r : Drain) (cs bs : Option (List F32)) (a : F32) (n : Nat) : F32 :=
  let z := fmul32 a r.alpha
  let z := match cs with
    | some l => fmul32 z (l.getD n 0)
    | none => z
  match bs with
  | some l => fadd32 z (l.getD n 0)
  | none => z

/-- Values of a destination, row-major in its own orientation: element (i, j) is (j, i) of the accumulator when transposed. -/
def orient (xs : List F32) (M N : Nat) (tr : Bool) : List F32 :=
  if tr then (List.range (N * M)).map (fun i => xs.getD (i % M * N + i / M) 0) else xs

/-- In-bounds elements of a destination in memory by rising linear index. -/
def destElts (o : FinOp) (d : TDesc) (rows cols : Nat) (xs : List F32) : List (Nat × F32) :=
  let w := min cols (d.cols - o.c0)
  (List.range (min rows (d.rows - o.r0))).flatMap (fun i =>
    (List.range w).map (fun j => ((o.r0 + i) * d.cols + (o.c0 + j), xs.getD (i * cols + j) 0)))

/-- Write a destination: a tile, or a tensor in memory with use tag `tag`. -/
def drainDest (s : State) (t : Tid) (o : FinOp) (M N : Nat) (tile : Option Nat) (d : Option TDesc) (tr : Bool) (base : Int)
    (tag : Nat) (xs : List F32) : State :=
  let ys := orient xs M N tr
  match tile, d with
  | some k, _ =>
    let q := ((s.ctx t).tile k).fill o.rm.toNat ys
    cvtStat (s.modCore t.lathe.val t.core.val (fun c => c.putTile k q.1)) t.lathe.val q.2
  | none, some d =>
    let es := destElts o d (if tr then N else M) (if tr then M else N) ys
    let r := storeTensor s t d ⟨o.rm.toNat, some ⟨o.seed, d.tensor, o.step, tag⟩, o.escapes, base⟩ es
    noteStore r.2 t.lathe.val d.tensor r.1
  | none, none => s

/-- What a destination merges when the drain ends. -/
def drainMerge (d : Option TDesc) (m : Option (BitVec 16)) (xs : List F32) : Option (BitVec 16 × F32 × Nat) :=
  match d, m with
  | some d, _ => some (d.tensor, amaxList xs, nonfiniteCount xs)
  | none, some T => some (T, amaxList xs, nonfiniteCount xs)
  | none, none => none

/-- The pipeline of a drain. The output is written after the saved input, so that its bytes remain (R277). -/
def runDrain (s : State) (t : Tid) (o : FinOp) (r : Drain) : State :=
  let acc := (s.ctx t).tile (8 + o.d)
  let M := acc.rows
  let N := acc.cols
  let cs := readVec s t r.cscale N
  let bs := readVec cs.2 t r.bias N
  let zs := (List.range (M * N)).map (fun i => drainZ r cs.1 bs.1 (acc.elem i) (i % N))
  let ys := if r.fnEn then zs.map (slotF s t.lathe.val o.slot) else zs
  let s := bs.2
  let s := if r.saveEn then drainDest s t o M N r.saveTile r.save r.saveTr r.saveBase 2 zs else s
  let s := drainDest s t o M N r.outTile r.out r.outTr r.outBase 0 ys
  let e : DrainEnd :=
    { out := drainMerge r.out r.outMerge ys
      save := if r.saveEn then drainMerge r.save r.saveMerge zs else none
      step := o.step }
  s.modCore t.lathe.val t.core.val (fun c =>
    let c := if r.z then c.putTile (8 + o.d) ((c.tile (8 + o.d)).load [] []) else c
    { c with drainEnd := some e })

/-- The vectors that a drain reads. -/
def drainReads (r : Drain) (N : Nat) : List (Word × Nat) :=
  (vecSpan r.bias N ++ vecSpan r.cscale N).map Span.run

/-- What a drain reads of a destination: where it does not write every byte it touches. -/
def destReads (acc : Tile) (o : FinOp) (d : Option TDesc) (tr : Bool) : List (Word × Nat) :=
  match d with
  | some d =>
    if 8 ≤ fmtBits d.c ∧ !fmtBlock d.c then []
    else (spansOf .w d (drainRuns acc o.r0 o.c0 d tr)).map Span.run
  | none => []

/-! ## LONG_VECTOR_OP_COMPLETE (03 R148) and TDRAIN_END (07 R275) -/

/-- The effect of the head of a finishing queue, already taken from it. -/
def runFin (s : State) (t : Tid) (o : FinOp) : State :=
  let l := t.lathe.val
  let c := s.ctx t
  let flagged (q : Core × FFlags) : State := (s.setCore l t.core.val q.1).modThr t (fun x => x.raise q.2)
  match o.kind, o.drain with
  | .alu, _ => flagged (runAlu c o)
  | .cmp, _ => flagged (runCmp c o)
  | .mask, _ => flagged (runMask c o)
  | .tdrain, some r =>
    (match spansPoison s t (drainReads r (c.tile (8 + o.d)).cols) with
      | some p => lateError s t 3 p
      | none => runDrain s t o r)
  | .tdrain, none => s
  | _, _ =>
    let q := runFn s l c o
    cvtStat (flagged (q.1, q.2.1)) l q.2.2

/-- The lines of other devices that the head of a finishing queue reads. -/
def finFar (s : State) (t : Tid) (o : FinOp) : Far :=
  match o.drain with
  | some r =>
    let acc := (s.ctx t).tile (8 + o.d)
    farPath s t (drainReads r acc.cols ++ destReads acc o r.out r.outTr ++ destReads acc o r.save r.saveTr)
  | none => .ready s

/-- LONG_VECTOR_OP_COMPLETE: the oldest operation of the finishing queue of core `c` completes (03 R148). A drain that reads another
device asks for its lines first; an error response to one is reported (07 R278). -/
def execLongVectorOpComplete (c : Cid) (s : State) : Oc :=
  let l := c.lathe.val
  let x := s.core l c.core.val
  match x.finQ with
  | o :: r =>
    match tidOf? l c.core.val o.thread with
    | some t =>
      if x.drainEnd.isSome || behindTile x o || !o.hold.isEmpty || !clockRuns s t then .next s
      else
        let pop (s : State) : State := s.modCore l c.core.val (fun x => { x with finQ := r })
        match finFar s t o with
        | .out s => .next s
        | .err code w s => .next (wakeCore (dropLines (lateError (pop s) t code w) t) l c.core.val)
        | .ready s => .next (wakeCore (dropLines (runFin (pop s) t o) t) l c.core.val)
    | none => .next s
  | [] => .next s

/-- Merge into a scale-table entry; a counted value sets FU_FNSTAT.nonfinite. -/
def endMerge (s : State) (l : Nat) (step : BitVec 32) (m : Option (BitVec 16 × F32 × Nat)) : State :=
  match m with
  | some (T, a, n) =>
    let s := mergeStore s T step a n
    if n = 0 then s else ctlOr s (rFnstat l) 1
  | none => s

/-- TDRAIN_END: a drain ends and merges what it gathered (07 R275). -/
def execTdrainEnd (c : Cid) (s : State) : Oc :=
  let l := c.lathe.val
  let x := s.core l c.core.val
  match x.drainEnd with
  | some e =>
    let s := s.setCore l c.core.val { x with drainEnd := none }
    .next (wakeCore (endMerge (endMerge s l e.step e.out) l e.step e.save) l c.core.val)
  | none => .next s

/-! ## TAMAX (07 R289) -/

def amTile (f : Fld) : Bool := f.imm.getLsbD 0
def amMerge (f : Fld) : Bool := f.imm.getLsbD 1
def amMe (f : Fld) : Bool := f.imm.getLsbD 2
def amMk (f : Fld) : Nat := nbits f.imm.toNat 3 2

/-- s2 names the key of a merge, and is then not 0; without a merge it is 0 (Table 7-1, 02 R62). -/
def amaxLegal (f : Fld) : Bool :=
  Use.g.ok f.d && kindReg (amTile f) f.s1 && Use.g.ok f.s2 && immBelow f 5 &&
    (!amTile f || (!amMe f && amMk f == 0)) && amMerge f == (f.s2 != 0)

/-- The active elements of the operand. -/
def amElems (c : Core) (f : Fld) : List F32 :=
  if amTile f then (c.tile f.s1.toNat).vals
  else ((List.range 512).filter (laneOn c (amMe f) (amMk f))).map (laneOf (c.lvr f.s1.toNat))

def bodyTamax (t : Tid) (f : Fld) : Body :=
  plain (amaxLegal f) fun s => withContext s t fun s =>
    let cs := if amTile f then [(((s.ctx t).tile f.s1.toNat).conf, (⟨0, 1, dRows, 1, f.s1.toNat⟩ : TFault))] else []
    withShape s t cs fun s => afterQueues s t fun s =>
      let T : BitVec 16 := ((s.thr t).rg f.s2.toNat).setWidth 16
      let a := amaxList (amElems (s.ctx t) f)
      withEntryOpt s t (if amMerge f then some (T, 0) else none) fun s =>
        let s := if amMerge f then mergeAmax s T (taskStep (s.thr t)).toNat a else s
        .hold .longLatency (s.modThr t (fun x => { x with result := some (f.d.toNat, a.setWidth 64) }))

/-- TAMAX (07 R289). -/
def execTamax (t : Tid) (f : Fld) (s : State) : Oc := issue t 0x191 f (bodyTamax t f) s

end Sys2Proof.Machine
end

