-- ==== Sys2Proof/Machine/Commands.lean ====
section
/-!
DEFINITION. KCP commands (10 R380 to R390): the frame of every command, the ranges it names, the data movers, queue creation and
destruction, and TENSOR_BIND. The commands of tasks, reduction, chain, power, faults and images stand with what they act on.
-/

namespace Sys2Proof.Machine

/-! ## Fields of a packet -/

def Cmd.u (c : Cmd) (off n : Nat) : Nat := leAt c.packet off n
def Cmd.addr (c : Cmd) (off : Nat) : Word := BitVec.ofNat 64 (c.u off 8)
def Cmd.bit (c : Cmd) (off k : Nat) : Bool := (c.u off 1).testBit k

/-- Address-kind bit `i`: a host bus address. -/
def Cmd.host (c : Cmd) (i : Nat) : Bool := (c.u 8 1).testBit i

/-- The world of a command is its queue's. -/
def cmdWorld (s : State) (c : Cmd) : World := ((s.queue? c.q).map (fun x => x.world)).getD .ns

/-! ## Ranges (R381) -/

/-- Whether Table 8-2 gives memory at local address `a`. -/
def tableMemory (a : Nat) : Bool :=
  decide (a < 0x9000000000) || (decide (0x100000000000 ≤ a) && decide (a < 0x130000000000)) ||
    (decide (0x200000000000 ≤ a) && decide (a < 0x200044000000))

/-- A byte of this device that holds no memory. -/
def noMemory (s : State) (a : Nat) : Bool :=
  match place s none a with
  | .ram _ => false
  | .asleep _ => false
  | _ => true

/-- The range fails its parameter check: chain address 0xFFFE, or a byte that holds no memory. -/
def rangeBad (s : State) (a : Word) (n : Nat) : Bool :=
  if chainOf a = 0xFFFE#16 then true
  else if n = 0 then false
  else if isRemote s a then (granules (localOf a) n).any (fun g => !tableMemory g)
  else (granules (localOf a) n).any (noMemory s)

/-- The range has a byte of the other world. -/
def rangeOther (s : State) (w : World) (a : Word) (n : Nat) : Bool :=
  if n = 0 then false
  else if isRemote s a then w == .s || (granules (localOf a) n).any (fun g => (ratLookup s 1 g).world == .s)
  else (granules (localOf a) n).any (fun g => addrWorld s none g != w)

/-- A range of a command: address, length, and whether it lies in host memory. -/
structure KRange where
  addr : Word
  n : Nat
  host : Bool
  deriving DecidableEq, Repr

def KRange.bad (s : State) (r : KRange) : Bool := !r.host && rangeBad s r.addr r.n
def KRange.other (s : State) (w : World) (r : KRange) : Bool := !r.host && rangeOther s w r.addr r.n

/-! ## The frame of a command (R381 to R383) -/

/-- Commands with a remote end: offset of each address and its kind bit. -/
def remoteEnds (op : Nat) : List (Nat × Nat) :=
  match op with
  | 0x10 => [(0x10, 0), (0x18, 1)]
  | 0x11 => [(0x10, 0)]
  | _ => []

/-- A fenced device refuses the command (R383). -/
def fencedFail (s : State) (c : Cmd) : Bool :=
  s.chain.st == .fenced &&
    ([0x21, 0x22, 0x31, 0x40, 0x80].contains c.op ||
      (remoteEnds c.op).any (fun e => !c.host e.2 && chainOf (c.addr e.1) != 0xFFFE#16 && isRemote s (c.addr e.1)))

/-- The command that starts, with its world; or the state in which the command has no effect. -/
inductive KStart where
  | stop (s : State)
  | go (c : Cmd) (w : World)

/-- The start of command `n` of queue `q`, which must have opcode `op`. -/
def startCmd (s : State) (op q n : Nat) : KStart :=
  match s.cmd? q n with
  | none => .stop s
  | some c =>
    if c.op ≠ op ∨ !startable s c ∨ s.pwr.standby ∨ !complexRuns s q then .stop s
    else
      match headerFail s c with
      | some st => .stop (endWith s c st)
      | none => if fencedFail s c then .stop (endWith s c stFenced) else .go c (cmdWorld s c)

def runCmd (s : State) (op q n : Nat) (k : Cmd → World → State) : Oc :=
  match startCmd s op q n with
  | .stop s => .next s
  | .go c w => .next (k c w)

/-- A world rule is broken: ST_WORLD, logged for an NS command (15 Table 15-3). -/
def refuseWorld (s : State) (c : Cmd) (w : World) : State :=
  endWith (if w = .ns then logVio s (BitVec.ofNat 64 c.q) 1 0 4 c.op else s) c stWorld

/-- The checks of step 5, each a condition that makes the command fail. -/
structure KChecks where
  param : Bool := false
  world : Bool := false
  tied : Bool := false
  busy : Bool := false
  resource : Bool := false

def checked (s : State) (c : Cmd) (w : World) (k : KChecks) (go : State) : State :=
  if k.param then endWith s c stBadParam
  else if k.world then refuseWorld s c w
  else if k.tied then endWith s c stTied
  else if k.busy then endWith s c stBusy
  else if k.resource then endWith s c stNoResource
  else go

/-! ## NOP, QUEUE_CREATE, QUEUE_DESTROY (R385, R386) -/

/-- NOP (10 R385). -/
def execNopCmd (q n : Nat) (s : State) : Oc := runCmd s 0x01 q n fun c _ => endWith s c stOk

/-- QUEUE_CREATE (10 R385). -/
def execQueueCreate (q n : Nat) (s : State) : Oc :=
  runCmd s 0x02 q n fun c w =>
    let id := c.u 0x0C 4 % 2 ^ 20
    let vec := c.u 0x22 2
    let a := ringCheck s w (c.addr 0x10) (c.host 0) 64 (c.u 0x20 1)
    let b := ringCheck s w (c.addr 0x18) (c.host 1) 32 (c.u 0x21 1)
    checked s c w
      { param := decide (id < 2) || a == stBadParam || b == stBadParam || decide (2047 < vec)
        world := a == stWorld || b == stWorld, busy := (s.queue? id).isSome }
      (let x := newQueue w (c.addr 0x10) (c.host 0) (c.u 0x20 1) (c.addr 0x18) (c.host 1) (c.u 0x21 1) (c.bit 0x24 0)
        (BitVec.ofNat 11 vec)
       endWith (s.setQueue id x) c stOk)

/-- QUEUE_DESTROY (10 R386). -/
def execQueueDestroy (q n : Nat) (s : State) : Oc :=
  runCmd s 0x03 q n fun c w =>
    let id := c.u 0x0C 4
    let x := s.queue? id
    checked s c w
      { param := decide (id < 2) || x.isNone, world := (x.map (fun x => x.world != w)).getD false }
      (destroyQueue (s.modCmd c.q c.n.toNat (fun c => { c with wait := .destroy id })) id)

/-! ## Data movement (R387, R388; 15 R486) -/

/-- No DMA engine of the queue's bench die has the queue's world, or each that has it is about to change (R486, 15 R487). -/
def noDma (s : State) (q : Nat) (w : World) : Bool :=
  !(List.range 8).any (fun k =>
    let e := 8 * (q % 2) + k
    mget s.sec.dmaWorld e .ns == w && (mget? s.sec.pend (80 + e)).isNone)

/-- A byte of a range lies in a DRAM row that is being copied: the command's start waits (08 R323). -/
def KRange.busy (s : State) (r : KRange) : Bool := !r.host && !isRemote s r.addr && runBusy s (localOf r.addr) r.n

/-- Bytes before the first poisoned line of a range, and that line's address. -/
def beforePoison (s : State) (a n : Nat) : Nat × Option Nat :=
  let ps := if n = 0 then [] else s.mem.poison.filter (fun l => decide (l < a + n) && decide (a < l + 64))
  match ps with
  | [] => (n, none)
  | p :: r => let m := r.foldl min p; (m - a, some m)

/-- A read of a range by an engine of this device: the bytes that arrived before an error response or poison, the poisoned
address, if any. `ext`: what host memory, or another device, returned. -/
def extRead (s : State) (r : KRange) (ext : Option (List Byte)) : List Byte × Option Word × State :=
  if r.host then ((ext.getD []).take r.n, none, s)
  else if isRemote s r.addr then ((ext.getD []).take r.n, none, remoteReads s (chainOf r.addr) (localOf r.addr) r.n)
  else
    let s := wakeRange s r.addr r.n
    let b := beforePoison s (localOf r.addr) r.n
    let d := busRead s (localOf r.addr) b.1
    (d.1, b.2.map (fun p => r.addr + BitVec.ofNat 64 (p - localOf r.addr)), d.2)

/-- What a source outside this device returned to a command; host reads of one reset with the host link fail (R396). -/
def Cmd.ext (c : Cmd) (i : Nat) (ext : Option (List Byte)) : Option (List Byte) := if c.linkLost && c.host i then none else ext

/-- A write of a range by an engine of this device; writes to host memory of a command without a record are discarded. -/
def extWrite (s : State) (discard host : Bool) (a : Word) (d : List Byte) : State :=
  if d.isEmpty then s
  else if host then (if discard then s else emit s (.hostWrite a d))
  else if isRemote s a then remoteWrites (dropCopies s a d.length) (chainOf a) (localOf a) d (fun _ => .engine)
  else busWrite (wakeRange s a d.length) (localOf a) d

/-- Of `m` bytes in hand for a destination of `n`, those in whole lines of the destination (R387). -/
def wholeLines (dst : Word) (m n : Nat) : Nat :=
  if n ≤ m then n else if (dst.toNat + m) / 64 * 64 ≤ dst.toNat then 0 else (dst.toNat + m) / 64 * 64 - dst.toNat

/-- A read that met poison is reported (08 R320). -/
def poisonMet (s : State) (c : Cmd) (poison : Option Word) : State :=
  match poison with
  | some p => detect s ⟨cPoisonRead, 7, BitVec.ofNat 16 (c.q % 2), p, none, 0, false⟩
  | none => s

/-- The bytes of a destination are written in order; a copy that falls short ends with ST_ABORTED. -/
def moveBytes (s : State) (c : Cmd) (dst : KRange) (d : List Byte) (poison : Option Word) : State :=
  let k := wholeLines dst.addr d.length dst.n
  let s := poisonMet (extWrite s c.linkLost dst.host dst.addr (d.take k)) c poison
  if k < dst.n then endCmd s c stAborted 0 (BitVec.ofNat 64 k) else endCmd s c stOk 0 (BitVec.ofNat 64 dst.n)

/-! ## Copies with an end on another device (R387, 08 R294) -/

def setMove (s : State) (c : Cmd) (m : Move) : State := s.modCmd c.q c.n.toNat (fun c => { c with wait := .move m })

/-- Every core of the lathes of world `w` discards its instruction cache before its next task start (R388). -/
def markDiscard (s : State) (w : World) : State :=
  { s with cores := s.cores.map (fun (p : Nat × Core) =>
      if (s.lathe (p.1 / 68)).world = w then (p.1, { p.2 with discard := true }) else p) }

/-- The copy is complete, or has stopped; a PROGRAM_LOAD that is complete marks the instruction caches. -/
def moveEnd (s : State) (c : Cmd) (m : Move) : State :=
  let s := if c.op = 0x20 ∧ m.n ≤ m.at_ then markDiscard s (cmdWorld s c) else s
  endCmd s c (if m.at_ < m.n then stAborted else stOk) 0 (BitVec.ofNat 64 m.at_)

/-- A request of a copy for its line; the copy awaits the answer. No device at the address is an error response (08 R294). -/
def moveAsk (s : State) (c : Cmd) (m : Move) (a : Word) (ty : Byte) (ext : Word) (payload : List Byte) : State :=
  if !chainHolds s (chainOf a) then moveEnd s c m
  else
    (request (setMove s c { m with tag := some s.chain.nextTag }) (chainOf a) ty (BitVec.ofNat 48 (localOf a)) ext payload
      (fun _ => .mover c.q c.n)).2

/-- A copy goes on as far as it can without an answer. -/
def moveGo : Nat → State → Cmd → Move → State
  | 0, s, c, m => setMove s c m
  | fuel + 1, s, c, m =>
    let k := m.piece
    let a := m.dst + BitVec.ofNat 64 m.at_
    let done : Move := { m with got := none, at_ := m.at_ + k }
    if m.n ≤ m.at_ then moveEnd s c m
    else
      match m.got with
      | some d =>
        if m.host then moveGo fuel (extWrite s c.linkLost true a d) c done
        else if isRemote s a then moveAsk (dropCopies s a k) c m a pWrite 0xFFFFFFFFFFFFFFFF#64 d
        else if runBusy s (localOf a) k then setMove s c m
        else moveGo fuel (extWrite s c.linkLost false a d) c done
      | none =>
        match m.src with
        | .bytes d =>
          if d.length < m.at_ + k then moveEnd s c m
          else moveGo fuel s c { m with got := some ((d.drop m.at_).take k) }
        | .pattern p => moveGo fuel s c { m with got := some ((List.range k).map (fun i => (leBytes 8 p.toNat).getD ((m.at_ + i) % 8) 0)) }
        | .mem b =>
          let b := b + BitVec.ofNat 64 m.at_
          if isRemote s b then moveAsk s c m b pRead 0 (leBytes 2 k)
          else if runBusy s (localOf b) k then setMove s c m
          else
            let r := extRead s ⟨b, k, false⟩ none
            if r.2.1.isSome then moveEnd (poisonMet r.2.2 c r.2.1) c m else moveGo fuel r.2.2 c { m with got := some r.1 }

/-- The copy of command `n` of queue `q` goes on, if it awaits no answer. -/
def moveOn (s : State) (q n : Nat) : State :=
  match s.cmd? q n with
  | some c =>
    (match c.wait with
      | .move m => if m.tag.isNone then moveGo 4 s c m else s
      | _ => s)
  | none => s

/-- A copy from `src` to `dst`: at once on this device and to or from the host, line by line where an end is on another device.
`ext`: what a host source returned. -/
def startMove (s : State) (c : Cmd) (src dst : KRange) (ext : Option (List Byte)) (local_ : State → State) : State :=
  let far (r : KRange) : Bool := !r.host && isRemote s r.addr
  if src.busy s || dst.busy s then s
  else if far src || far dst then
    moveGo 4 s c { src := if src.host then .bytes ((ext.getD []).take src.n) else .mem src.addr, dst := dst.addr, host := dst.host, n := dst.n }
  else local_ s

/-- One device's byte, whichever chain address names the device. -/
def sameByte (s : State) (a b : Word) : Bool :=
  (chainOf a == chainOf b || (isSelf s (chainOf a) && isSelf s (chainOf b))) && localOf a == localOf b

def rangesMeet (s : State) (a b : Word) (n m : Nat) : Bool :=
  (chainOf a == chainOf b || (isSelf s (chainOf a) && isSelf s (chainOf b))) &&
    decide (localOf a < localOf b + m) && decide (localOf b < localOf a + n)

def maxLen : Nat := 2 ^ 40

/-- MEM_COPY (10 R387). `host`: what a host source returned; fewer bytes than asked, or none: an error response stands after
them. -/
def execMemCopy (q n : Nat) (host : Option (List Byte)) (s : State) : Oc :=
  runCmd s 0x10 q n fun c w =>
    let len := c.u 0x20 8
    let src : KRange := ⟨c.addr 0x10, len, c.host 0⟩
    let dst : KRange := ⟨c.addr 0x18, len, c.host 1⟩
    let dev := !src.host && !dst.host
    let flush := c.bit 9 0 && dev && sameByte s src.addr dst.addr
    checked s c w
      { param := decide (maxLen < len) || (src.host && dst.host) ||
          (dev && !flush && rangesMeet s src.addr dst.addr len len) || src.bad s || dst.bad s
        world := src.other s w || dst.other s w, resource := noDma s c.q w }
      (if flush then endCmd (dropCopies s src.addr len) c stOk 0 (BitVec.ofNat 64 len)
       else startMove s c src dst (c.ext 0 host) fun s =>
         let r := extRead s src (c.ext 0 host)
         moveBytes r.2.2 c dst r.1 r.2.1)

/-- MEM_FILL (10 R387). -/
def execMemFill (q n : Nat) (s : State) : Oc :=
  runCmd s 0x11 q n fun c w =>
    let len := c.u 0x20 8
    let dst : KRange := ⟨c.addr 0x10, len, c.host 0⟩
    let pat := leBytes 8 (c.u 0x18 8)
    checked s c w
      { param := decide (maxLen < len) || dst.bad s, world := dst.other s w, resource := noDma s c.q w }
      (if dst.busy s then s
       else if !dst.host && isRemote s dst.addr then moveGo 4 s c { src := .pattern (c.addr 0x18), dst := dst.addr, host := false, n := len }
       else moveBytes s c dst ((List.range len).map (fun i => pat.getD (i % 8) 0)) none)

/-- PROGRAM_LOAD (10 R388). -/
def execProgramLoad (q n : Nat) (host : Option (List Byte)) (s : State) : Oc :=
  runCmd s 0x20 q n fun c w =>
    let len := c.u 0x20 4
    let src : KRange := ⟨c.addr 0x10, len, c.host 0⟩
    let dst : KRange := ⟨c.addr 0x18, len, false⟩
    checked s c w
      { param := isRemote s dst.addr || dst.addr.toNat % 8 != 0 || len % 8 != 0 ||
          (!src.host && rangesMeet s src.addr dst.addr len len) || src.bad s || dst.bad s
        world := src.other s w || dst.other s w, resource := noDma s c.q w }
      (startMove s c src dst (c.ext 0 host) fun s =>
       let r := extRead s src (c.ext 0 host)
       let k := wholeLines dst.addr r.1.length len
       let s := moveBytes r.2.2 c dst r.1 r.2.1
       let s := if w = .s then extendMeas s 4 (shake256 (leBytes 8 dst.addr.toNat ++ r.1.take k) 64) else s
       if len ≤ k then markDiscard s w else s)

/-! ## TENSOR_BIND (R390) -/

/-- Bind one entry: H, headroom and world set, everything else cleared. -/
def bindEntry (s : State) (T hist : Nat) (w : World) : State :=
  let t : BitVec 16 := BitVec.ofNat 16 T
  ePut (memClear s (scaleAt s t) 128) t eHist 1 (hist % 64 + (if w = .s then 128 else 0))

/-- TENSOR_BIND (10 R390). -/
def execTensorBind (q n : Nat) (s : State) : Oc :=
  runCmd s 0x30 q n fun c w =>
    let read := c.bit 9 0
    let first := c.u 0x0C 2
    let count := c.u 0x10 4
    let ids := (List.range count).map (first + ·)
    let buf : KRange := ⟨c.addr 0x18, 128 * count, c.host 0⟩
    let other (T : Nat) : Bool :=
      let ew := entryWorld s (BitVec.ofNat 16 T)
      if read then ew != w else w == .ns && ew == .s
    let outside := decide (count = 0) || decide (65536 < first + count)
    checked s c w
      { param := outside || (read && buf.bad s)
        world := !outside && (ids.any other || (read && buf.other s w)) }
      (if read then
        endWith (extWrite s c.linkLost buf.host buf.addr (memRead s (scaleAt s (BitVec.ofNat 16 first)) (128 * count))) c stOk
       else endWith (ids.foldl (fun s T => bindEntry s T (c.u 0x14 1) w) s) c stOk)

/-! ## The completion of a command (R392) -/

/-- COMMAND_COMPLETE: the record of a command that has ended, or has no defined opcode, is written; `err`: the write receives an
error response. A copy that a DRAM row's copy has held up goes on. -/
def execCommandComplete (q n : Nat) (err : Bool) (s : State) : Oc :=
  match s.cmd? q n with
  | some c =>
    if recordBusy s q || !complexRuns s q then .next s
    else if recordDue s c then .next (afterDestroy (finishCmd s c err) c)
    else if startable s c && (kcpUse c.op).isNone then .next (finishCmd s { c with status := stBadOpcode } err)
    else .next (moveOn s q n)
  | none => .next s

end Sys2Proof.Machine
end

