-- ==== Sys2Proof/Machine/Chain.lean ====
section
/-!
DEFINITION. Chain ports and packets (11 R397 to R411, R420): training, flits and lanes, the judgement of a received packet by
its epoch, its way on to another device, and the requests that other devices make of this one.
-/

namespace Sys2Proof.Machine

/-! ## Ports -/

def port (s : State) (p : Nat) : Port := mget s.chain.ports p {}

def setPort (s : State) (p : Nat) (x : Port) : State := { s with chain := { s.chain with ports := mset s.chain.ports p x } }

def modPort (s : State) (p : Nat) (f : Port → Port) : State := setPort s p (f (port s p))

/-- The other port of the same ring: what port `p` must be connected to (R398). -/
def mate (p : Nat) : Nat := if p < 20 then p + 20 else p - 20

/-- The clocks of port `p` run: its chain reference is present (01 R43) and its island is not held (01 R21). -/
def portClock (s : State) (p : Nat) : Bool :=
  s.plat.started && !(if p < 20 then s.plat.clockDown0 else s.plat.clockDown1) &&
    clockOn s (.link (if p < 20 then 0 else 1))

/-- Flits pass on the port; a fenced partner still sends. -/
def linkLive (s : State) (p : Nat) : Bool := portClock s p && (portUp s p || (port s p).st == .partnerFenced)

/-- At width 4: after a second degraded lane, or by the repair map (R405). -/
def Port.four (x : Port) : Bool := x.narrow || decide (2 ≤ x.degraded.length)

def upState (x : Port) : PState := if x.four then .up4 else .up

def healthyLanes (x : Port) : List Nat := (List.range 9).filter (fun l => !x.degraded.contains l)

/-- The lanes that carry traffic: at width 4 those of the repair map, else the four healthy lanes of lowest number (R405). -/
def lanesUsed (x : Port) : List Nat :=
  if x.four then (if x.width4.length = 4 ∧ x.width4.all (fun l => !x.degraded.contains l) then x.width4 else (healthyLanes x).take 4)
  else
    match x.degraded with
    | [] => List.range 8
    | _ => healthyLanes x

def serialWord (s : State) : Word := s.sec.fuses.serial

/-- The sender's port table: port, partner and partner's port of each up port; partner 0 is one without an address yet. -/
def portTable (s : State) : List (BitVec 16 × Nat × BitVec 16 × Nat) :=
  (List.range 40).filterMap (fun p =>
    let x := port s p
    if portOn s p then some (s.chain.addr, p, x.partner, x.pport.toNat) else none)

def tableBytes (t : List (BitVec 16 × Nat × BitVec 16 × Nat)) : List Byte :=
  t.flatMap (fun e => leBytes 1 e.2.1 ++ leBytes 2 e.2.2.1.toNat ++ leBytes 1 e.2.2.2)

def portsOf (dev : BitVec 16) (d : List Byte) : List (BitVec 16 × Nat × BitVec 16 × Nat) :=
  (List.range (d.length / 4)).map (fun k => (dev, leAt d (4 * k) 1, BitVec.ofNat 16 (leAt d (4 * k + 1) 2), leAt d (4 * k + 3) 1))

/-- A TOPO packet to `dst`: ext carries the sender's serial number. -/
def topoPacket (s : State) (dst : BitVec 16) : Packet :=
  mkPacket s dst pTopo 0 0 0 (serialWord s) (tableBytes (portTable s))

/-! ## Membership records as bytes (R415) -/

def pairBytes (l : List (BitVec 16 × Word)) : List Byte :=
  leBytes 2 l.length ++ l.flatMap (fun p => leBytes 2 p.1.toNat ++ leBytes 8 p.2.toNat)

def pairsAt (d : List Byte) (n : Nat) : List (BitVec 16 × Word) :=
  (List.range n).map (fun k => (BitVec.ofNat 16 (leAt d (10 * k) 2), BitVec.ofNat 64 (leAt d (10 * k + 2) 8)))

def transBytes (l : List (BitVec 16 × List (BitVec 16))) : List Byte :=
  leBytes 1 l.length ++ l.flatMap (fun t => leBytes 2 t.1.toNat ++ leBytes 1 t.2.length ++ t.2.flatMap (fun a => leBytes 2 a.toNat))

/-- Transitions read from bytes, and the bytes after them. -/
def transAt : Nat → List Byte → List (BitVec 16 × List (BitVec 16)) × List Byte
  | 0, d => ([], d)
  | n + 1, d =>
    let k := leAt d 2 1
    let r := transAt n (d.drop (3 + 2 * k))
    ((BitVec.ofNat 16 (leAt d 0 2), (List.range k).map (fun j => BitVec.ofNat 16 (leAt d (3 + 2 * j) 2))) :: r.1, r.2)

def topoBytes (t : List (BitVec 16 × Nat × BitVec 16 × Nat)) : List Byte :=
  t.flatMap (fun e => leBytes 2 e.1.toNat ++ leBytes 1 e.2.1 ++ leBytes 2 e.2.2.1.toNat ++ leBytes 1 e.2.2.2)

def topoAt (d : List Byte) : List (BitVec 16 × Nat × BitVec 16 × Nat) :=
  (List.range (d.length / 6)).map (fun k =>
    (BitVec.ofNat 16 (leAt d (6 * k) 2), leAt d (6 * k + 2) 1, BitVec.ofNat 16 (leAt d (6 * k + 3) 2), leAt d (6 * k + 5) 1))

/-- A record as MEMBER carries it, after its length. Its layout is the model's own (notes/assumptions/30.md). -/
def recordBody (r : Membership) : List Byte :=
  leBytes 2 r.epoch.toNat ++ leBytes 2 r.head.toNat ++ pairBytes r.members ++ pairBytes r.spares ++ transBytes r.trans ++
    topoBytes r.topo

def memberBytes (r : Membership) : List Byte := leBytes 4 (recordBody r).length ++ recordBody r

def memberOf (d : List Byte) : Membership :=
  let nm := leAt d 4 2
  let d1 := d.drop 6
  let d2 := d1.drop (10 * nm)
  let ns := leAt d2 0 2
  let d3 := d2.drop (2 + 10 * ns)
  let t := transAt (leAt d3 0 1) (d3.drop 1)
  { epoch := BitVec.ofNat 16 (leAt d 0 2), head := BitVec.ofNat 16 (leAt d 2 2), members := pairsAt d1 nm
    spares := pairsAt (d2.drop 2) ns, trans := t.1, topo := topoAt t.2 }

/-- The packets that carry a record, 512 bytes each (R407). -/
def memberPackets (s : State) (dst : BitVec 16) (r : Membership) : List Packet :=
  (pieces 512 (cdiv (memberBytes r).length 512) (memberBytes r)).map (mkPacket s dst pMember 0 0 0 0)

/-- A record goes to every device; the ring it travels is that record's. -/
def broadcastRecord (s : State) (r : Membership) : State :=
  (memberPackets s 0xFFFE r).foldl (fun s p => broadcastOn s (ringClosed r) p) s

/-- Parts of a long item that arrive at a port from one source, in order: the whole item once it is there. -/
def gather (s : State) (p : Nat) (k : Packet) (size : List Byte → Nat) : Option (List Byte) × State :=
  let mine (e : Nat × Byte × BitVec 16 × List Byte) : Bool := e.1 == p && e.2.1 == k.type && e.2.2.1 == k.src
  let d := ((s.chain.parts.find? mine).map (fun e => e.2.2.2)).getD [] ++ k.payload
  let rest := s.chain.parts.filter (fun e => !mine e)
  if size d ≤ d.length then (some d, { s with chain := { s.chain with parts := rest } })
  else (none, { s with chain := { s.chain with parts := rest ++ [(p, k.type, k.src, d)] } })

/-! ## The head's topology (R409) -/

def isHead (s : State) : Bool := s.chain.rec_.isSome && s.chain.addr == s.chain.head && s.chain.st != .fenced

/-- Replace the entries of device `dev`. -/
def mergeTopo (t : List (BitVec 16 × Nat × BitVec 16 × Nat)) (dev : BitVec 16)
    (new : List (BitVec 16 × Nat × BitVec 16 × Nat)) : List (BitVec 16 × Nat × BitVec 16 × Nat) :=
  t.filter (fun e => e.1 != dev) ++ new

/-- Entries whose partner had no address when they were made take it from the partner's own table. -/
def fillPartners (t : List (BitVec 16 × Nat × BitVec 16 × Nat)) : List (BitVec 16 × Nat × BitVec 16 × Nat) :=
  t.map (fun e =>
    if e.2.2.1 = 0 then
      match t.find? (fun o => o.2.2.1 == e.1 && o.2.2.2 == e.2.1 && o.2.1 == e.2.2.2) with
      | some o => (e.1, e.2.1, o.1, e.2.2.2)
      | none => e
    else e)

/-- The head takes a port table into its record and distributes the record. -/
def headTopo (s : State) (dev : BitVec 16) (new : List (BitVec 16 × Nat × BitVec 16 × Nat)) : State :=
  match s.chain.rec_ with
  | some r =>
    let r := { r with topo := fillPartners (mergeTopo r.topo dev new) }
    broadcastRecord { s with chain := { s.chain with rec_ := some r } } r
  | none => s

/-- A port's state has changed: the head is told, and routes follow its next record. During enumeration the table goes back along
the walk. -/
def topoChanged (s : State) : State :=
  match s.chain.rec_ with
  | none =>
    (match s.chain.enumPort with
      | some p => if s.chain.st = .enumerating ∧ portOn s p then sendOn s p (topoPacket s s.chain.head) else s
      | none => s)
  | some _ =>
    if isHead s then headTopo s s.chain.addr (portTable s) else sendOrDrop s (topoPacket s s.chain.head)

/-- What a port keeps when it goes down: what is known of its lanes. -/
def downPort (x : Port) : Port :=
  { degraded := x.degraded, spareUsed := x.spareUsed, narrow := x.narrow, width4 := x.width4 }

/-- A port goes down: its flits are gone with it. -/
def portFalls (s : State) (p : Nat) (cause : BitVec 16) : State :=
  let s := modPort s p downPort
  topoChanged (detect s (plainFault cause 6 p))

/-! ## Training (R398, R401) -/

/-- PORT_TRAINING. With fewer than four healthy lanes the port stays down (R405); the lanes that a start finds failed are among
those of DEVICE_START. -/
def execPortTraining (p : Fin 40) (r : Training) (s : State) : Oc :=
  let x := port s p.val
  if !portClock s p.val || portOn s p.val || x.st == .partnerFenced then .next s
  else
    let down : State := setPort s p.val (downPort x)
    let bad : State := detect down (plainFault cMiswired 6 p.val)
    match r with
    | .up pol rev partner pport =>
      if pport.toNat ≠ mate p.val then .next bad
      else if (healthyLanes x).length < 4 then .next down
      else
        let y : Port := { downPort x with
          st := upState x, partner := if partner = 0xFFFF#16 then 0 else partner, pport := pport, pol := pol, rev := rev }
        .next (topoChanged (setPort s p.val y))
    | .miswired => .next bad
    | .badOrder => .next bad
    | .failed => .next down

/-! ## Judgement by epoch (R420) -/

inductive Verdict where
  | accept | stale | newer
  deriving DecidableEq, Repr

/-- The epochs that transitions from `p` to the record's epoch led to. -/
def changedSince (r : Membership) (p : BitVec 16) (src : BitVec 16) : Bool :=
  r.trans.any (fun t =>
    decide (1 ≤ (t.1 - p).toNat) && decide ((t.1 - p).toNat ≤ (r.epoch - p).toNat) && t.2.contains src)

def verdict (s : State) (p src : BitVec 16) : Verdict :=
  match s.chain.rec_ with
  | none => .accept
  | some r =>
    let d := (r.epoch - p).toNat
    if src = 0xFFFF#16 ∨ d = 0 then .accept
    else if 0x8000 ≤ d then .newer
    else if d ≤ 15 ∧ !changedSince r p src then .accept else .stale

/-- Types that are not judged: those of enumeration, refusals, and what a hop returns. -/
def epochless (ty : Byte) : Bool := [pEnum, pClaim, pFenced, pReroute].contains ty

/-- The packet types of Table 11-4 and of 12 Table 12-2. -/
def typeDefined (ty : Byte) : Bool :=
  let t := ty.toNat
  (decide (1 ≤ t) && decide (t ≤ 4)) || (decide (8 ≤ t) && decide (t ≤ 0xC)) || (decide (0x10 ≤ t) && decide (t ≤ 0x17)) ||
    (decide (0x20 ≤ t) && decide (t ≤ 0x27))

/-! ## Forwarding (R408, R409) -/

/-- ERROR_RESP code 1 to the source of a packet that cannot go on (R408, R409); one to the head shows that it cannot be reached
(R419). For a packet that is no request, whose tag names none, ext [15:8] holds its type (DESIGN CHOICE,
notes/assumptions/30.md). -/
def bounce (s : State) (k : Packet) : State :=
  let s := if k.dst = s.chain.head ∧ s.chain.rec_.isSome ∧ k.vc = 3 then { s with chain := { s.chain with headLost := true } } else s
  if k.src = s.chain.addr then
    if k.vc ≠ 0 then s else
    match s.chain.outst.find? (fun o => o.tag == k.tag) with
    | some o => answered s o (.err 1)
    | none => s
  else sendOrDrop s (mkPacket s k.src pErr k.tag k.job 0 (BitVec.ofNat 64 (1 + (if k.vc = 0 then 0 else 256 * k.type.toNat))) [])

/-- Send a packet that arrived at port `p` on its way: along its route, or, before this device has a record, on along ring 0. -/
def relay (s : State) (p : Nat) (k : Packet) : State :=
  if k.hops.toNat ≤ 1 then bounce s k
  else
    let k := { k with hops := k.hops - 1 }
    match s.chain.rec_ with
    | none => if (p = 0 ∨ p = 20) ∧ portOn s (mate p) then sendOn s (mate p) k else s
    | some _ =>
      match (if k.type = pProbe ∨ k.type = pProbeResp then probeRoute s k.dst else route s k.dst) with
      | some o => sendOn s o k
      | none => bounce s k

/-- A broadcast goes on along ring 0 in the direction in which it came. -/
def forwardAll (s : State) (p : Nat) (k : Packet) : State :=
  if ¬(p = 0 ∨ p = 20) then s
  else if k.hops.toNat ≤ 1 then bounce s k
  else if portOn s (mate p) then sendOn s (mate p) { k with hops := k.hops - 1 } else s

def enqueueRx (s : State) (p : Nat) (k : Packet) : State := { s with chain := { s.chain with rxq := s.chain.rxq ++ [(p, k)] } }

/-- A request for the partner's record: MEMBER without payload. -/
def askRecord (s : State) (p : Nat) : State := sendOn s p (mkPacket s (port s p).partner pMember 0 0 0 0 [])

/-- A packet goes back to the hop that sent it, in two parts where it is longer than one payload (R407, R421). -/
def giveBack (s : State) (p : Nat) (k : Packet) : State :=
  let d := packetBytes k
  (pieces 512 (cdiv d.length 512) d).foldl (fun s c => sendOn s p (mkPacket s (port s p).partner pReroute 0 0 0 0 c)) s

/-- The judgement of a packet by its epoch; a newer record is what is asked for (R420). -/
def judge (s : State) (k : Packet) : Verdict :=
  if epochless k.type then .accept
  else
    match verdict s k.epoch k.src with
    | .newer => if k.type = pMember then .accept else .newer
    | v => v

/-- A packet received on port `p` (R409, R420, R421). In A4 it is a wake event (16 R512). -/
def receive (s : State) (p : Nat) (k : Packet) : State :=
  let s := if s.pwr.standby then { s with pwr := { s.pwr with waking := true } } else s
  if s.chain.st = .fenced then giveBack s p k
  else if !typeDefined k.type then detect s (plainFault cProtocol 6 p)
  else
    match judge s k with
    | .stale => sendOn s p (mkPacket s k.src pFenced k.tag k.job 0 0 [])
    | .newer => askRecord { s with chain := { s.chain with heldRx := s.chain.heldRx ++ [(p, k)] } } p
    | .accept =>
      if k.type = pReroute ∨ k.type = pEnum ∨ k.type = pClaim then enqueueRx s p k
      else if k.dst = 0xFFFE#16 then
        (if k.src = s.chain.addr ∧ k.src ≠ 0xFFFF#16 then s else enqueueRx (forwardAll s p k) p k)
      else if isSelf s k.dst then enqueueRx s p k
      else relay s p k

/-! ## Flits (R402, R403) -/

/-- The whole packets at the head of a port's bytes; type 0 fills the rest of a flit. -/
def takePackets (p : Nat) : Nat → State → State
  | 0, s => s
  | n + 1, s =>
    let d := (port s p).rx
    if d.length < 32 then s
    else if leAt d 6 1 = 0 then modPort s p (fun x => { x with rx := [] })
    else if 512 < leAt d 10 2 then detect (modPort s p (fun x => { x with rx := [] })) (plainFault cProtocol 6 p)
    else
      let len := 32 + leAt d 10 2
      if d.length < len then s
      else takePackets p n (receive (modPort s p (fun x => { x with rx := d.drop len })) p (packetOf (d.take len)))

/-- A flit that is not intact, or out of sequence, draws a NAK; 16 for one number retrain the port. -/
def nakFlit (s : State) (p : Nat) : State :=
  let x := port s p
  let want := x.rxSeq + 1
  let n := if x.nakSeq = want then x.naks + 1 else 1
  let st := if 16 ≤ n then .training else x.st
  emit (setPort s p { x with naks := if 16 ≤ n then 0 else n, nakSeq := want, st := st }) (.flit p want x.rxSeq 2 [])

/-- The CRC field of a flit matches its content. -/
def flitIntact (f : List Byte) : Bool :=
  decide (f.length = 640) && leAt f 12 4 == (crc32 (putAt f 12 [0, 0, 0, 0])).toNat

/-- DATA_FLIT. -/
def execDataFlit (p : Fin 40) (f : List Byte) (decoded : Bool) (s : State) : Oc :=
  let p := p.val
  if !linkLive s p then .next s
  else if !decoded || !flitIntact f then .next (nakFlit s p)
  else
    let x := port s p
    let seq := BitVec.ofNat 16 (leAt f 0 2)
    let ack := BitVec.ofNat 16 (leAt f 2 2)
    let x := { x with replay := x.replay.filter (fun r => decide (0x8000 ≤ (ack - r.1).toNat)) }
    let d := (seq - (x.rxSeq + 1)).toNat
    if d = 0 then
      let y := { x with rxSeq := seq, naks := 0, rx := if leAt f 4 1 = 0 then x.rx ++ f.drop 16 else x.rx }
      .next (takePackets p 40 (setPort s p y))
    else if 0x8000 ≤ d then .next (setPort s p x)
    else .next (nakFlit (setPort s p x) p)

/-- Resend every kept flit from `seq` on, in order. -/
def resend (s : State) (p : Nat) (seq : BitVec 16) : State :=
  ((port s p).replay.filter (fun r => decide ((r.1 - seq).toNat < 0x8000))).foldl
    (fun s r => emit s (.flit p r.1 (port s p).rxSeq 0 r.2)) s

/-- NAK: every kept flit from that number on is sent again; after 16 in a row for one number the port retrains. -/
def execNak (p : Fin 40) (seq : BitVec 16) (s : State) : Oc :=
  if !linkLive s p.val then .next s
  else
    let x := port s p.val
    let n := if x.txNakSeq = seq then x.txNaks + 1 else 1
    if 16 ≤ n then .next (setPort s p.val { x with txNaks := 0, txNakSeq := seq, st := .training })
    else .next (resend (setPort s p.val { x with txNaks := n, txNakSeq := seq }) p.val seq)

/-- PORT_RETRAIN. -/
def execPortRetrain (p : Fin 40) (ok : Bool) (s : State) : Oc :=
  let x := port s p.val
  if x.st = .training ∧ portClock s p.val ∧ ok then
    let s := setPort s p.val { x with st := upState x }
    match x.replay with
    | r :: _ => .next (resend s p.val r.1)
    | [] => .next s
  else .next s

/-- PORT_DOWN. -/
def execPortDown (p : Fin 40) (s : State) : Oc :=
  if (port s p.val).st = .training then .next (portFalls s p.val cPortDown) else .next s

/-! ## Lanes (R404, R405) -/

def laneFault (cause : BitVec 16) (p lane : Nat) : FaultEv := { plainFault cause 6 p with detail := BitVec.ofNat 32 lane }

/-- LANE_DEGRADE. -/
def execLaneDegrade (p : Fin 40) (lane : Fin 9) (s : State) : Oc :=
  let x := port s p.val
  let l := lane.val
  if !portUp s p.val || x.degraded.contains l then .next s
  else
    let y := { x with degraded := x.degraded ++ [l] }
    if x.degraded.isEmpty ∧ !x.four then
      if l = 8 then .next (setPort s p.val y)
      else
        let s := setPort s p.val { y with moving := true }
        .next (detect (emit s (.flit p.val x.txSeq x.rxSeq 3 [])) (laneFault cLaneSwap p.val l))
    else if (healthyLanes y).length < 4 then .next (portFalls (setPort s p.val y) p.val cPortDown)
    else if !x.four then
      .next (detect (setPort s p.val { y with st := .training, moving := false, spareUsed := false, txSpare := false, narrow := true })
        (laneFault cWidth4 p.val l))
    else if (lanesUsed x).contains l then .next (setPort s p.val { y with st := .training })
    else .next (setPort s p.val y)

/-- LANE_CONTROL: the two ends have agreed the codeword boundary of a move. Lane 8 carries the lane that this end found degraded, or
else the one of this end's own lanes that the partner did. -/
def execLaneControl (p : Fin 40) (s : State) : Oc :=
  let x := port s p.val
  if !linkLive s p.val then .next s
  else if x.moving then .next (setPort s p.val { x with moving := false, spareUsed := true })
  else if x.st = .up then .next (setPort s p.val { x with txSpare := true })
  else .next s

/-! ## Requests of other devices (R294, R408; 15 R489) -/

/-- The first packet on port `p` in the virtual channel of type `ty`, if it has that type; control packets come before the other
channels (R410). In A4 packets wait for the wake (16 R512). -/
def rxHead (s : State) (p : Nat) (ty : Byte) : Option Packet :=
  if s.pwr.standby then none
  else if vcOf ty ≠ 3 ∧ s.chain.rxq.any (fun q => q.1 == p && vcOf q.2.type == 3) then none
  else
    match s.chain.rxq.find? (fun q => q.1 == p && vcOf q.2.type == vcOf ty) with
    | some q => if q.2.type = ty then some q.2 else none
    | none => none

/-- Take that packet off the queue. -/
def rxPop (s : State) (p : Nat) (ty : Byte) : State :=
  { s with chain := { s.chain with rxq := s.chain.rxq.eraseP (fun q => q.1 == p && vcOf q.2.type == vcOf ty) } }

/-- Handle the packet of type `ty` at port `p`, once it is at the head of its channel. -/
def onPacket (s : State) (p : Nat) (ty : Byte) (k : State → Packet → State) : Oc :=
  match rxHead s p ty with
  | some q => .next (k (rxPop s p ty) q)
  | none => .next s

def reply (s : State) (k : Packet) (ty : Byte) (ext : Word) (payload : List Byte) : State :=
  sendOrDrop s (mkPacket s k.src ty k.tag k.job 0 ext payload)

def replyErr (s : State) (k : Packet) (code : Nat) : State := reply s k pErr (BitVec.ofNat 64 code) []

/-- What a remote arrival at `n` bytes of local address `a` finds: performed, refused with a code, or to be held. -/
inductive Arrival where
  | ok
  | refuse (code : Nat)
  | later
  deriving DecidableEq, Repr

def arrival (s : State) (a n : Nat) : Arrival :=
  if (granules a n).any (fun g => !tableMemory g) then .refuse 1
  else
    match checkLocal s ⟨.ns, none⟩ (BitVec.ofNat 64 a) a n with
    | .trap c _ => .refuse (if c = xWorld then 2 else 1)
    | .wake _ => .later
    | _ => if runBusy s a n then .later else .ok

/-- Perform a request at its target: `kind` and `n` are its access. A request that must wait stays at the head of its channel. -/
def serve (p : Fin 40) (ty : Byte) (kind : Nat) (size : Packet → Nat) (go : State → Packet → Nat → Nat → State) (s : State) :
    Oc :=
  match rxHead s p.val ty with
  | none => .next s
  | some k =>
    let a := k.addr.toNat
    let n := size k
    match arrival s a n with
    | .later => .next (wakeRange s (BitVec.ofNat 64 a) n)
    | .refuse code =>
      let s := rxPop s p.val ty
      .next (replyErr (if code = 2 then logVio s (BitVec.ofNat 64 a) 0 k.src kind n else s) k code)
    | .ok => .next (go (rxPop s p.val ty) k a n)

/-- READ: the payload holds the count of bytes. -/
def execReadPkt (p : Fin 40) (s : State) : Oc :=
  serve p pRead 0 (fun k => leAt k.payload 0 2) (fun s k a n =>
    if (poisonAt s a n).isSome then replyErr s k 3
    else let r := busRead s a n; reply r.2 k pReadResp 0 r.1) s

/-- WRITE under its byte mask. -/
def maskedWrite (s : State) (a : Nat) (mask : Word) (d : List Byte) : State :=
  if (d.take 64).length = ((indexed (d.take 64)).filter (fun b => mask.getLsbD b.1)).length then busWrite s a d
  else (indexed d).foldl (fun s b => if 64 ≤ b.1 || mask.getLsbD b.1 then busWrite s (a + b.1) [b.2] else s) s

/-- WRITE. -/
def execWritePkt (p : Fin 40) (s : State) : Oc :=
  serve p pWrite 1 (fun k => k.payload.length) (fun s k a _ => reply (maskedWrite s a k.ext k.payload) k pAck 0 []) s

/-- Operation and size of an ATOMIC, by its opcode (02 Table 2-5). -/
def atomicOf (ext : Word) : Option (AmoKind × Nat) :=
  match wbits ext 0 8 with
  | 0x90 => some (.add, 4)
  | 0x91 => some (.add, 8)
  | 0x92 => some (.swap, 4)
  | 0x93 => some (.swap, 8)
  | 0x94 => some (.cas, 4)
  | 0x95 => some (.cas, 8)
  | _ => none

def atomicSize (k : Packet) : Nat := ((atomicOf k.ext).map (·.2)).getD 8

/-- ATOMIC at the home of its address; the old value answers it. -/
def execAtomicPkt (p : Fin 40) (s : State) : Oc :=
  serve p pAtomic 3 atomicSize (fun s k a n =>
    match atomicOf k.ext with
    -- the spec names no code for an operation that is not one of Table 2-5
    | none => replyErr (detect s (plainFault cProtocol 6 p.val)) k 1
    | some (op, _) =>
      if (poisonAt s a n).isSome then replyErr s k 3
      else
        let r := busRead s a n
        let old := leNat r.1
        let new := amoNew op n old (leAt k.payload 0 n) (leAt k.payload n n)
        reply (busWrite r.2 a (leBytes n new)) k pReadResp 0 (leBytes n old)) s

/-! ## Responses (R408) -/

/-- A response ends the request with its tag; requests that it held back are sent. -/
def respond (s : State) (k : Packet) (r : Answer) : State :=
  match s.chain.outst.find? (fun o => o.tag == k.tag) with
  | some o =>
    let s := answered s o r
    let s := match o.origin with
      | .mover q n => moveOn s q n.toNat
      | _ => s
    flushHeld s o.dst
  | none => s

/-- READ_RESP. -/
def execReadResp (p : Fin 40) (s : State) : Oc := onPacket s p.val pReadResp (fun s k => respond s k (.data k.payload))

/-- ACK. -/
def execAckPkt (p : Fin 40) (s : State) : Oc := onPacket s p.val pAck (fun s k => respond s k (.ack k.ext))

/-- ERROR_RESP: of a request, or of a report or port table that did not reach the head. -/
def execErrorResp (p : Fin 40) (s : State) : Oc :=
  onPacket s p.val pErr (fun s k =>
    if wbits k.ext 8 8 = 0 then respond s k (.err (wbits k.ext 0 8))
    else if wbits k.ext 8 8 = pProbe.toNat ∨ wbits k.ext 8 8 = pTopo.toNat then { s with chain := { s.chain with headLost := true } }
    else s)

end Sys2Proof.Machine
end

