-- ==== Sys2Proof/Machine/Ferrule.lean ====
section
/-!
DEFINITION. The ferrule engines (12): jobs, bindings, partial sums and their deadlines, the owner's division and update rules,
the gather, mirrors, and the ends of shard-steps.
-/

namespace Sys2Proof.Machine

/-! ## Packet types and fields (Tables 12-2, 12-3) -/

def pRedBf16 : Byte := 0x10
def pRedBfp16 : Byte := 0x11
def pGather : Byte := 0x12
def pMirror : Byte := 0x13
def pMirrorAck : Byte := 0x14
def pNojob : Byte := 0x15
def pRestart : Byte := 0x16
def pStepAbort : Byte := 0x17

def Packet.count (k : Packet) : Nat := nbits k.addr.toNat 32 16
def Packet.idx (k : Packet) : Nat := nbits k.addr.toNat 16 16
def Packet.shard (k : Packet) : Nat := nbits k.addr.toNat 0 16

def redAddr (count idx shard : Nat) : BitVec 48 := BitVec.ofNat 48 (count * 2 ^ 32 + idx * 2 ^ 16 + shard)

/-! ## Jobs, records, works -/

def job? (s : State) (j : Nat) : Option Job := mget? s.fer.jobs j
def rkey (j sh : Nat) : Nat := j * 65536 + sh
def rec? (s : State) (j sh : Nat) : Option ShardRec := mget? s.fer.recs (rkey j sh)
def setRec (s : State) (j sh : Nat) (r : ShardRec) : State := { s with fer := { s.fer with recs := mset s.fer.recs (rkey j sh) r } }

def Work.same (j sh : Nat) (tag : BitVec 16) (w : Work) : Bool := w.job == j && w.shard == sh && w.tag == tag

/-- What this device holds of a shard-step; one that ended by STEP_ABORT may begin anew. -/
def work (s : State) (j sh : Nat) (tag : BitVec 16) : Work :=
  match s.fer.works.find? (Work.same j sh tag) with
  | some w => if w.ended then { job := j, shard := sh, tag := tag } else w
  | none => { job := j, shard := sh, tag := tag }

def putWork (s : State) (w : Work) : State :=
  let l := s.fer.works
  let l := if l.any (Work.same w.job w.shard w.tag) then l.map (fun x => if x.same w.job w.shard w.tag then w else x) else l ++ [w]
  { s with fer := { s.fer with works := l } }

def Work.reread (w : Work) (s : State) : Work := work s w.job w.shard w.tag

/-- The binding of a shard-step while it is in progress. -/
def Work.live (w : Work) : Option Binding := if w.done || w.ended then none else w.bind

def frlFlag (s : State) (bit : Nat) : State := ctlOr s rFrlStat ((1 : Word) <<< bit)

/-- Saturating counts of FRL_LATE. -/
def lateContrib (s : State) (n : Nat) : State :=
  let v := ctlGet s rFrlLate
  ctlSet s rFrlLate (wput v 32 32 (BitVec.ofNat 64 (min 0xFFFFFFFF (wbits v 32 32 + n))))

def latePartial (s : State) : State :=
  let v := ctlGet s rFrlLate
  ctlSet s rFrlLate (wput v 0 32 (BitVec.ofNat 64 (min 0xFFFFFFFF (wbits v 0 32 + 1))))

def ferFault (s : State) (cause : BitVec 16) (j : Nat) : State := detect s (plainFault cause 8 (j % 2))

/-! ## The job ring (R426, R428) -/

/-- Members in chain order (11 R412). -/
def chainOrder (l : List (BitVec 16 × Word)) : List (BitVec 16) :=
  (l.foldl (fun (m : SMap Unit) p => mset m p.1.toNat ()) []).map (fun p => BitVec.ofNat 16 p.1)

/-- A device is on ring r when one of the ring's two ports is up (11 R398), as the topology record has it. -/
def onRing (r : Membership) (a : BitVec 16) (ring : Nat) : Bool :=
  r.topo.any (fun e => e.1 == a && (e.2.1 == ring || e.2.1 == ring + 20))

def ringOf (s : State) (ring : Nat) : List (BitVec 16) :=
  match s.chain.rec_ with
  | some r => (chainOrder r.members).filter (fun a => onRing r a ring)
  | none => []

def memberIn (r : Option Membership) (a : BitVec 16) : Bool :=
  match r with
  | some r => r.members.any (fun m => m.1 == a)
  | none => false

/-- The first member in job-ring order from position `p` on. -/
def memberFrom (r : Option Membership) (J : Job) (p : Nat) : Option (BitVec 16) :=
  ((List.range J.ring.length).map (fun k => J.ring.getD ((p + k) % J.ring.length) 0)).find? (memberIn r)

def ownerIn (r : Option Membership) (J : Job) (sh : Nat) : Option (BitVec 16) := memberFrom r J (sh % max 1 J.ring.length)

def ownerOf (s : State) (J : Job) (sh : Nat) : Option (BitVec 16) := ownerIn s.chain.rec_ J sh

/-- The next downstream address after `a`. -/
def downOf (s : State) (J : Job) (a : BitVec 16) : Option (BitVec 16) :=
  (J.ring.idxOf? a).bind (fun p => memberFrom s.chain.rec_ J (p + 1))

/-- The next downstream address of this device, unless that is this device. -/
def nextHop (s : State) (J : Job) : Option (BitVec 16) := (downOf s J s.chain.addr).filter (· != s.chain.addr)

def isOwner (s : State) (J : Job) (sh : Nat) : Bool := ownerOf s J sh == some s.chain.addr

/-- The hop index of this device (R428). -/
def hopIndex (s : State) (J : Job) (sh : Nat) : Nat :=
  let n := max 1 J.ring.length
  let p := (J.ring.idxOf? s.chain.addr).getD 0
  let q := ((ownerOf s J sh).bind (fun o => J.ring.idxOf? o)).getD 0
  (p + 2 * n - q - 1) % n

/-- The first hop: the first member downstream of the owner. -/
def firstHop (s : State) (J : Job) (sh : Nat) : Bool :=
  ((ownerOf s J sh).bind (downOf s J)) == some s.chain.addr

/-! ## Sending -/

/-- Send a reduction packet of a shard-step and keep it for a NOJOB (R433). -/
def sendRed (s : State) (w : Work) (dst : BitVec 16) (ty : Byte) (addr : BitVec 48) (ext : Word) (payload : List Byte) : State :=
  let k := mkPacket s dst ty w.tag (BitVec.ofNat 12 w.job) addr ext payload
  let x := w.reread s
  sendOrDrop (putWork s { x with sent := x.sent ++ [k] }) k

def sendPlain (s : State) (dst : BitVec 16) (ty : Byte) (j sh : Nat) (tag : BitVec 16) (payload : List Byte) : State :=
  sendOrDrop s (mkPacket s dst ty tag (BitVec.ofNat 12 j) (redAddr 0 0 sh) 0 payload)

/-- NOJOB carries the refused packet's header. -/
def sendNojob (s : State) (k : Packet) : State :=
  sendPlain s k.src pNojob k.job.toNat k.shard k.tag ((packetBytes k).take 32)

/-! ## The ends of bindings and jobs (R429, R446) -/

def jobBusy (s : State) (j : Nat) : Bool := s.fer.works.any (fun w => w.job == j && w.live.isSome)

/-- The commands that wait for job `j` to close end with `status`. -/
def endCloses (s : State) (j : Nat) (status : Byte) : State :=
  { s with host := { s.host with cmds := s.host.cmds.map (fun c =>
      if c.wait = .close j then { c with status := status, wait := .done } else c) } }

/-- A freed job discards its records and the mirrors held for it. -/
def freeJob (s : State) (j : Nat) : State :=
  endCloses { s with fer := {
    jobs := mdel s.fer.jobs j
    recs := s.fer.recs.filter (fun p => p.1 / 65536 != j)
    works := s.fer.works.filter (fun w => w.job != j)
    mirrors := s.fer.mirrors.filter (fun m => m.job != j)
    restores := s.fer.restores.filter (fun m => m.job != j)
    handoffs := s.fer.handoffs.filter (fun h => h.job != j) } } j stOk

def closeIfDone (s : State) (j : Nat) : State :=
  match job? s j with
  | some J => if J.closing && !jobBusy s j then freeJob s j else s
  | none => s

/-- The binding of `w` completes; its command's record is due, where the command still waits for it. -/
def finishBind (s : State) (w : Work) (status : Byte) (result : BitVec 32) (aux : Word) : State :=
  match w.live with
  | none => s
  | some b =>
    let s := putWork s { w with done := true }
    let s := s.modCmd b.q b.n.toNat (fun c =>
      match c.wait with
      | .bind _ _ _ => { c with status := status, result := result, aux := aux, ldrop := wbits aux 32 32 != 0, wait := .done }
      | _ => c)
    closeIfDone s w.job

/-- A shard-step that cannot be completed (R447): its binding ends, the event is logged, STEP_ABORT goes round the job ring. -/
def abortStep (s : State) (w : Work) : State :=
  if w.ended then s
  else
    let active := w.bind.isSome || !w.passed.isEmpty || !w.waits.isEmpty || !w.units.isEmpty
    let s := putWork s { w with ended := true, waits := [], sent := [] }
    let s := { s with fer := { s.fer with handoffs := s.fer.handoffs.filter (fun h => !(h.job == w.job && h.shard == w.shard && h.tag == w.tag)) } }
    let s := if active then ferFault (frlFlag s 7) cStepAbort w.job else s
    let s := match (job? s w.job).bind (nextHop s) with
      | some d => sendPlain s d pStepAbort w.job w.shard w.tag []
      | none => s
    match w.live with
    | none => s
    | some b =>
      closeIfDone (s.modCmd b.q b.n.toNat (fun c =>
        match c.wait with
        | .bind _ _ _ => { c with status := stAborted, wait := .done }
        | _ => c)) w.job

/-- The engine met poison at `a`: STEP_ABORT (14 R465). -/
def ferPoison (s : State) (w : Work) (a : Nat) : State :=
  abortStep (detect s ⟨cPoisonRead, 8, BitVec.ofNat 16 (w.job % 2), BitVec.ofNat 64 a, none, 0, false⟩) w

/-- The first poison in some ranges of local memory. -/
def poisonIn (s : State) (l : List (Nat × Nat)) : Option Nat :=
  l.findSome? (fun p => if p.2 = 0 then none else poisonAt s p.1 p.2)

/-! ## Chunks and units -/

def chunks (E : Nat) : Nat := cdiv E 256
def chunkLen (E k : Nat) : Nat := min 256 (E - 256 * k)
def elemSize (bf : Bool) : Nat := if bf then 2 else 4
def unitElems (bf : Bool) : Nat := if bf then 256 else 128
def unitCount (E : Nat) (bf : Bool) : Nat := cdiv E (unitElems bf)

/-- The units of chunk `k`, in increasing order. -/
def unitsOf (E : Nat) (bf : Bool) (k : Nat) : List Nat :=
  (if bf then [k] else [2 * k, 2 * k + 1]).filter (· < unitCount E bf)

def unitBytes (E : Nat) (bf : Bool) (u : Nat) : Nat := min 512 (elemSize bf * E - 512 * u)

/-- The exponents of `n` blocks from block `b` on, packed as ext carries them. -/
def packExps (m : SMap Nat) (b n : Nat) : Word :=
  (List.range n).foldl (fun w i => w ||| BitVec.ofNat 64 (mget m (b + i) 0) <<< (8 * i)) 0

def extExp (e : Word) (i : Nat) : Nat := wbits e (8 * i) 8

/-- Shard of the step that a packet's tag names: the binding's, or the one next after the latest bound step. -/
def fullStep (s : State) (w : Work) : BitVec 32 :=
  match w.bind, rec? s w.job w.shard with
  | some b, _ => b.step
  | none, some r => r.boundStep + (w.tag - r.boundStep.setWidth 16).setWidth 32
  | none, none => w.tag.setWidth 32

/-- The engine of job `j` cannot act on shard `sh` now: its clock is held (01 R21), or a row of the shard's memory is being copied
(08 R323). -/
def shardBusy (s : State) (j sh : Nat) : Bool :=
  !clockOn s (.ferrule (if j % 2 = 0 then 0 else 1)) ||
    ((!s.mem.rowCopy.isEmpty || !s.plat.heldClocks.isEmpty) &&
      ((match rec? s j sh with
        | some r => runBusy s (localOf r.params) ((if r.bf16 then 2 else 4) * r.elements) || runBusy s (localOf r.state) (8 * r.elements)
        | none => false) ||
       (s.fer.works.filter (fun w => w.job == j && w.shard == sh)).any (fun w =>
         match w.live with
         | some b => runBusy s (localOf b.grad) (2 * b.elements) || runBusy s (localOf b.params) ((if b.bf16 then 2 else 4) * b.elements)
         | none => false)))

/-- A packet for a ferrule engine, once the engine can act on it. -/
def onShard (s : State) (p : Nat) (ty : Byte) (k : State → Packet → State) : Oc :=
  match rxHead s p ty with
  | some q => if shardBusy s q.job.toNat q.shard then .next s else onPacket s p ty k
  | none => .next s

/-! ## Hop arithmetic (R434, R439) -/

/-- Key of the element conversions of a shard-step at this hop. -/
def redKey (s : State) (J : Job) (w : Work) (tag : Nat) : Key :=
  ⟨BitVec.ofNat 64 (w.job * 2 ^ 32 + w.shard), BitVec.ofNat 16 (hopIndex s J w.shard), fullStep s w, tag⟩

/-- The BF16 values of a gradient buffer, elements of chunk `k`. -/
def gradVals (s : State) (b : Binding) (k : Nat) : List FVal :=
  let n := chunkLen b.elements k
  let d := memRead s (localOf b.grad + 512 * k) (2 * n)
  (List.range n).map (fun j => elemVal 1 (leAt d (2 * j) 2))

/-- The value of element `j` of a partial sum. -/
def partialVal (bfp : Bool) (p : Partial) (j : Nat) : FVal :=
  if bfp then bfpVal (BitVec.ofNat 16 (leAt p.payload (2 * j) 2)) (extExp p.ext (j / 32)) else elemVal 1 (leAt p.payload (2 * j) 2)

/-- The largest finite magnitude of some values. -/
def finiteMax (xs : List FVal) : FVal :=
  xs.foldl (fun a x =>
    match x.abs with
    | .fin n m e => if a.lt (.fin n m e) then .fin n m e else a
    | _ => a) (ofInt false 0 0)

/-- The exponent of a block whose largest magnitude is `a`: raised from `E` until it holds `a`. -/
def raiseTo (a : FVal) : Nat → Nat → Nat
  | 0, E => E
  | n + 1, E => if E < 254 ∧ (ofInt false 32767 ((E : Int) - 141)).lt a then raiseTo a n (E + 1) else E

/-- A block of a BFP16 partial after this hop: bytes, exponent, status. -/
def hopBlock (key : Key) (base E : Nat) (xs : List FVal) : List Byte × Nat × CStat :=
  let E' := raiseTo (finiteMax xs) 255 E
  let key := { key with tag := if E < E' then 4 else 5 }
  let cs : List Cvt := (indexed xs).map (fun x => bfpConvert (modeAt 0 (some key) (base + x.1)) E' x.2)
  ((cs.flatMap (fun (c : Cvt) => leBytes 2 c.code) ++ List.replicate 64 0).take 64, E', cs.foldl (fun a c => a ||| c.stat) 0)

/-- A partial sum with this device's contribution: the packet's payload and ext, blocks raised, status. A NaN among the terms
makes the positive NaN, whatever its sign (DESIGN CHOICE, notes/assumptions/64.md). -/
def addHop (key : Key) (bfp : Bool) (k : Nat) (p : Partial) (gs : List FVal) : List Byte × Word × Nat × CStat :=
  let xs := (indexed gs).map (fun g => ((partialVal bfp p g.1).add g.2).1)
  if bfp then
    let bs := (indexed (pieces 32 (cdiv xs.length 32) xs)).map (fun b => hopBlock key (256 * k + 32 * b.1) (extExp p.ext b.1) b.2)
    (bs.flatMap (·.1),
      (indexed bs).foldl (fun w b => w ||| BitVec.ofNat 64 b.2.2.1 <<< (8 * b.1)) 0,
      ((indexed bs).filter (fun b => decide (extExp p.ext b.1 < b.2.2.1))).length,
      bs.foldl (fun a b => a ||| b.2.2) 0)
  else
    let cs : List Cvt := (indexed xs).map (fun x => convert 1 (modeAt 0 (some { key with tag := 5 }) (256 * k + x.1)) x.2)
    (cs.flatMap (fun (c : Cvt) => leBytes 2 c.code), 0, 0, cs.foldl (fun a c => a ||| c.stat) 0)

/-- FRL_STAT.saturated and nan_squashed. -/
def noteCvt (s : State) (st : CStat) : State :=
  let s := if st &&& cSat ≠ 0 then frlFlag s 0 else s
  if st &&& cSquash ≠ 0 then frlFlag s 1 else s

/-- The partial sum with which a hop starts chunk `k`: zeros, and the agreed exponents. -/
def zeroPartial (s : State) (w : Work) (k : Nat) : Partial :=
  let expo := ((rec? s w.job w.shard).map (fun r => r.expo)).getD []
  { chunk := k, payload := [], ext := packExps expo (8 * k) 8, count := 0, arrived := s.plat.devTime }

/-! ## Update rules (R440 to R443) -/

def f32Sub (a b : F32) : F32 := fadd32 a (fneg32 b)
def f32Nat (n : Nat) : F32 := toF32 .rne (ofInt false n 0)
def one32 : F32 := 0x3F800000

/-- S_j of R440. -/
def ownerSum (bfp : Bool) (p : Partial) (g : Option (List FVal)) (j : Nat) : F32 :=
  let v := partialVal bfp p j
  match g with
  | some gs => toF32 .rne (v.add (gs.getD j (ofInt false 0 0))).1
  | none => toF32 .rne v

/-- The agreed exponent for the next step of a block (R440). -/
def nextExp (xs : List F32) (arrived agreed : Nat) : Nat :=
  let a := xs.foldl (fun m x => if nonFinite x then m else max m (fabs32 x).toNat) 0
  let e := if a = 0 then 0 else (clampI 0 254 (ceilLog2 a + 127)).toNat
  if agreed < arrived then max e arrived else e

def agree (r : ShardRec) (k : Nat) (p : Partial) (xs : List F32) : ShardRec :=
  { r with expo := (indexed (pieces 32 (cdiv xs.length 32) xs)).foldl (fun m b =>
      mset m (8 * k + b.1) (nextExp b.2 (extExp p.ext b.1) (mget m (8 * k + b.1) 0))) r.expo }

/-- θ of element `i`. -/
def readTheta (s : State) (r : ShardRec) (i : Nat) : F32 :=
  if r.bf16 then elemF32 1 (memNat s (localOf r.params + 2 * i) 2) else BitVec.ofNat 32 (memNat s (localOf r.params + 4 * i) 4)

def readState (s : State) (r : ShardRec) (plane i : Nat) : F32 :=
  BitVec.ofNat 32 (memNat s (localOf r.state + 4 * (plane * r.elements + i)) 4)

/-- Rule 0: v and θ. -/
def sgd (J : Job) (g th v : F32) : List F32 × F32 :=
  let g' := fadd32 g (fmul32 J.wd th)
  let v := fadd32 (fmul32 J.p1 v) g'
  ([v], f32Sub th (fmul32 J.lr v))

/-- Rule 1: m, v and θ. -/
def adaptive (J : Job) (pi1 pi2 g th m v : F32) : List F32 × F32 :=
  let m := fadd32 (fmul32 J.p1 m) (fmul32 (f32Sub one32 J.p1) g)
  let v := fadd32 (fmul32 J.p2 v) (fmul32 (f32Sub one32 J.p2) (fmul32 g g))
  let m' := fdiv32 m (f32Sub one32 pi1)
  let v' := fdiv32 v (f32Sub one32 pi2)
  let th := f32Sub th (fmul32 (fmul32 J.lr J.wd) th)
  ([m, v], f32Sub th (fmul32 J.lr (fdiv32 m' (fadd32 (fsqrt32 v') J.eps))))

/-- Update element `i` of a shard: the state after its writes, and whether a non-finite value was written. -/
def updateElem (J : Job) (r : ShardRec) (key : Key) (s : State × Bool) (i : Nat) (g : F32) : State × Bool :=
  let th := readTheta s.1 r i
  let u := if J.rule = 0 then sgd J g th (readState s.1 r 0 i)
    else adaptive J r.pi1 r.pi2 g th (readState s.1 r 0 i) (readState s.1 r 1 i)
  let s1 := (indexed u.1).foldl (fun s x =>
    busWrite s (localOf r.state + 4 * (x.1 * r.elements + i)) (leBytes 4 x.2.toNat)) s.1
  let c := convert 1 (modeAt 0 (some key) i) (f32v u.2)
  let s2 := if r.bf16 then noteCvt (busWrite s1 (localOf r.params + 2 * i) (leBytes 2 c.code)) c.stat
    else busWrite s1 (localOf r.params + 4 * i) (leBytes 4 u.2.toNat)
  (s2, s.2 || u.1.any nonFinite || nonFinite u.2 || (r.bf16 && nonFinite (elemF32 1 c.code)))

/-- The record of a shard-step's owner, its update count advanced once (R442). -/
def advanceCount (J : Job) (w : Work) (r : ShardRec) : ShardRec :=
  if J.rule = 1 ∧ !w.advanced then { r with t := r.t + 1, pi1 := fmul32 r.pi1 J.p1, pi2 := fmul32 r.pi2 J.p2 } else r

def updateChunk (s : State) (J : Job) (w : Work) (k : Nat) (gs : List F32) : State :=
  match rec? s w.job w.shard with
  | none => s
  | some r =>
    let r := advanceCount J w r
    let s := setRec s w.job w.shard r
    let u := (indexed gs).foldl (fun a g => updateElem J r (redKey s J w 6) a (256 * k + g.1) g.2) (s, false)
    let s := if u.2 then ferFault (frlFlag u.1 3) cNonfinite w.job else u.1
    let w := w.reread s
    putWork s { w with advanced := true, updated := w.updated ++ [k] }

/-! ## Gather and completion (R445, R446) -/

def minList (l : List Nat) : Nat := match l with
  | [] => 0
  | a :: r => r.foldl min a

/-- When every unit stands: the record's completed step, and the completion of the binding. -/
def checkDone (s : State) (w : Work) : State :=
  match rec? s w.job w.shard, job? s w.job with
  | some r, some J =>
    let E := (w.bind.map (·.elements)).getD r.elements
    let bf := (w.bind.map (·.bf16)).getD r.bf16
    if (w.units.filter (fun u => u.1 < unitCount E bf)).length < unitCount E bf ∨ w.ended then s
    else
      let m := minList (w.units.map (·.2))
      let n := fullStep s w
      let later := match r.doneStep with
        | some d => decide (n < d)
        | none => false
      let s := if later then s else setRec s w.job w.shard { r with doneStep := some n, minCount := m }
      let aux := BitVec.ofNat 64 (w.missing.length * 2 ^ 32 + w.raises)
      finishBind s w (if m < J.nominal then stPartial else stOk) (BitVec.ofNat 32 (m % 65536)) aux
  | _, _ => s

/-- The owner's units of chunk `k` go downstream. -/
def gatherChunk (s : State) (J : Job) (w : Work) (k : Nat) : State :=
  match rec? s w.job w.shard with
  | none => s
  | some r =>
    let c := mget w.counts k 0
    let s := (unitsOf r.elements r.bf16 k).foldl (fun s u =>
      let x := w.reread s
      let s := putWork s { x with units := mset x.units u c }
      match nextHop s J with
      | some d =>
        let per := unitElems r.bf16 / 32
        let ext := if J.bfp then packExps r.expo (per * u) per else 0
        let d_ := busRead s (localOf r.params + 512 * u) (unitBytes r.elements r.bf16 u)
        sendRed d_.2 w d pGather (redAddr c u w.shard) ext d_.1
      | none => s) s
    checkDone s (w.reread s)

def gatherAll (s : State) (J : Job) (w : Work) : State :=
  match rec? s w.job w.shard with
  | none => s
  | some r => (List.range (chunks r.elements)).foldl (fun s k => gatherChunk s J (w.reread s) k) s

/-! ## Mirrors (R449, R450) -/

/-- The planes of a shard: number, address, bytes. -/
def planesOf (J : Job) (r : ShardRec) : List (Nat × Word × Nat) :=
  [(0, r.params, elemSize r.bf16 * r.elements), (1, r.state, 4 * r.elements)] ++
    (if J.rule = 0 then [] else [(2, r.state + BitVec.ofNat 64 (4 * r.elements), 4 * r.elements)])

/-- The shard record as plane 3 carries it. Its layout is the model's own (notes/assumptions/33.md). -/
def recordBlock (J : Job) (r : ShardRec) : List Byte :=
  (leBytes 2 J.deadline ++ leBytes 1 J.rule ++ leBytes 1 J.ringNo ++ leBytes 2 J.nominal ++ leBytes 1 (if J.bfp then 1 else 0) ++
    leBytes 1 0 ++ leBytes 4 J.lr.toNat ++ leBytes 4 J.p1.toNat ++ leBytes 4 J.p2.toNat ++ leBytes 4 J.eps.toNat ++
    leBytes 4 J.wd.toNat ++ leBytes 8 J.task.toNat ++ leBytes 4 r.elements ++ leBytes 4 (if r.bf16 then 1 else 0) ++
    leBytes 8 r.params.toNat ++ leBytes 8 r.state.toNat ++ leBytes 4 r.boundStep.toNat ++
    leBytes 4 (r.doneStep.getD 0).toNat ++ leBytes 4 (if r.doneStep.isSome then 1 else 0) ++ leBytes 4 r.minCount ++
    leBytes 4 r.t ++ leBytes 4 r.pi1.toNat ++ leBytes 4 r.pi2.toNat ++ List.replicate 256 0).take 256

def blockJob (s : State) (d : List Byte) : Job :=
  let f (o : Nat) : F32 := BitVec.ofNat 32 (leAt d o 4)
  { world := .ns, deadline := leAt d 0 2, rule := leAt d 2 1, ringNo := leAt d 3 1, ring := ringOf s (leAt d 3 1)
    nominal := leAt d 4 2, lr := f 8, p1 := f 12, p2 := f 16, eps := f 20, wd := f 24, task := BitVec.ofNat 64 (leAt d 28 8)
    bfp := leAt d 6 1 == 1, restored := true }

def blockRec (d : List Byte) : ShardRec :=
  { elements := leAt d 36 4, bf16 := leAt d 40 4 == 1, params := BitVec.ofNat 64 (leAt d 44 8)
    state := BitVec.ofNat 64 (leAt d 52 8), boundStep := BitVec.ofNat 32 (leAt d 60 4)
    doneStep := if leAt d 68 4 = 1 then some (BitVec.ofNat 32 (leAt d 64 4)) else none, minCount := leAt d 72 4
    t := leAt d 76 4, pi1 := BitVec.ofNat 32 (leAt d 80 4), pi2 := BitVec.ofNat 32 (leAt d 84 4) }

def mirrorAddr (plane idx sh : Nat) (restore : Bool) : BitVec 48 :=
  redAddr (plane + (if restore then 4 else 0)) idx sh

/-- Send the units of planes to `dst`. -/
def sendPlanes (s : State) (w : Work) (dst : BitVec 16) (restore : Bool) (ps : List (Nat × Nat × Nat)) : State :=
  ps.foldl (fun s p =>
    (List.range (cdiv p.2.2 512)).foldl (fun s u =>
      sendRed s w dst pMirror (mirrorAddr p.1 u w.shard restore) 0 (memRead s (p.2.1 + 512 * u) (min 512 (p.2.2 - 512 * u)))) s) s

/-- The owner sends the mirror of an updated shard-step to the mirror holder; without a holder it gathers. -/
def startMirror (s : State) (J : Job) (w : Work) : State :=
  match nextHop s J, rec? s w.job w.shard with
  | some d, some r =>
    let s := putWork s { w with mirrorWait := true }
    let s := sendPlanes s w d false ((planesOf J r).map (fun p => (p.1, localOf p.2.1, p.2.2)))
    let r := { r with doneStep := some (fullStep s w), minCount := minList (w.counts.map (·.2)) }
    sendRed s w d pMirror (mirrorAddr 3 0 w.shard false) 0 (recordBlock J r)
  | _, _ => gatherAll s J w

/-- No mirror could be made: the owner gathers without it. -/
def mirrorFails (s : State) (J : Job) (w : Work) : State :=
  let s := ferFault (frlFlag s 6) cMirrorFail w.job
  gatherAll (putWork s { w with mirrorWait := false }) J { w with mirrorWait := false }

/-- Every chunk of the shard-step is updated. -/
def updateEnds (s : State) (J : Job) (w : Work) : State := if w.mirror then startMirror s J w else gatherAll s J w

/-! ## Update tasks (R444) -/

/-- Put a reduced shard-step into the queue for its update task. -/
def queueHandoff (s : State) (J : Job) (w : Work) : State :=
  { s with fer := { s.fer with handoffs := s.fer.handoffs ++ [⟨w.job, w.shard, w.tag, J.task, false, none⟩] } }

def modHandoff (s : State) (h : Handoff) (f : Handoff → Handoff) : State :=
  { s with fer := { s.fer with handoffs := s.fer.handoffs.map (fun x =>
      if x.job = h.job ∧ x.shard = h.shard ∧ x.tag = h.tag then f x else x) } }

/-- The hand-off block (Table 12-5). -/
def handoffBlock (s : State) (w : Work) (r : ShardRec) : List Byte :=
  leBytes 4 w.shard ++ leBytes 4 (fullStep s w).toNat ++ leBytes 4 r.elements ++ leBytes 2 (minList (w.counts.map (·.2))) ++
    leBytes 1 ((if r.bf16 then 1 else 0) + (if w.missing.isEmpty then 0 else 2)) ++ [0] ++ leBytes 8 r.params.toNat ++
    leBytes 8 r.state.toNat ++ leBytes 8 (r.state + BitVec.ofNat 64 (4 * r.elements)).toNat ++ leBytes 2 w.job ++
    List.replicate 22 0

/-- Write ĝ and the old θ of a shard for its update task. -/
def writeHandoff (s : State) (w : Work) (r : ShardRec) : State :=
  w.ghat.foldl (fun s c =>
    (indexed c.2).foldl (fun s g =>
      let i := 256 * c.1 + g.1
      let th := readTheta s r i
      busWrite (busWrite s (localOf r.state + 4 * i) (leBytes 4 g.2.toNat)) (localOf r.state + 4 * (r.elements + i))
        (leBytes 4 th.toNat)) s) s

/-- Hand a shard to its update task; a token that finds the descriptor not WAITING, or cannot be watched, ends the step. -/
def beginHandoff (s : State) (h : Handoff) : State :=
  let w := work s h.job h.shard h.tag
  match rec? s h.job h.shard with
  | none => modHandoff s h (fun x => { x with started := true, ended := some false })
  | some r =>
    match poisonIn s [(localOf r.params, elemSize r.bf16 * r.elements)] with
    | some a => ferPoison s w a
    | none =>
      let s := putWork s { w with mirror := (ctlGet s rMirror).getLsbD 0 }
      let s := writeHandoff s w r
      let s := extWrite s false false (BitVec.ofNat 64 (dGet s (localOf h.desc) dArg0 8)) (handoffBlock s w r)
      let s := modHandoff s h (fun x => { x with started := true })
      let lost (s : State) : State := modHandoff s h (fun x => { x with ended := some false })
      match sendToken s ⟨.ns, none⟩ false h.desc (fun _ => .engine) with
      | .applied found s => if found = 1 then s else lost s
      | .remote _ s => lost s
      | .refused _ s => lost s

/-- The end of a hand-off: the parameters as they stand are gathered, or the shard-step ends. -/
def endHandoff (s : State) (h : Handoff) (normal : Bool) : State :=
  let s := { s with fer := { s.fer with handoffs := s.fer.handoffs.filter (fun x => !(x.job == h.job && x.shard == h.shard && x.tag == h.tag)) } }
  let w := work s h.job h.shard h.tag
  match normal, job? s h.job, rec? s h.job h.shard with
  | true, some J, some r =>
    let w := { w with updated := List.range (chunks r.elements) }
    updateEnds (putWork s w) J w
  | _, _, _ => abortStep s w

/-- One step of the hand-offs: an ended one is settled, or a job's next one begins. -/
def settleOne (s : State) : Option State :=
  match s.fer.handoffs.find? (fun h => h.ended.isSome) with
  | some h => some (endHandoff s h (h.ended == some true))
  | none =>
    match s.fer.handoffs.find? (fun h => !h.started && !s.fer.handoffs.any (fun x => x.job == h.job && x.started)) with
    | some h => some (beginHandoff s h)
    | none => none

def settleN : Nat → State → State
  | 0, s => s
  | n + 1, s =>
    match settleOne s with
    | some s' => settleN n s'
    | none => s

/-- Settle the hand-offs after anything that may have ended a task. -/
def settle (s : State) : State := settleN (2 * s.fer.handoffs.length + 2) s

/-! ## One chunk at this device -/

/-- The owner's part of a chunk (R440 to R444). -/
def ownChunk (s : State) (J : Job) (w : Work) (p : Partial) (b : Option Binding) : State :=
  let k := p.chunk
  match rec? s w.job w.shard with
  | none => abortStep s w
  | some r =>
    if w.updated.contains k then (if w.mirrorWait then s else gatherChunk s J w k)
    else
      let n := chunkLen r.elements k
      let ranges := if J.rule = 2 then []
        else (planesOf J r).map (fun q => if q.1 = 0 then (localOf q.2.1 + elemSize r.bf16 * 256 * k, elemSize r.bf16 * n)
          else (localOf q.2.1 + 1024 * k, 4 * n))
      match poisonIn s ranges with
      | some a => ferPoison s w a
      | none =>
        let gs := b.map (fun b => gradVals s b k)
        let sums := (List.range n).map (ownerSum J.bfp p gs)
        let c := p.count + (if b.isSome then 1 else 0)
        let ghat := sums.map (fun x => fdiv32 x (f32Nat c))
        let s := if J.bfp then setRec s w.job w.shard (agree r k p sums) else s
        let mirror := if w.counts.isEmpty then (ctlGet s rMirror).getLsbD 0 else w.mirror
        let w := { w with counts := mset w.counts k c, mirror := mirror }
        if J.rule = 2 then
          let w := { w with ghat := mset w.ghat k ghat }
          let s := putWork s w
          if w.ghat.length = chunks r.elements then settle (queueHandoff s J w) else s
        else
          let s := updateChunk (putWork s w) J w k ghat
          let w := w.reread s
          if !w.mirror then gatherChunk s J w k
          else if w.updated.length = chunks r.elements then startMirror s J w else s

/-- Chunk `p.chunk` passes this device, with its contribution `b` or without (R434, R435). -/
def runChunk (s : State) (J : Job) (w : Work) (p : Partial) (b : Option Binding) : State :=
  let k := p.chunk
  let bad := match b with
    | some b => poisonIn s [(localOf b.grad + 512 * k, 2 * chunkLen b.elements k)]
    | none => none
  match bad with
  | some a => ferPoison s w a
  | none =>
    let s := match b with
      | some b => (busRead s (localOf b.grad + 512 * k) (2 * chunkLen b.elements k)).2
      | none => s
    let w := { w with
      passed := w.passed ++ [k]
      missing := if b.isSome then w.missing else w.missing ++ [k]
      waits := w.waits.filter (fun q => q.chunk != k) }
    let s := putWork s w
    if isOwner s J w.shard then ownChunk s J w p b
    else
      match b, nextHop s J with
      | some b, some d =>
        let r := addHop (redKey s J w 5) J.bfp k p (gradVals s b k)
        let s := noteCvt (putWork s { w with raises := w.raises + r.2.2.1 }) r.2.2.2
        sendRed s w d (if J.bfp then pRedBfp16 else pRedBf16) (redAddr (p.count + 1) k w.shard) r.2.1 r.1
      | none, some d => sendRed s w d (if J.bfp then pRedBfp16 else pRedBf16) (redAddr p.count k w.shard) p.ext p.payload
      | _, none => s

/-- This device's contribution to chunk `k`, when present (R432, R438). -/
def contribution (w : Work) (k : Nat) : Option Binding := w.live.filter (fun b => decide (k < chunks b.elements))

def usOf (n : Nat) : Nat := 1000 * n

/-- The deadline of a waiting partial has been reached (R435). -/
def expired (s : State) (J : Job) (p : Partial) : Bool := decide (p.arrived.toNat + usOf J.deadline ≤ s.plat.devTime.toNat)

/-- Partial sums that wait, in increasing chunk order. -/
def waitsInOrder (w : Work) : List Partial :=
  (w.waits.foldl (fun (m : SMap Partial) p => mset m p.chunk p) []).map (·.2)

/-- Waiting partial sums whose deadline has been reached pass on without a contribution. -/
def passExpired (s : State) (J : Job) (w : Work) : State :=
  ((waitsInOrder w).filter (expired s J)).foldl (fun s p =>
    let x := w.reread s
    if x.waits.any (fun q => q.chunk == p.chunk) then runChunk s J x p none else s) s

/-- A contribution is present: it joins the partial sums that wait, and a first hop forms every chunk. -/
def startWork (s : State) (J : Job) (w : Work) : State :=
  let s := (waitsInOrder w).foldl (fun s p =>
    match contribution (w.reread s) p.chunk with
    | some b => runChunk s J (w.reread s) p (some b)
    | none => s) s
  match w.live with
  | some b =>
    if firstHop s J w.shard then
      (List.range (chunks b.elements)).foldl (fun s k =>
        let x := w.reread s
        if x.passed.contains k || x.live.isNone then s else runChunk s J x (zeroPartial s x k) (some b)) s
    else s
  | none => s

/-! ## REDUCE_JOB_OPEN, REDUCE_JOB_CLOSE (R425 to R429) -/

def geZero (x : F32) : Bool := !nonFinite x && !(f32v x).lt (ofInt false 0 0)
def inUnit (x : F32) : Bool := geZero x && (f32v x).lt (ofInt false 1 0)
def gtZero (x : F32) : Bool := !nonFinite x && (ofInt false 0 0 : FVal).lt (f32v x)

/-- Table 12-1. -/
def jobParams (rule : Nat) (task : Word) (lr p1 p2 eps wd : F32) : Bool :=
  match rule with
  | 0 => task == 0 && geZero lr && geZero wd && inUnit p1 && p2 == 0 && eps == 0
  | 1 => task == 0 && geZero lr && geZero wd && inUnit p1 && inUnit p2 && gtZero eps
  | 2 => task != 0 && task.toNat % 128 == 0 && lr == 0 && p1 == 0 && p2 == 0 && eps == 0 && wd == 0
  | _ => false

def engineWorld (s : State) (j : Nat) : World := mget s.sec.ferruleWorld (j % 2) .ns

/-- REDUCE_JOB_OPEN. -/
def execReduceJobOpen (q n : Nat) (s : State) : Oc :=
  runCmd s 0x40 q n fun c w =>
    let j := c.u 0x0C 2
    let f (o : Nat) : F32 := BitVec.ofNat 32 (c.u o 4)
    let ringNo := c.u 0x12 2
    let J : Job :=
      { world := w, deadline := c.u 0x0E 2, rule := c.u 0x10 1, ringNo := ringNo, ring := ringOf s ringNo, nominal := c.u 0x30 2
        lr := f 0x14, p1 := f 0x18, p2 := f 0x1C, eps := f 0x20, wd := f 0x24, task := c.addr 0x28
        bfp := (ctlGet s rGradClass).getLsbD 0 }
    checked s c w
      { param := decide (19 < ringNo) || s.chain.st != .member || !J.ring.contains s.chain.addr || J.nominal != J.ring.length ||
          J.deadline == 0 || !jobParams J.rule J.task J.lr J.p1 J.p2 J.eps J.wd
        world := w == .s || engineWorld s j != w
        busy := (job? s j).isSome || (mget? s.sec.pend (72 + j % 2)).isSome
        resource := decide (256 ≤ engineJobs s (j % 2)) }
      (endWith { s with fer := { s.fer with jobs := mset s.fer.jobs j J } } c stOk)

/-- Every binding of a job ends with ST_ABORTED. -/
def abortBinds (s : State) (j : Nat) : State :=
  (s.fer.works.filter (fun w => w.job == j)).foldl (fun s w => finishBind s w stAborted 0 0) s

/-- REDUCE_JOB_CLOSE. -/
def execReduceJobClose (q n : Nat) (s : State) : Oc :=
  runCmd s 0x41 q n fun c w =>
    let j := c.u 0x0C 2
    match job? s j with
    | none => endWith s c stBadParam
    | some J =>
      checked s c w { world := engineWorld s j != w }
        (let s := s.modCmd c.q c.n.toNat (fun c => { c with wait := .close j })
         let s := { s with fer := { s.fer with jobs := mset s.fer.jobs j { J with closing := true } } }
         closeIfDone (if c.bit 0x0E 0 then abortBinds s j else s) j)

/-! ## PARAM_BIND (R430 to R432, R445) -/

def areaLimit : Nat := 512 * mib

/-- Bytes of an engine's state area in use, but for one shard's. -/
def areaUsed (s : State) (j sh : Nat) : Nat :=
  s.fer.recs.foldl (fun n p =>
    if p.1 / 65536 % 2 = j % 2 ∧ p.1 ≠ rkey j sh then n + 256 + cdiv p.2.elements 32 else n) 0

/-- Every unit of the step has been written here without a binding. -/
def gatheredUnbound (s : State) (j sh : Nat) (step : BitVec 32) : Bool :=
  match s.fer.works.find? (Work.same j sh (step.setWidth 16)), rec? s j sh with
  | some w, some r => w.bind.isNone && !w.ended && decide (unitCount r.elements r.bf16 ≤ w.units.length)
  | _, _ => false

/-- The ranges of a binding (R430). -/
def bindRanges (rule : Nat) (E : Nat) (bf : Bool) (pa ga sa : Word) : List KRange :=
  [⟨pa, elemSize bf * E, false⟩, ⟨ga, 2 * E, false⟩] ++ (if sa = 0 then [] else [⟨sa, (if rule = 0 then 4 else 8) * E, false⟩])

def rangesTouch (s : State) (a b : List KRange) : Bool := a.any (fun x => b.any (fun y => rangesMeet s x.addr y.addr x.n y.n))

/-- The step is refused: not above the completed step, or below one in progress. -/
def stepRefused (s : State) (j sh : Nat) (step : BitVec 32) : Bool :=
  (match (rec? s j sh).bind (·.doneStep) with
    | some d => decide (step.toNat ≤ d.toNat) && !(step == d && gatheredUnbound s j sh step)
    | none => false) ||
  s.fer.works.any (fun w => w.job == j && w.shard == sh && (match w.live with
    | some b => decide (step.toNat < b.step.toNat)
    | none => false))

/-- A chunk of which a unit has been gathered has passed. -/
def passGathered (w : Work) (E : Nat) (bf : Bool) : Work :=
  let ks := (List.range (chunks E)).filter (fun k =>
    !w.passed.contains k && (unitsOf E bf k).any (fun u => (mget? w.units u).isSome))
  { w with passed := w.passed ++ ks, missing := w.missing ++ ks }

/-- Units that stand at the recorded address are copied to the binding's. -/
def copyUnits (s : State) (w : Work) (old new : Word) (E : Nat) (bf : Bool) : State :=
  if old = new then s
  else w.units.foldl (fun s u =>
    busWrite s (localOf new + 512 * u.1) (memRead s (localOf old + 512 * u.1) (unitBytes E bf u.1))) s

/-- Shard-steps 2^15 steps or more before `step` are forgotten: the step bits of a packet cannot tell them from later ones. -/
def forget (s : State) (j sh : Nat) (step : BitVec 32) : State :=
  let old (w : Work) : Bool := w.job == j && w.shard == sh && w.live.isNone &&
    (match w.bind with
    | some b => decide (b.step.toNat + 0x8000 ≤ step.toNat)
    | none => false)
  { s with fer := { s.fer with works := s.fer.works.filter (fun w => !old w) } }

/-- The effect of a PARAM_BIND that has passed its checks. -/
def bindNow (s : State) (J : Job) (j sh : Nat) (b : Binding) : State :=
  let s := forget s j sh b.step
  let s := passExpired s J (work s j sh (b.step.setWidth 16))
  let old := rec? s j sh
  let r : ShardRec := match old with
    | none => { elements := b.elements, bf16 := b.bf16, params := b.params, state := b.state, boundStep := b.step
                pi1 := one32, pi2 := one32 }
    | some r => { r with elements := b.elements, bf16 := b.bf16, params := b.params, state := b.state, boundStep := b.step
                         expo := r.expo.filter (fun p => decide (p.1 < cdiv b.elements 32)) }
  let w := work s j sh (b.step.setWidth 16)
  let w : Work := if w.bind.isSome then { job := j, shard := sh, tag := b.step.setWidth 16 } else w
  let s := copyUnits s w ((old.map (·.params)).getD b.params) b.params b.elements b.bf16
  let w := { passGathered w b.elements b.bf16 with bind := some b }
  let s := lateContrib (setRec s j sh r) ((w.passed.filter (fun k => decide (k < chunks b.elements))).length)
  let s := putWork s w
  if w.noRecord then finishBind s w stAborted 0 0
  else
    let s := startWork s J w
    checkDone s (w.reread s)

/-- PARAM_BIND. -/
def execParamBind (q n : Nat) (s : State) : Oc :=
  runCmd s 0x31 q n fun c w =>
    let j := c.u 0x0C 2
    let sh := c.u 0x30 4
    let E := c.u 0x14 4
    let fmt := c.u 0x0E 1
    let bf := fmt == 1
    let step := BitVec.ofNat 32 (c.u 0x10 4)
    let pa := c.addr 0x18
    let ga := c.addr 0x20
    let sa := c.addr 0x28
    let b : Binding := ⟨step, E, bf, pa, ga, sa, c.q, c.n, s.plat.devTime⟩
    match job? s j with
    | none => endWith s c stBadParam
    | some J =>
      let rg := bindRanges J.rule E bf pa ga sa
      let busy := s.fer.works.any (fun x => x.job == j && x.shard == sh && (x.live.map (·.step)) == some step)
      let tied := s.fer.works.any (fun x => x.job == j && x.shard != sh && !x.ended && (match x.bind with
        | some y => y.step == step && rangesTouch s rg (bindRanges J.rule y.elements y.bf16 y.params y.grad y.state)
        | none => false))
      checked s c w
        { param := J.closing || decide (65535 < sh) || decide (E = 0) || decide (8388608 < E) || decide (1 < fmt) ||
            [pa, ga, sa].any (fun a => a.toNat % 64 != 0 || isRemote s a) || stepRefused s j sh step ||
            (isOwner s J sh && sa == 0) || rg.any (KRange.bad s)
          world := engineWorld s j != w || rg.any (KRange.other s w)
          tied := tied && !busy, busy := busy
          resource := decide (areaLimit < areaUsed s j sh + 256 + cdiv E 32) }
        (if rg.any (KRange.busy s) || !clockOn s (.ferrule (if j % 2 = 0 then 0 else 1)) then s
         else
           let s := rg.foldl (fun s r => wakeRange s r.addr r.n) s
           bindNow (s.modCmd c.q c.n.toNat (fun c => { c with wait := .bind j sh step })) J j sh b)

/-! ## Partial sums (R433, R435 to R438) -/

/-- A packet of a restarted shard-step that is older than its RESTART (R451). -/
def beforeRestart (w : Work) (k : Packet) : Bool :=
  match w.restarted with
  | some e => decide (1 ≤ (e - k.epoch).toNat) && decide ((e - k.epoch).toNat < 0x8000)
  | none => false

/-- Bindings of the shard for an earlier step are late for the chunk (R438). -/
def earlierBinds (s : State) (j sh : Nat) (tag : BitVec 16) : Nat :=
  (s.fer.works.filter (fun w => w.job == j && w.shard == sh && w.live.isSome &&
    decide (1 ≤ (tag - w.tag).toNat) && decide ((tag - w.tag).toNat < 0x8000))).length

/-- A partial sum arrives. -/
def redArrives (bfp : Bool) (s : State) (k : Packet) : State :=
  let j := k.job.toNat
  match job? s j with
  | none => sendNojob s k
  | some J =>
    if J.bfp ≠ bfp then sendNojob s k
    else
      let w := work s j k.shard k.tag
      if beforeRestart w k then s
      else
        let s := lateContrib s (earlierBinds s j k.shard k.tag)
        let p : Partial := ⟨k.idx, k.payload, k.ext, k.count, s.plat.devTime⟩
        if w.passed.contains k.idx || w.waits.any (fun q => q.chunk == k.idx) then latePartial s
        else
          match contribution w k.idx with
          | some b => runChunk s J w p (some b)
          | none =>
            if J.restored && w.bind.isNone then runChunk s J w p none
            else putWork s { w with waits := w.waits ++ [p] }

/-- RED_BF16. -/
def execRedBf16 (p : Fin 40) (s : State) : Oc := onShard s p.val pRedBf16 (redArrives false)

/-- RED_BFP16. -/
def execRedBfp16 (p : Fin 40) (s : State) : Oc := onShard s p.val pRedBfp16 (redArrives true)

/-- CONTRIBUTION_DEADLINE: the partial passes on without this device's contribution (R435). -/
def execContributionDeadline (k : ChunkId) (s : State) : Oc :=
  let w := work s k.job.toNat k.shard.toNat (k.step.setWidth 16)
  match job? s k.job.toNat, w.waits.find? (fun p => p.chunk == k.chunk.toNat) with
  | some J, some p => if expired s J p && !shardBusy s k.job.toNat k.shard.toNat then .next (runChunk s J w p none) else .next s
  | _, _ => .next s

/-- PARTIAL_WAIT_EXPIRY: no partial came within N x D of the contribution's presence; the device starts the chunk (R436). -/
def execPartialWaitExpiry (k : ChunkId) (s : State) : Oc :=
  let w := work s k.job.toNat k.shard.toNat (k.step.setWidth 16)
  let c := k.chunk.toNat
  match job? s k.job.toNat, contribution w c with
  | some J, some b =>
    if w.passed.contains c ∨ w.waits.any (fun p => p.chunk == c) ∨ b.step ≠ k.step ∨ shardBusy s k.job.toNat k.shard.toNat ∨
        s.plat.devTime.toNat < b.presentAt.toNat + usOf (J.ring.length * J.deadline) then .next s
    else .next (runChunk s J w (zeroPartial s w c) (some b))
  | _, _ => .next s

/-! ## GATHER (R445) -/

/-- The exponents that a gather unit carries, written into the exponent plane. -/
def takeExps (r : ShardRec) (u : Nat) (bf : Bool) (ext : Word) : ShardRec :=
  let per := unitElems bf / 32
  { r with expo := (List.range per).foldl (fun m i =>
      if per * u + i < cdiv r.elements 32 then mset m (per * u + i) (extExp ext i) else m) r.expo }

/-- A gather unit arrives. -/
def gatherArrives (s : State) (k : Packet) : State :=
  let j := k.job.toNat
  match job? s j with
  | none => sendNojob s k
  | some J =>
    let w := work s j k.shard k.tag
    if beforeRestart w k || isOwner s J k.shard then s
    else
      let r := rec? s j k.shard
      let pa? : Option Word := match w.bind, r with
        | some b, _ => some b.params
        | none, some r => some r.params
        | none, none => none
      let s := match pa? with
        | some a => busWrite s (localOf a + 512 * k.idx) k.payload
        | none => s
      let s := match r with
        | some r => if J.bfp then setRec s j k.shard (takeExps r k.idx ((w.bind.map (·.bf16)).getD r.bf16) k.ext) else s
        | none => s
      let w := { w with units := mset w.units k.idx k.count, noRecord := w.noRecord || pa?.isNone }
      let s := putWork s w
      let s := match nextHop s J with
        | some d => if ownerOf s J k.shard = some d then s else sendRed s w d pGather k.addr k.ext k.payload
        | none => s
      checkDone s (w.reread s)

/-- GATHER. -/
def execGatherPkt (p : Fin 40) (s : State) : Oc := onShard s p.val pGather gatherArrives

/-! ## MIRROR and MIRROR_ACK (R449, R450, R452) -/

/-- Bytes of a mirror: its planes and the record. -/
def mirrorSize (J : Job) (r : ShardRec) : Nat := (planesOf J r).foldl (fun n p => n + p.2.2) 256

/-- Offset of a plane in a mirror. -/
def planeOff (J : Job) (r : ShardRec) (plane : Nat) : Nat :=
  (planesOf J r).foldl (fun n p => if p.1 < plane then n + p.2.2 else n) 0

def mirrorBase (s : State) : Nat := (ctlGet s rMirbase).toNat
def mirrorEnd (s : State) : Nat := if ctlGet s rMirlim < ctlGet s rMirbase then mirrorBase s else (ctlGet s rMirlim).toNat + 4096

/-- The lowest free range of `n` bytes in the mirror region. -/
def mirrorPlace (s : State) (n : Nat) : Option Nat :=
  let ms := s.fer.mirrors
  let fits (a : Nat) : Bool :=
    decide (mirrorBase s ≤ a) && decide (a + n ≤ mirrorEnd s) &&
      ms.all (fun m => decide (a + n ≤ m.base) || decide (m.base + m.size ≤ a))
  ((mirrorBase s :: ms.map (fun m => m.base + m.size)).filter fits).foldl (fun b a =>
    match b with
    | some x => some (min x a)
    | none => some a) none

def mirror? (s : State) (j sh : Nat) : Option Mirror := s.fer.mirrors.find? (fun m => m.job == j && m.shard == sh)

def putMirror (s : State) (m : Mirror) : State :=
  { s with fer := { s.fer with mirrors := s.fer.mirrors.filter (fun x => !(x.job == m.job && x.shard == m.shard)) ++ [m] } }

/-- The mirror of a shard that a unit belongs to, allocated at the shard's first. -/
def findMirror (s : State) (J : Job) (r : ShardRec) (k : Packet) : Option Mirror :=
  let n := mirrorSize J r
  match (mirror? s k.job.toNat k.shard).filter (fun m => m.size == n) with
  | some m => some (if m.tag = k.tag then m else { m with tag := k.tag, got := [], whole := false, owner := k.src })
  | none =>
    let s := { s with fer := { s.fer with mirrors := s.fer.mirrors.filter (fun x => !(x.job == k.job.toNat && x.shard == k.shard)) } }
    if k.idx = 0 ∧ k.count % 4 = 0 then
      (mirrorPlace s n).map (fun a => ⟨k.job.toNat, k.shard, k.src, a, n, k.tag, [], false⟩)
    else none

/-- MIRROR_ACK; `full`: the mirror found no room. DESIGN CHOICE (log 33): the spec gives this answer no field of its own and sets
addr[47:35] to 0 (Table 12-3); bit 35 of the address says it here. -/
def sendMirrorAck (s : State) (k : Packet) (full : Bool) : State :=
  sendOrDrop s (mkPacket s k.src pMirrorAck k.tag k.job (redAddr (if full then 8 else 0) 0 k.shard) 0 [])

/-- A unit of a mirror arrives at the mirror holder. -/
def storeMirror (s : State) (J : Job) (k : Packet) : State :=
  let plane := k.count % 4
  let j := k.job.toNat
  match (rec? s j k.shard).bind (fun r => (findMirror s J r k).map (fun m => (r, m))) with
  | none =>
    if k.idx = 0 ∧ plane = 0 then sendMirrorAck (ferFault (frlFlag s 5) cMirrorFail j) k true else s
  | some (r, m) =>
    let s := busWrite s (m.base + planeOff J r plane + 512 * k.idx) k.payload
    let got := m.got ++ [(plane, k.idx)]
    if plane = 3 then sendMirrorAck (putMirror s { m with got := got, whole := true }) k false else putMirror s { m with got := got }

/-- The owner sends RESTART round the job ring and begins again (R451). -/
def resetWork (s : State) (J : Job) (w : Work) : State :=
  let w := { w with
    passed := [], missing := [], raises := 0, waits := [], units := [], restarted := some s.chain.epoch, ghat := []
    counts := w.counts.filter (fun c => w.updated.contains c.1)
    bind := w.bind.map (fun b => { b with presentAt := s.plat.devTime }) }
  startWork (putWork s w) J w

def restartStep (s : State) (J : Job) (w : Work) : State :=
  let s := match nextHop s J with
    | some d => sendRed s w d pRestart (redAddr 0 0 w.shard) 0 []
    | none => s
  resetWork s J (w.reread s)

/-- A step of a restored shard: one that the record's update includes is gathered again, any other is restarted (R452). -/
def resumeStep (s : State) (J : Job) (j sh : Nat) (tag : BitVec 16) : State :=
  match rec? s j sh with
  | none => s
  | some r =>
    let w := work s j sh tag
    if (match r.doneStep with
      | some d => d.setWidth 16 == tag
      | none => false) then
      let ks := List.range (chunks r.elements)
      let w := { w with updated := ks, counts := ks.map (fun k => (k, r.minCount)), mirror := false, mirrorWait := false }
      gatherAll (putWork s w) J w
    else restartStep (putWork s w) J w

/-- A restored shard: its latest bound step, and every step of it in progress here. -/
def resume (s : State) (J : Job) (j sh : Nat) : State :=
  match rec? s j sh with
  | none => s
  | some r =>
    let ts := (s.fer.works.filter (fun w => w.job == j && w.shard == sh && !w.ended && !w.done)).map (fun w => w.tag)
    (ts ++ [r.boundStep.setWidth 16]).eraseDups.foldl (fun s tag => resumeStep s J j sh tag) s

/-- A unit of a mirror arrives at a device that has adopted the owner's address. The record comes first. -/
def restoreUnit (s : State) (k : Packet) : State :=
  let j := k.job.toNat
  let plane := k.count % 4
  if plane = 3 then
    let s := if (job? s j).isSome then s else { s with fer := { s.fer with jobs := mset s.fer.jobs j (blockJob s k.payload) } }
    let s := setRec s j k.shard (blockRec k.payload)
    { s with fer := { s.fer with restores := s.fer.restores.filter (fun x => !(x.job == j && x.shard == k.shard)) ++
        [⟨j, k.shard, k.tag, []⟩] } }
  else
    match job? s j, rec? s j k.shard, s.fer.restores.find? (fun x => x.job == j && x.shard == k.shard) with
    | some J, some r, some x =>
      let ps := planesOf J r
      let s := match ps.find? (fun p => p.1 == plane) with
        | some p => busWrite s (localOf p.2.1 + 512 * k.idx) k.payload
        | none => s
      let got := x.got ++ [(plane, k.idx)]
      let need := ps.foldl (fun n p => n + cdiv p.2.2 512) 0
      let rest := s.fer.restores.filter (fun x => !(x.job == j && x.shard == k.shard))
      if got.length < need then { s with fer := { s.fer with restores := rest ++ [{ x with got := got }] } }
      else resume { s with fer := { s.fer with restores := rest } } J j k.shard
    | _, _, _ => s

/-- MIRROR. -/
def execMirrorPkt (p : Fin 40) (s : State) : Oc :=
  onShard s p.val pMirror (fun s k =>
    if k.count.testBit 2 then restoreUnit s k
    else
      match job? s k.job.toNat with
      | none => sendNojob s k
      | some J => storeMirror s J k)

/-- MIRROR_ACK: the owner begins the gather. -/
def execMirrorAck (p : Fin 40) (s : State) : Oc :=
  onShard s p.val pMirrorAck (fun s k =>
    match job? s k.job.toNat with
    | none => sendNojob s k
    | some J =>
      let w := work s k.job.toNat k.shard k.tag
      if !w.mirrorWait then s
      else if k.count.testBit 3 then mirrorFails s J w
      else gatherAll (putWork s { w with mirrorWait := false }) J { w with mirrorWait := false })

/-! ## NOJOB, RESTART, STEP_ABORT (R433, R447, R451) -/

/-- NOJOB: the refused packet goes past the refusing address, or the shard-step ends. -/
def nojobArrives (s : State) (k : Packet) : State :=
  let h := packetOf k.payload
  let s := frlFlag (ferFault s cProtocol h.job.toNat) 4
  let w := work s h.job.toNat h.shard h.tag
  match job? s h.job.toNat with
  | none => s
  | some J =>
    if s.fer.works.any (fun x => x.same h.job.toNat h.shard h.tag && x.ended) then s
    else
    let red := h.type == pRedBf16 || h.type == pRedBfp16
    if red && ownerOf s J h.shard == some h.dst then abortStep s w
    else if h.type = pMirror then (if w.mirrorWait then mirrorFails s J w else s)
    else if h.type = pMirrorAck ∨ h.type = pNojob then s
    else
      match w.sent.find? (fun x => x.type == h.type && x.addr == h.addr), (downOf s J h.dst).filter (· != s.chain.addr) with
      | some x, some d =>
        if h.type = pGather ∧ ownerOf s J h.shard = some d then s
        else sendRed s w d x.type x.addr x.ext x.payload
      | _, _ => s

/-- NOJOB. -/
def execNojobPkt (p : Fin 40) (s : State) : Oc := onShard s p.val pNojob nojobArrives

/-- RESTART goes round the job ring once; each device discards its state for the shard-step. -/
def restartArrives (s : State) (k : Packet) : State :=
  match job? s k.job.toNat with
  | none => sendNojob s k
  | some J =>
    let w := work s k.job.toNat k.shard k.tag
    if w.restarted = some k.epoch ∨ beforeRestart w k then s
    else
      let s := match nextHop s J with
        | some d => if ownerOf s J k.shard = some d then s else sendRed s w d pRestart k.addr 0 []
        | none => s
      let w := w.reread s
      if w.done then putWork s { w with restarted := some k.epoch } else resetWork s J w

/-- RESTART. -/
def execRestartPkt (p : Fin 40) (s : State) : Oc := onShard s p.val pRestart restartArrives

/-- STEP_ABORT goes round the job ring once. -/
def abortArrives (s : State) (k : Packet) : State :=
  match job? s k.job.toNat with
  | none => sendNojob s k
  | some _ =>
    match s.fer.works.find? (Work.same k.job.toNat k.shard k.tag) with
    | some w => abortStep s w
    | none => abortStep s { job := k.job.toNat, shard := k.shard, tag := k.tag }

/-- STEP_ABORT. -/
def execStepAbort (p : Fin 40) (s : State) : Oc := onShard s p.val pStepAbort abortArrives

/-! ## Membership changes (R451 to R453) -/

/-- The holder sends a mirror to the device that has adopted its owner's address, the record first. -/
def sendRestore (s : State) (J : Job) (m : Mirror) : State :=
  match rec? s m.job m.shard with
  | none => s
  | some r =>
    let w : Work := work s m.job m.shard m.tag
    let at_ := m.base + planeOff J r 3
    let s := sendRed s w m.owner pMirror (mirrorAddr 3 0 m.shard true) 0 (memRead s at_ 256)
    sendPlanes s w m.owner true ((planesOf J r).map (fun p => (p.1, m.base + planeOff J r p.1, p.2.2)))

/-- The new owner of a removed address takes a shard from its own mirror. -/
def restoreOwn (s : State) (J : Job) (m : Mirror) : State :=
  match rec? s m.job m.shard with
  | none => s
  | some old =>
    let r := { blockRec (memRead s (m.base + planeOff J old 3) 256) with expo := old.expo }
    let s := (planesOf J r).foldl (fun s p =>
      busWrite s (localOf p.2.1) (memRead s (m.base + planeOff J old p.1) p.2.2)) s
    resume (setRec s m.job m.shard { r with boundStep := old.boundStep }) J m.job m.shard

/-- The latest step of a shard that this device has updated. -/
def latestUpdate (s : State) (w : Work) : Bool :=
  !s.fer.works.any (fun x => x.job == w.job && x.shard == w.shard && !x.updated.isEmpty && !x.ended &&
    decide (1 ≤ (x.tag - w.tag).toNat) && decide ((x.tag - w.tag).toNat < 0x8000))

/-- What an owner does with one shard-step (R451). -/
def ownerReacts (s : State) (J : Job) (w : Work) : State :=
  match rec? s w.job w.shard with
  | none => s
  | some r =>
    if w.ended || s.fer.handoffs.any (fun h => h.job == w.job && h.shard == w.shard && h.tag == w.tag) then s
    else if w.updated.length = chunks r.elements then
      (if w.mirrorWait then startMirror s J w else if latestUpdate s w then gatherAll s J w else s)
    else if w.done then s else restartStep s J w

/-- The owner before the change is gone, and this device owns the shard (R453). -/
def ownerGone (s : State) (J : Job) (j sh : Nat) : State :=
  match mirror? s j sh with
  | some m => if m.whole then restoreOwn s J m else takeState s
  | none => takeState s
where
  takeState (s : State) : State :=
    let s := match rec? s j sh with
      | some r => setRec s j sh { r with t := 0, pi1 := one32, pi2 := one32 }
      | none => s
    (s.fer.works.filter (fun w => w.job == j && w.shard == sh && !w.done && !w.ended)).foldl (fun s w => abortStep s w) s

/-- The shards that this device knows of a job: by record, by mirror, or by a shard-step. -/
def shardsOf (s : State) (j : Nat) : List Nat :=
  let rs := (s.fer.recs.filter (fun (p : Nat × ShardRec) => p.1 / 65536 == j)).map (fun p => p.1 % 65536)
  let ws := (s.fer.works.filter (fun (w : Work) => w.job == j)).map (fun w => w.shard)
  (rs ++ ws).eraseDups

/-- One job after the adoption of a record: `old` is the record before, `changed` the addresses that changed. -/
def jobReacts (old : Option Membership) (changed : List (BitVec 16)) (s : State) (j : Nat) : State :=
  match job? s j with
  | none => s
  | some J =>
    if !J.ring.any changed.contains then s
    else
      -- mirrors of addresses that another device has adopted
      let s := (s.fer.mirrors.filter (fun m => m.job == j && m.whole && changed.contains m.owner &&
          memberIn s.chain.rec_ m.owner && m.owner != s.chain.addr)).foldl (fun s m => sendRestore s J m) s
      (shardsOf s j).foldl (fun s sh =>
        if !isOwner s J sh then s
        else if ownerIn old J sh = some s.chain.addr then
          (s.fer.works.filter (fun w => w.job == j && w.shard == sh)).foldl (fun s w => ownerReacts s J (w.reread s)) s
        else ownerGone s J j sh) s

/-- Job rings react to an adopted record. -/
def jobsReact (s : State) (old : Option Membership) (changed : List (BitVec 16)) : State :=
  (s.fer.jobs.map (·.1)).foldl (jobReacts old changed) s

/-! ## The fenced state (R453, 10 R383) -/

/-- This device's bindings and closes in progress end with ST_FENCED, and its engines send nothing more. -/
def ferruleFence (s : State) : State :=
  let s := (s.fer.jobs.map (·.1)).foldl (fun s j => endCloses s j stFenced) s
  let s := s.fer.works.foldl (fun s w => finishBind s (w.reread s) stFenced 0 0) s
  { s with fer := { s.fer with works := s.fer.works.map (fun w => { w with waits := [], sent := [] }), handoffs := [] } }

end Sys2Proof.Machine
end

