-- ==== Sys2Proof/Machine/Membership.lean ====
section
/-!
DEFINITION. Chain membership (11 R406, R412 to R424): enumeration, joining, records and their adoption, heartbeats and silence,
death, the fenced state and release.
-/

namespace Sys2Proof.Machine

/-! ## Entering the fenced state (R421, R453; 10 R383) -/

/-- Commands in progress that R383 names end with ST_FENCED. -/
def fenceCmds (s : State) : State :=
  { s with host := { s.host with cmds := s.host.cmds.map (fun c =>
      match c.wait with
      | .bind _ _ _ => { c with status := stFenced, wait := .done }
      | .close _ => { c with status := stFenced, wait := .done }
      | .enumeration => { c with status := stFenced, wait := .done }
      | _ => c) } }

def fenceSelf (s : State) : State :=
  if s.chain.st = .fenced then s
  else
    let s := fenceCmds (ferruleFence s)
    let s := detect s (plainFault cFenced 12 s.chain.addr.toNat)
    let os := s.chain.outst
    let rx := s.chain.rxq ++ s.chain.heldRx
    let s := { s with
      chain := { s.chain with st := .fenced, heldTx := [], heldRx := [], probes := [], headProbe := false, claiming := false
                              joining := false, rxq := [], heldBeats := [], parts := [], headLost := false, enumPort := none }
      plat := { s.plat with faultHold := true } }
    -- what it has received and not acted on goes back with the rest
    rx.foldl (fun s q => giveBack s q.1 q.2) (os.foldl (fun s o => answered s o .fenced) s)

/-- FENCED: this device sent something stale. -/
def execFencedPkt (p : Fin 40) (s : State) : Oc := onPacket s p.val pFenced (fun s _ => fenceSelf s)

/-! ## Adoption of a record (R415 to R421) -/

def allocated (r : Membership) : List (BitVec 16 × Word) := r.members ++ r.spares

/-- The addresses that the transitions from epoch `e` to the record changed. -/
def changedAddrs (r : Membership) (e : BitVec 16) : List (BitVec 16) :=
  (r.trans.filter (fun t => decide (1 ≤ (t.1 - e).toNat) && decide ((t.1 - e).toNat ≤ (r.epoch - e).toNat))).flatMap (·.2)

/-- Enumerations and joins that wait for a record end. -/
def endEnumeration (s : State) (status : Byte) (result : Nat) : State :=
  { s with host := { s.host with cmds := s.host.cmds.map (fun c =>
      if c.wait = .enumeration then { c with status := status, result := BitVec.ofNat 32 result, wait := .done } else c) } }

/-- The device has no chain address: its address, epoch, head and record are cleared, its requests answered. -/
def leaveChain (s : State) : State :=
  let os := s.chain.outst
  let s := { s with chain := { s.chain with
    st := .unaddressed, addr := 0xFFFF, epoch := 0, head := 0, rec_ := none, heldRx := [], heldTx := [], probes := []
    noRoute := [], headMiss := 0, headProbe := false, claiming := false, joining := false, counted := 0, topo := [], found := []
    heldBeats := [], parts := [], headLost := false, enumPort := none } }
  os.foldl (fun s o => answered s o (.err 1)) s

/-- Requests to addresses that changed are sent to the device that now holds them, or answered (R417). -/
def resendChanged (s : State) (changed : List (BitVec 16)) : State :=
  let os := s.chain.outst.filter (fun o => changed.contains o.dst)
  let held := s.chain.heldTx.filter (fun p => changed.contains p.dst && p.vc != 0)
  let s := { s with chain := { s.chain with heldTx := s.chain.heldTx.filter (fun p => !changed.contains p.dst) } }
  held.foldl sendOrDrop (os.foldl (fun s o => sendRequest s o) s)

/-- An accepted heartbeat: the misses end, and the partner is known. -/
def takeBeat (s : State) (p : Nat) (hb : Beat) : State :=
  let x := port s p
  let partner := if hb.addr = 0xFFFF#16 then 0 else hb.addr
  let isFenced := hb.state.toNat == 4
  let st := if isFenced then .partnerFenced else if x.st = .partnerFenced then upState x else x.st
  let y : Port := { x with miss := 0, partner := partner, pport := hb.port, st := st }
  let others := s.chain.noRoute.filter (fun a => a != hb.addr)
  let s1 := setPort { s with chain := { s.chain with noRoute := if isFenced then others ++ [hb.addr] else others } } p y
  if x.partner = partner ∧ x.st = st then s1 else topoChanged s1

/-- A heartbeat is judged as a packet is (R420). -/
def judgeBeat (s : State) (p : Nat) (hb : Beat) : State :=
  match verdict s hb.epoch hb.addr with
  | .stale => sendOn s p (mkPacket s hb.addr pFenced 0 0 0 0 [])
  | .newer => askRecord { s with chain := { s.chain with heldBeats := s.chain.heldBeats.filter (fun q => q.1 != p) ++ [(p, hb)] } } p
  | .accept => takeBeat s p hb

/-- Packets and heartbeats held for a newer record are judged under it. -/
def rejudge (s : State) : State :=
  let ps := s.chain.heldRx
  let bs := s.chain.heldBeats
  let s := ps.foldl (fun s q => receive s q.1 q.2) { s with chain := { s.chain with heldRx := [], heldBeats := [] } }
  bs.foldl (fun s q => judgeBeat s q.1 q.2) s

/-- The partners of ports to addresses that changed are those of the record (R417). -/
def renewPartners (s : State) (r : Membership) (changed : List (BitVec 16)) : State :=
  { s with chain := { s.chain with ports := s.chain.ports.map (fun e =>
      if changed.contains e.2.partner then
        (e.1, { e.2 with partner := ((r.topo.find? (fun t => t.1 == s.chain.addr && t.2.1 == e.1)).map (fun t => t.2.2.1)).getD 0 })
      else e) } }

/-- A record takes force at this device, at address `a`. -/
def takeRecord (s : State) (r : Membership) (a : BitVec 16) : State :=
  let old := s.chain.rec_
  let was := s.chain.addr
  let changed := if old.isSome then changedAddrs r s.chain.epoch else []
  let joined := s.chain.joining || s.chain.claiming
  let s := dropRemote { s with
    chain := { s.chain with
      rec_ := some r, epoch := r.epoch, head := r.head, addr := a, st := if a.toNat < 0x8000 then .member else .spare
      adoptedAt := s.plat.devTime, noRoute := [], headMiss := 0, headProbe := false, claiming := false, headLost := false
      enumPort := none, joining := false
      probes := s.chain.probes.filter (fun q => !changed.contains q.1) } }
  let s := renewPartners s r changed
  let s := if old.isSome ∧ was ≠ a then detect s (plainFault cAdopted 12 a.toNat) else s
  let s := if old.isSome then s else endEnumeration s stOk (if joined then 1 else (allocated r).length)
  -- a device that has joined tells the head its ports (R413)
  let s := if old.isNone && joined then topoChanged s else s
  rejudge (jobsReact (resendChanged s changed) old changed)

/-- A record arrives: adopted when newer; at equal epoch only its topology is taken (R409, R415). -/
def adopt (s : State) (r : Membership) : State :=
  if s.chain.st = .fenced then s
  else
  match s.chain.rec_ with
  | some o =>
    let d := (r.epoch - o.epoch).toNat
    if d = 0 then { s with chain := { s.chain with rec_ := some { o with topo := r.topo } } }
    else if 0x8000 ≤ d then s
    else
      match (allocated r).find? (fun m => m.2 == serialWord s) with
      | some m => if (allocated r).any (fun x => x.1 == s.chain.addr && x.2 != serialWord s) then fenceSelf s else takeRecord s r m.1
      | none => if (allocated r).any (fun x => x.1 == s.chain.addr) then fenceSelf s else leaveChain s
  | none =>
    match (allocated r).find? (fun m => m.2 == serialWord s) with
    | some m => takeRecord s r m.1
    | none =>
      if (s.chain.joining ∨ s.chain.claiming) ∧ 4096 ≤ (allocated r).length then
        endEnumeration { s with chain := { s.chain with
          joining := false, claiming := false, st := if s.chain.claiming then .unaddressed else s.chain.st } } stNoResource 0
      else s

/-- MEMBER: a record, or a part of one, or without payload a request for this device's. -/
def execMemberPkt (p : Fin 40) (s : State) : Oc :=
  onPacket s p.val pMember (fun s k =>
    if k.payload.isEmpty then
      match s.chain.rec_ with
      | some r => (memberPackets s k.src r).foldl (fun s q => sendOn s p.val q) s
      | none => s
    else
      match gather s p.val k (fun d => 4 + leAt d 0 4) with
      | (some d, s) => adopt s (memberOf (d.drop 4))
      | (none, s) => s)

/-! ## Changes that the head makes (R414, R417, R418) -/

/-- A change of membership: the epoch advances, the last 16 transitions are kept, the record is adopted and broadcast. -/
def changeRecord (s : State) (r : Membership) (changed : List (BitVec 16)) : State :=
  let e := r.epoch + 1
  let r := { r with epoch := e, trans := (r.trans ++ [(e, changed)]).drop (r.trans.length + 1 - 16) }
  let s' := broadcastRecord { s with chain := { s.chain with epoch := e } } r
  adopt { s' with chain := { s'.chain with epoch := s.chain.epoch } } r

/-- The lowest address of a list. -/
def lowest (l : List (BitVec 16 × Word)) : Option (BitVec 16 × Word) :=
  l.foldl (fun b m =>
    match b with
    | some x => if m.1 < x.1 then some m else some x
    | none => some m) none

def renameTopo (t : List (BitVec 16 × Nat × BitVec 16 × Nat)) (a b : BitVec 16) : List (BitVec 16 × Nat × BitVec 16 × Nat) :=
  t.map (fun e => (if e.1 = a then b else e.1, e.2.1, if e.2.2.1 = a then b else e.2.2.1, e.2.2.2))

def dropTopo (t : List (BitVec 16 × Nat × BitVec 16 × Nat)) (a : BitVec 16) : List (BitVec 16 × Nat × BitVec 16 × Nat) :=
  t.filter (fun e => e.1 != a && e.2.2.1 != a)

/-- The record after the death of `dead`, and the addresses that changed. -/
def deathOf (r : Membership) (dead : BitVec 16) : Membership × List (BitVec 16) × Bool :=
  let t := dropTopo r.topo dead
  match (if r.members.any (fun m => m.1 == dead) then lowest r.spares else none) with
  | some sp =>
    ({ r with
       head := if r.head = sp.1 then dead else r.head
       members := r.members.map (fun m => if m.1 = dead then (dead, sp.2) else m)
       spares := r.spares.filter (fun m => m.1 != sp.1)
       topo := renameTopo t sp.1 dead }, [dead, sp.1], true)
  | none =>
    ({ r with members := r.members.filter (fun m => m.1 != dead), spares := r.spares.filter (fun m => m.1 != dead), topo := t },
      [dead], false)

/-- This device becomes head: a change of its own (R418, R419). -/
def takeHead (s : State) : State :=
  match s.chain.rec_ with
  | none => s
  | some r => if r.head = s.chain.addr then s else changeRecord s { r with head := s.chain.addr } []

/-- The head declares the device at `dead` dead (R417). -/
def declareDead (s : State) (dead : BitVec 16) : State :=
  match s.chain.rec_ with
  | none => s
  | some r =>
    if !(allocated r).any (fun m => m.1 == dead) then s
    else
      let d := deathOf r dead
      let s := { s with chain := { s.chain with probes := s.chain.probes.filter (fun q => q.1 != dead) } }
      let s := changeRecord s d.1 d.2.1
      if d.2.2 && s.chain.addr != dead then detect s (plainFault cAdopted 12 dead.toNat) else s

/-- The head admits a device as a spare, or refuses it when the domain is full (R414). -/
def admitSpare (s : State) (serial : Word) : State :=
  match s.chain.rec_ with
  | none => s
  | some r =>
    if 4096 ≤ (allocated r).length then broadcastRecord s r
    else
      match (List.range 4096).find? (fun k => !r.spares.any (fun m => m.1.toNat == 0x8000 + k)) with
      | some k =>
        let a := BitVec.ofNat 16 (0x8000 + k)
        changeRecord s { r with spares := r.spares ++ [(a, serial)] } [a]
      | none => s

/-- A device joins. One whose serial number the record still holds has left without a word: its old address is dead (R417). -/
def joinMember (s : State) (serial : Word) : State :=
  match s.chain.rec_ with
  | none => s
  | some r =>
    match (allocated r).find? (fun m => m.2 == serial) with
    | some m => if m.1 = s.chain.addr then s else admitSpare (declareDead s m.1) serial
    | none => admitSpare s serial

/-- JOIN travels to the head. -/
def execJoinPkt (p : Fin 40) (s : State) : Oc :=
  onPacket s p.val pJoin (fun s k =>
    if isHead s then joinMember s k.ext
    else if s.chain.rec_.isSome then sendOrDrop s { k with dst := s.chain.head, hops := k.hops - 1 } else s)

/-- The member that follows `a` in chain order. -/
def nextMember (r : Membership) (a : BitVec 16) : Option (BitVec 16) :=
  let l := (chainOrder r.members).filter (fun x => x != a)
  (l.find? (fun x => a < x)).orElse (fun _ => l.head?)

/-- LEAVE: the address is treated as dead without probing; the departing head's goes to the next member, which becomes head. -/
def execLeavePkt (p : Fin 40) (s : State) : Oc :=
  onPacket s p.val pLeave (fun s k =>
    if isHead s then declareDead s k.src
    else if k.src = s.chain.head ∧ s.chain.rec_.isSome then declareDead (takeHead s) k.src else s)

/-! ## Heartbeats (R406, R416, R420) -/

def beatOf (s : State) (p : Nat) : Beat :=
  ⟨s.chain.addr, s.chain.epoch, BitVec.ofNat 4 (chStateCode s.chain.st), BitVec.ofNat 8 p, serialWord s⟩

/-- HEARTBEAT_SEND. -/
def execHeartbeatSend (p : Fin 40) (s : State) : Oc :=
  if linkLive s p.val then .next (emit s (.beat p.val (beatOf s p.val))) else .next s

/-- HEARTBEAT. -/
def execHeartbeat (p : Fin 40) (hb : Beat) (s : State) : Oc :=
  let p := p.val
  if !linkLive s p then .next s
  else if s.chain.st = .fenced then .next (takeBeat s p hb)
  else
    .next (judgeBeat s p hb)

/-- The ports by which `dst` can be reached without the link at port `q` of device `a`. -/
def portsTo (s : State) (dst a : BitVec 16) (q : Nat) : List Nat :=
  match s.chain.rec_ with
  | none => []
  | some r =>
    let cut (e : BitVec 16 × Nat × BitVec 16 × Nat) : Bool :=
      (e.1 == a && e.2.1 == q) || (e.1 == dst && e.2.2.1 == a && e.2.2.2 == q)
    let es := (r.topo.filter (fun e => e.1 != s.chain.addr && !cut e)).map (fun e => (e.1.toNat, e.2.2.1.toNat))
    let dist := bfs es es.length 0 [dst.toNat] [(dst.toNat, 0)]
    (List.range 40).filter (fun p =>
      portOn s p && !(s.chain.addr == a && p == q) &&
        match partnerOf s r p with
        | some b => dist.any (fun d => d.1 == b.toNat)
        | none => false)

/-- Send PROBE to `dst` along every route that avoids the link at port `q` of device `a`. -/
def probeAll (s : State) (dst a : BitVec 16) (q : Nat) : State :=
  (portsTo s dst a q).foldl (fun s p => sendOn s p (mkPacket s dst pProbe 0 0 0 (dst.setWidth 64) [])) s

/-- The head learns that port `q` of `by_` finds `silent` silent; reports of a device under probe, or no longer listed, are
absorbed. -/
def reportSilent (s : State) (silent by_ : BitVec 16) (q : Nat) : State :=
  match s.chain.rec_ with
  | none => s
  | some r =>
    if s.chain.probes.any (fun q => q.1 == silent) || !(allocated r).any (fun m => m.1 == silent) then s
    else
      let s := { s with chain := { s.chain with probes := s.chain.probes ++ [(silent, s.plat.devTime)] } }
      probeAll s silent by_ q

/-- The head cannot be reached by any route that this device knows of (R419). -/
def headGone (s : State) : Bool := s.chain.headLost || (probeRoute s s.chain.head).isNone

/-- A miss while the head cannot be reached (R419). -/
def missHead (s : State) : State :=
  if s.chain.rec_.isNone || isHead s || s.chain.st == .fenced || !headGone s then s
  else
    let n := s.chain.headMiss + 1
    let s := { s with chain := { s.chain with headMiss := n } }
    if n = deadCount s then probeAll { s with chain := { s.chain with headProbe := true } } s.chain.head 0xFFFF 40 else s

/-- A report of silence goes to the head by a route that avoids silent links; addr holds the silent port (DESIGN CHOICE,
notes/assumptions/30.md). -/
def sendReport (s : State) (p : Nat) (silent : BitVec 16) : State :=
  match probeRoute s s.chain.head with
  | some o => sendOn s o (mkPacket s s.chain.head pProbe 0 0 (BitVec.ofNat 48 p) (silent.setWidth 64) [])
  | none => { s with chain := { s.chain with headLost := s.chain.headLost || s.chain.rec_.isSome } }

/-- HEARTBEAT_MISS. -/
def execHeartbeatMiss (p : Fin 40) (s : State) : Oc :=
  let p := p.val
  if !linkLive s p then .next s
  else
    let x := port s p
    let s := setPort s p { x with miss := x.miss + 1 }
    let s :=
      if x.miss + 1 = deadCount s ∧ x.partner ≠ 0 ∧ s.chain.st ≠ .fenced then
        if isHead s then reportSilent s x.partner s.chain.addr p else sendReport s p x.partner
      else s
    .next (missHead s)

/-- PROBE: answered when it names this device; to the head, one that names another address is a report of silence. -/
def execProbePkt (p : Fin 40) (s : State) : Oc :=
  onPacket s p.val pProbe (fun s k =>
    let a : BitVec 16 := k.ext.setWidth 16
    if a = s.chain.addr then
      let r := mkPacket s k.src pProbeResp 0 0 0 k.ext []
      match probeRoute s k.src with
      | some o => if s.chain.st = .fenced then s else sendOn s o r
      | none => s
    else if isHead s then
      -- a report older than a death of that address is absorbed
      (match s.chain.rec_ with
        | some r => if changedSince r k.epoch a then s else reportSilent s a k.src k.addr.toNat
        | none => s)
    else s)

/-- Ports toward a device that lives are down when their link is silent: only the link is lost. -/
def silentPorts (s : State) (a : BitVec 16) : State :=
  ((List.range 40).filter (fun p => portOn s p && (port s p).partner == a && decide (deadCount s ≤ (port s p).miss))).foldl
    (fun s p => portFalls s p cPortDown) s

/-- PROBE_RESP: the probed device lives. The head tells every device, so that the reporter takes its port down. -/
def execProbeResp (p : Fin 40) (s : State) : Oc :=
  onPacket s p.val pProbeResp (fun s k =>
    let a : BitVec 16 := k.ext.setWidth 16
    let probed := s.chain.probes.any (fun q => q.1 == a)
    let s := { s with chain := { s.chain with probes := s.chain.probes.filter (fun q => q.1 != a) } }
    let s := if a = s.chain.head then { s with chain := { s.chain with headProbe := false, headMiss := 0, headLost := false } } else s
    let s := if probed && isHead s then broadcast s (mkPacket s 0xFFFE pProbeResp 0 0 0 k.ext []) else s
    flushHeld (silentPorts s a) a)

/-- PROBE_TIMEOUT: no answer came; the head declares the device dead. -/
def execProbeTimeout (a : BitVec 16) (s : State) : Oc :=
  if isHead s && s.chain.probes.any (fun q => q.1 == a) then .next (declareDead s a) else .next s

/-- HEAD_PROBE_TIMEOUT: the reachable part of the domain chooses a head, or this device is fenced (R419). -/
def execHeadProbeTimeout (reach : List (BitVec 16)) (s : State) : Oc :=
  match s.chain.rec_ with
  | none => .next s
  | some r =>
    if !s.chain.headProbe then .next s
    else
      let s := { s with chain := { s.chain with headProbe := false, headMiss := 0 } }
      let ms := chainOrder r.members
      let got := ms.filter (fun a => a == s.chain.addr || reach.contains a)
      let quorum := decide (ms.length < 2 * got.length) || (ms.length == 2 * got.length && (match ms.head? with
        | some a => got.contains a
        | none => false))
      if !quorum then .next (fenceSelf s)
      else
        let first := (got.find? (fun a => s.chain.head < a)).orElse (fun _ => got.head?)
        let old := s.chain.head
        if first = some s.chain.addr then .next (declareDead (takeHead s) old) else .next s

/-! ## Packets returned by a fenced device (R421) -/

/-- REROUTE: the fenced hop leaves the routes, and the packet is sent again. -/
def execReroutePkt (p : Fin 40) (s : State) : Oc :=
  onPacket s p.val pReroute (fun s k =>
    match gather s p.val k (fun d => 32 + leAt d 10 2) with
    | (none, s) => s
    | (some d, s) =>
    let q := packetOf d
    let x := port s p.val
    let s := setPort s p.val { x with st := .partnerFenced }
    let s := { s with chain := { s.chain with noRoute := s.chain.noRoute.filter (fun a => a != x.partner) ++ [x.partner] } }
    let s := topoChanged s
    if q.type = pEnum ∨ q.type = pClaim then enqueueRx s p.val q
    else if q.dst = 0xFFFE#16 then (if portOn s (mate p.val) then sendOn s (mate p.val) q else s)
    else
      match (if q.src = s.chain.addr then s.chain.outst.find? (fun o => o.tag == q.tag && q.vc == 0) else none) with
      | some o => sendRequest s o
      | none =>
        match route s q.dst with
        | some o => sendOn s o q
        | none => bounce s q)

/-! ## Enumeration (R413, Table 11-6) -/

def strapHigh (s : State) : Bool := s.plat.straps.getLsbD 0
def wantsSpare (s : State) : Bool := (ctlGet s rChnCtl).getLsbD 0

/-- A CLAIM of this device: ext its serial number, addr bit 0 its strap, payload the issuer's serial where the device took the
claim over (notes/assumptions/30.md). -/
def claimPacket (s : State) (issuer : List Byte) : Packet :=
  mkPacket s 0xFFFF pClaim 0 0 (if strapHigh s then 1 else 0) (serialWord s) issuer

def enumWord (m sp n : Nat) : Word := BitVec.ofNat 64 (n * 2 ^ 32 + sp * 2 ^ 16 + m)

/-- The head's record of the enumeration, once every device counted has sent its port table. -/
def enumerationEnds (s : State) : State :=
  if s.chain.counted = 0 ∨ s.chain.found.length < s.chain.counted then s
  else
    let ms := s.chain.found.filter (fun m => decide (m.1.toNat < 0x8000))
    let sp := s.chain.found.filter (fun m => decide (0x8000 ≤ m.1.toNat))
    let r : Membership := ⟨1, s.chain.addr, ms, sp, [], fillPartners (mergeTopo s.chain.topo s.chain.addr (portTable s))⟩
    adopt (broadcastRecord { s with chain := { s.chain with counted := 0 } } r) r

/-- The ENUM walk has ended: `n` devices are addressed. -/
def walkEnds (s : State) (n : Nat) : State := enumerationEnds { s with chain := { s.chain with counted := n } }

/-- The walk in one direction from the head; none where no port leads that way. -/
def walkFrom (s : State) (p : Nat) (e : Word) : Option State :=
  if portOn s p then some (sendOn s p (mkPacket s 0xFFFF pEnum 0 0 0 e [])) else none

/-- The claim is won: steps 1 and 2 of Table 11-6. -/
def becomeHead (s : State) : State :=
  let a : BitVec 16 := if wantsSpare s then 0x8000 else 1
  let s := { s with chain := { s.chain with
    addr := a, epoch := 1, head := a, st := .enumerating, claiming := false, found := [(a, serialWord s)], topo := [] } }
  let e := if wantsSpare s then enumWord 1 0x8001 1 else enumWord 2 0x8000 1
  match walkFrom s 0 e, walkFrom s 20 e with
  | some s, _ => s
  | none, some s => s
  | none, none => walkEnds s 1

/-- Send a packet of a ring-0 walk on, or back where the chain ends. Each device sends it as its own: the walk passes more devices
than a packet has hops (Table 11-6 step 4). -/
def passOn (s : State) (p : Nat) (k : Packet) : State :=
  if portOn s (mate p) then sendOn s (mate p) k else if portOn s p then sendOn s p k else s

/-- This device's own claim has come back: from below it goes upstream, else it is won. -/
def claimReturns (s : State) (p : Nat) (k : Packet) : State :=
  if p = 0 ∧ portOn s 20 then sendOn s 20 k else becomeHead s

/-- A claim with strap `a` and serial `x` takes precedence over one with strap `b` and serial `y`. -/
def precedes (a : Bool) (x : Word) (b : Bool) (y : Word) : Bool := (a && !b) || (a == b && decide (x < y))

/-- A strapped device takes a claim over: always an issuer's own, and one taken over when its own serial is lower. -/
def takesOver (s : State) (k : Packet) : Bool :=
  strapHigh s && s.chain.st == .unaddressed && !s.chain.claiming &&
    (k.payload.isEmpty || decide (serialWord s < k.ext))

/-- CLAIM. -/
def execClaimPkt (p : Fin 40) (s : State) : Oc :=
  let p := p.val
  onPacket s p pClaim (fun s k =>
    let strap := k.addr.getLsbD 0
    if s.chain.rec_.isSome then
      -- a device of a domain: the claimant joins it (R413)
      (if isHead s then joinMember s k.ext
       else sendOrDrop s { mkPacket s s.chain.head pJoin 0 0 0 k.ext [] with src := 0xFFFF })
    else if s.chain.claiming then
      if k.ext = serialWord s then claimReturns s p k
      else if k.payload = leBytes 8 (serialWord s).toNat then
        passOn { s with chain := { s.chain with claiming := false } } p k
      else if precedes strap k.ext (strapHigh s) (serialWord s) then
        let s := endEnumeration { s with chain := { s.chain with claiming := false, st := .unaddressed } } stBusy 0
        passOn s p k
      else s
    else if takesOver s k then
      let s := { s with chain := { s.chain with claiming := true, st := .enumerating } }
      let issuer := if k.payload.isEmpty then leBytes 8 k.ext.toNat else k.payload
      if portOn s (mate p) then sendOn s (mate p) (claimPacket s issuer) else passOn s p (claimPacket s issuer)
    else passOn s p k)

/-- An unaddressed device takes the next address from an ENUM word: its address, and the word that goes on. -/
def takeAddress (s : State) (e : Word) : Option (BitVec 16 × Word) :=
  let m := wbits e 0 16
  let sp := wbits e 16 16
  let n := wbits e 32 16
  if 4096 ≤ n then none
  else if wantsSpare s then some (BitVec.ofNat 16 sp, enumWord m (sp + 1) (n + 1))
  else some (BitVec.ofNat 16 m, enumWord (m + 1) sp (n + 1))

/-- ENUM. -/
def execEnumPkt (p : Fin 40) (s : State) : Oc :=
  let p := p.val
  onPacket s p pEnum (fun s k =>
    if s.chain.st = .enumerating ∧ s.chain.addr = s.chain.head ∧ s.chain.addr ≠ 0xFFFF#16 then
      -- the head: back from below, the walk goes upstream; else it ends
      match (if p = 0 then walkFrom s 20 k.ext else none) with
      | some s => s
      | none => walkEnds s (wbits k.ext 32 16)
    else if s.chain.addr = 0xFFFF#16 ∧ s.chain.rec_.isNone then
      match takeAddress s k.ext with
      | some (a, e) =>
        let s := { s with chain := { s.chain with addr := a, epoch := 1, head := k.src, st := .enumerating, enumPort := some p } }
        sendOn (passOn s p { k with ext := e }) p (topoPacket s k.src)
      | none => passOn s p k
    else passOn s p k)

/-- TOPO: the head collects a port table. -/
def execTopoPkt (p : Fin 40) (s : State) : Oc :=
  onPacket s p.val pTopo (fun s k =>
    let t := portsOf k.src k.payload
    if s.chain.rec_.isSome then (if isHead s then headTopo s k.src t else s)
    else if s.chain.st = .enumerating ∧ s.chain.addr = s.chain.head then
      enumerationEnds { s with chain := { s.chain with
        found := s.chain.found.filter (fun m => m.1 != k.src) ++ [(k.src, k.ext)], topo := mergeTopo s.chain.topo k.src t } }
    else s)

/-! ## CHAIN_ENUMERATE, CHAIN_STATUS, CHAIN_RELEASE (R413, R422, R424) -/

/-- A port whose partner holds an address. -/
def addressedPort (s : State) : Option Nat := (List.range 40).find? (fun p => portOn s p && (port s p).partner != 0)

/-- CHAIN_ENUMERATE. -/
def execChainEnumerate (q n : Nat) (s : State) : Oc :=
  runCmd s 0x80 q n fun c w =>
    if w = .s then endWith s c stWorld
    else
    match s.chain.st with
    | .unaddressed =>
      if s.chain.joining then endWith s c stBusy
      else
        let s := s.modCmd c.q c.n.toNat (fun c => { c with wait := .enumeration })
        match addressedPort s with
        | some p =>
          sendOn { s with chain := { s.chain with joining := true } } p (mkPacket s 0xFFFF pJoin 0 0 0 (serialWord s) [])
        | none =>
          let s := { s with chain := { s.chain with claiming := true, st := .enumerating } }
          if portOn s 0 then sendOn s 0 (claimPacket s []) else claimReturns s 0 (claimPacket s [])
    | .enumerating => endWith s c stBusy
    | _ => endWith s c stOk

/-- The chain status block (Table 11-8). -/
def statusBlock (s : State) : List Byte :=
  let ms := match s.chain.rec_ with
    | some r => (r.members.length, r.spares.length)
    | none => (0, 0)
  let rings := (List.range 20).foldl (fun n r => if portUp s r || portUp s (r + 20) then n + 2 ^ r else n) 0
  leBytes 8 (chnStat s).toNat ++ leBytes 8 (ctlGet s rChnCtl).toNat ++ leBytes 2 ms.1 ++ leBytes 2 ms.2 ++ leBytes 4 rings ++
    leBytes 8 s.chain.adoptedAt.toNat ++ List.replicate 32 0 ++
    (List.range 40).flatMap (fun p => leBytes 8 (chnPort s p).toNat)

/-- CHAIN_STATUS. -/
def execChainStatus (q n : Nat) (s : State) : Oc :=
  runCmd s 0x81 q n fun c w =>
    let d := (statusBlock s).take (c.u 0x18 4)
    let buf : KRange := ⟨c.addr 0x10, d.length, c.host 0⟩
    checked s c w { param := buf.bad s, world := w == .s || buf.other s w }
      (endCmd (extWrite s c.linkLost buf.host buf.addr d) c stOk (BitVec.ofNat 32 (s.chain.addr.toNat * 2 ^ 16 + s.chain.epoch.toNat))
        (BitVec.ofNat 64 d.length))

/-- LEAVE to the head; a departing head's to the member that follows it. -/
def sendLeave (s : State) : State :=
  match s.chain.rec_ with
  | none => s
  | some r =>
    match (if isHead s then nextMember r s.chain.addr else some s.chain.head) with
    | some d => sendOrDrop s (mkPacket s d pLeave 0 0 0 0 [])
    | none => s

/-- CHAIN_RELEASE. -/
def execChainRelease (q n : Nat) (s : State) : Oc :=
  runCmd s 0x82 q n fun c w =>
    if w = .s then endWith s c stWorld
    else
    match s.chain.st with
    | .member => endWith (leaveChain (sendLeave s)) c stOk
    | .spare => endWith (leaveChain (sendLeave s)) c stOk
    | .fenced => endWith (leaveChain s) c stOk
    | _ => endWith s c stOk

end Sys2Proof.Machine
end

