-- ==== Sys2Proof/Machine/TaskCommands.lean ====
section
/-!
DEFINITION. Commands that send tokens or end tasks (09 R334 to R342, 10 R389, R552). Each may end the update task of a ferrule
engine (12 R444), which is settled after it.
-/

namespace Sys2Proof.Machine

/-! ## Tokens -/

/-- A token sent without staging; one that fails a check is dropped (R335). -/
def plainToken (s : State) (w : World) (arm : Bool) (a : Word) : State :=
  match sendToken s ⟨w, none⟩ arm a (fun _ => .token) with
  | .applied _ s => s
  | .remote _ s => s
  | .refused _ s => taskStat s w 2

/-- SIGNAL_TOKEN. -/
def execSignalToken (w : World) (a : Word) (s : State) : Oc := .next (settle (plainToken s w false a))

/-- ARM_TOKEN. -/
def execArmToken (w : World) (a : Word) (s : State) : Oc := .next (settle (plainToken s w true a))

/-- DEV_TASKDB_WRITE: the agent writes 64 bits. -/
def execDevTaskdbWrite (a : Agent) (v : Word) (s : State) : Oc :=
  .next (settle (regCommand s a rTaskdb 8 v))

/-- TOKEN_PACKET: applied at the descriptor's home as an NS arrival; the ACK carries the state that the token found. -/
def execTokenPacket (p : Fin 40) (s : State) : Oc :=
  onPacket s p.val pToken (fun s k =>
    let w : Word := k.addr.setWidth 64
    let d := k.addr.toNat
    let arm := k.ext.getLsbD 0
    let apply (s : State) : State :=
      reply (settle (applyToken s arm d)) k pAck (BitVec.ofNat 64 (dGet s d dState 1)) []
    match tokenCheck s ⟨.ns, none⟩ w with
    | .ok => apply s
    | .wake _ => apply s
    | .remote _ => replyErr s k 1
    | .trap c _ => if c = xWorld then replyErr (logVio s (w + 0x2C) 0 k.src 3 4) k 2 else replyErr s k 1)

/-! ## Tasks -/

/-- OVERFLOW_PLACEMENT. -/
def execOverflowPlacement (s : State) : Oc := .next (placeOverflow s)

/-- TASK_START. -/
def execTaskStart (t : Tid) (s : State) : Oc := .next (startTask s t)

/-- TASK_COMPLETION: only when nothing of the task is outstanding. -/
def execTaskCompletion (t : Tid) (s : State) : Oc :=
  if hasQueued s t || !storesDone (s.thr t) then .next s else .next (settle (completeTask s t))

/-! ## TASK_SIGNAL, TASK_GRAPH_SUBMIT -/

/-- TASK_SIGNAL. -/
def execTaskSignal (q n : Nat) (s : State) : Oc :=
  runCmd s 0x22 q n fun c w =>
    let a := c.addr 0x10
    let arm := c.bit 0x18 0
    let s1 := s.modCmd c.q c.n.toNat (fun c => { c with wait := .remoteToken s.chain.nextTag })
    match sendToken s1 ⟨w, none⟩ arm a (fun _ => .cmdToken c.q c.n arm false) with
    | .applied found s => settle (endCmd s c stOk (BitVec.ofNat 32 found) 0)
    | .remote _ s => s
    | .refused cause _ => if cause = xWorld then refuseWorld s c w else endWith s c stBadParam

/-- The counts of a TASK_GRAPH_SUBMIT while its entries are applied: applied, skipped, busy. -/
structure GraphCount where
  applied : Nat := 0
  skipped : Nat := 0
  busy : Nat := 0
  deriving DecidableEq, Repr

/-- Apply one entry. -/
def graphEntry (c : Cmd) (w : World) (r : GraphCount × State) (e : Word) : GraphCount × State :=
  let arm := e.getLsbD 0
  let skip (s : State) : GraphCount × State := ({ r.1 with skipped := r.1.skipped + 1 }, s)
  if wbits e 1 6 ≠ 0 then skip r.2
  else
    let tag := r.2.chain.nextTag
    let s := { r.2 with host := { r.2.host with tokenWait := r.2.host.tokenWait ++ [(c.q, c.n, tag, arm)] } }
    match sendToken s ⟨w, none⟩ arm (e &&& ~~~1) (fun _ => .cmdToken c.q c.n arm true) with
    | .applied found s' =>
      ({ r.1 with
          applied := r.1.applied + 1
          busy := if arm && decide (1 ≤ found ∧ found ≤ 3) then r.1.busy + 1 else r.1.busy },
        { s' with host := { s'.host with tokenWait := r.2.host.tokenWait } })
    | .remote _ s' => (r.1, s')
    | .refused cause _ =>
      skip (if cause = xWorld ∧ w = .ns then logVio r.2 (BitVec.ofNat 64 c.q) 1 0 4 c.op else r.2)

/-- After the last entry: the counts, and what the command waits for. -/
def graphCounted (s : State) (c : Cmd) (g : GraphCount) (short : Bool) : State :=
  let waits := s.host.tokenWait.any (fun t => t.1 == c.q && t.2.1 == c.n)
  s.modCmd c.q c.n.toNat (fun c =>
    let c := { c with
      status := if short then stAborted else stOk
      result := c.result + BitVec.ofNat 32 g.applied
      aux := (c.aux &&& 0xFFFFFFFF) + BitVec.ofNat 64 (g.busy * 2 ^ 16 + g.skipped) }
    if waits then { c with wait := .remoteToken 0 } else if short then { c with wait := .done } else c.graphEnd)

def sinkWatches (s : State) : Nat :=
  (s.host.cmds.filter (fun c => match c.wait with
    | .sink _ => true
    | _ => false)).length

/-- The sink fails the checks of R332. -/
def sinkBad (s : State) (w : World) (sink : Word) : Bool :=
  sink != 0 && (match tokenCheck s ⟨w, none⟩ sink with
    | .trap _ _ => true
    | _ => false)

/-- TASK_GRAPH_SUBMIT. `host`: what the host, or another device, returned of the list. -/
def execTaskGraphSubmit (q n : Nat) (host : Option (List Byte)) (s : State) : Oc :=
  runCmd s 0x21 q n fun c w =>
    let count := c.u 0x20 4
    let sink := c.addr 0x18
    let list : KRange := ⟨c.addr 0x10, 8 * count, c.host 0⟩
    checked s c w
      { param := decide (count = 0) || decide (65535 < count) || list.bad s || sinkBad s w sink
        world := list.other s w, resource := sink != 0 && decide (4096 ≤ sinkWatches s) }
      (let r := extRead s list (c.ext 0 host)
       let s1 := r.2.2.modCmd c.q c.n.toNat (fun c => { c with wait := .remoteToken 0 })
       let s1 := match r.2.1 with
         | some a => detect s1 ⟨cPoisonRead, 7, BitVec.ofNat 16 (c.q % 2), a, none, 0, false⟩
         | none => s1
       let k := min count (r.1.length / 8)
       let g := (List.range k).foldl (fun r' i => graphEntry c w r' (BitVec.ofNat 64 (leAt r.1 (8 * i) 8))) (({} : GraphCount), s1)
       settle (graphCounted g.2 c g.1 (decide (k < count))))

end Sys2Proof.Machine
end

