-- ==== Sys2Proof/Machine/Stop.lean ====
section
/-!
DEFINITION. What ends a run of the device (01 R36 to R39, 16 R524, 17 R532): the reset of every island but bench management, the
protective stop, and the failed start.
-/

namespace Sys2Proof.Machine

/-- Every island except bench management is in reset (01 R37). Bench management keeps the pins, the clocks and the timer, its
counts and the causes it holds; the store keeps what is programmed. That a reset outside a protective stop clears fault_hold, and
drives FAULT_N high, is the model's choice (DESIGN CHOICE, notes/assumptions/71.md). -/
def islandsReset (s : State) : State :=
  { pending := s.pending, out := s.out, free := s.free
    plat := { s.plat with
      started := false, held := none, stage := 0, ready := false, faultHold := false, recovery := false, bootFailed := false
      hbmDue := [], heldClocks := [], shadow := [], advance := none, compactDue := false }
    sec := { fuses := s.sec.fuses, keyOk := s.sec.keyOk }
    pwr := { temps := s.pwr.temps }
    store := { s.store with compact := none, jqueue := [] } }

/-- The cause of a stop as its stop unit and bench management hold it (14 R481, 17 R537). `unit`: VIO_1V8 is up. -/
def keepCause (s : State) (cause index : BitVec 16) (fail failIndex : Nat) (unit : Bool) : State :=
  let q := nextStop s.store
  let s := if unit then writeStop s cause fail failIndex else s
  { s with plat := { s.plat with kept := s.plat.kept ++ [(cause, index, if unit then some q else none)] } }

/-- The protective stop holds: READY and FAULT_N low, boot stage 0xE. -/
def stopHeld (s : State) (c : StopCause) : State :=
  { s with plat := { s.plat with stop := some c, stage := 0xE, faultHold := true } }

/-- The device enters the protective stop (01 R38). -/
def protectiveStop (s : State) (c : StopCause) (index : BitVec 16) (unit : Bool) : State :=
  stopHeld (keepCause (islandsReset s) cProtStop index 0 0 unit) c

/-- A protective stop that no rail causes: its record's index is a free value (14 Table 14-4 gives rails alone). -/
def stopNoRail (s : State) (c : StopCause) : State :=
  let i : BitVec 16 := BitVec.ofNat 16 (Config.choice s.free)
  protectiveStop { s with free := s.free + 1 } c i true

/-- A start fails (17 R532). -/
def failedStart (s : State) (fail failIndex : Nat) : State :=
  let s := ctlSet s rStart (BitVec.ofNat 64 (fail * 2 ^ 20 + failIndex * 2 ^ 16))
  keepCause { s with plat := { s.plat with stage := 0xF, faultHold := true, bootFailed := true } } cBootFailed s.chain.addr fail
    failIndex true

end Sys2Proof.Machine
end

