-- ==== Sys2Proof/Machine/Faults.lean ====
section
/-!
DEFINITION. Resilience (14): the fault record and its registers, the handling of a fault on each rung of the ladder, the
retirement of a lathe, the supervisors, and the fault commands of the host.
-/

namespace Sys2Proof.Machine

/-! ## The fault record (R476 to R478) -/

/-- The lathe of a lathe, core or array unit. -/
def unitLathe (kind : Byte) (index : BitVec 16) : Option Nat :=
  let u := unitOf kind index
  if u.1 = 0 then some u.2 else none

def unitWorld (s : State) (kind : Byte) (index : BitVec 16) : World :=
  match unitLathe kind index with
  | some l => (s.lathe l).world
  | none => if kind = 8 then mget s.sec.ferruleWorld index.toNat .ns else .ns

/-- A record is S when its unit, its task or its address is. -/
def recordS (s : State) (kind : Byte) (index : BitVec 16) (addr task : Word) : Bool :=
  unitWorld s kind index == .s || (task != 0 && descWorld s (localOf task) == .s) ||
    (addr != 0 && isSelf s (chainOf addr) && addrWorld s none (localOf addr) == .s)

def flagByte (nested escalated so supFailover : Bool) : Byte :=
  (if nested then 1 else 0) ||| (if escalated then 2 else 0) ||| (if so then 4 else 0) ||| (if supFailover then 8 else 0)

/-- Microseconds since a detection, saturating. -/
def durationOf (s : State) (time : Word) : Nat := min 0xFFFFFFFF ((s.plat.devTime - time).toNat / 1000)

/-- Epoch of the lathe concerned; 0 for other units. -/
def latheEpochOf (s : State) (kind : Byte) (index : BitVec 16) : BitVec 16 :=
  match unitLathe kind index with
  | some l => (s.lathe l).epoch
  | none => 0

/-- The class of a handling's record: LOST when it ended a task at its fifth abandonment (R456, Table 14-2). -/
def Handling.recClass (h : Handling) : Nat := if h.lost.isSome then 5 else h.cls

/-- The detail of the records of a handling. -/
def Handling.detailOf (h : Handling) (ev : FaultEv) : BitVec 32 :=
  if h.cls = 3 then (match h.spare with
    | some k => BitVec.ofNat 32 k
    | none => 0xFF)
  else ev.detail

/-- The handling's own record. -/
def ownRecord (s : State) (h : Handling) : FaultRec :=
  let cause := if h.lost.isSome then cReplayLimit else h.ev.cause
  let kind : Byte := if h.lost.isSome then 0 else h.ev.kind
  let index := (h.lost.map (fun p => BitVec.ofNat 16 p.1)).getD h.ev.index
  let task := (h.lost.map (fun p => p.2)).getD h.task
  { seq := h.seq, time := h.time, parent := 0, cls := h.recClass
    flags := flagByte h.nested h.escalated (recordS s kind index h.ev.addr task) h.supFailover
    cause := cause, kind := kind, index := index, chainEpoch := h.epoch, latheEpoch := latheEpochOf s kind index
    count := h.count, addr := h.ev.addr, task := task, detail := h.detailOf h.ev, duration := durationOf s h.time }

/-- The record of a nested fault that joined the handling (R472). -/
def joinedRecord (s : State) (h : Handling) (j : Joined) : FaultRec :=
  { seq := j.seq, time := j.time, parent := h.seq, cls := h.recClass
    flags := flagByte true false (recordS s j.ev.kind j.ev.index j.ev.addr j.task) false
    cause := j.ev.cause, kind := j.ev.kind, index := j.ev.index, chainEpoch := j.epoch
    latheEpoch := latheEpochOf s j.ev.kind j.ev.index, count := 0, addr := j.ev.addr, task := j.task
    detail := h.detailOf j.ev, duration := durationOf s j.time }

/-- The record of a task that lost its last eligible lathe at replay (R468). -/
def noLatheRecord (s : State) (h : Handling) (l : Nat) (task : Word) : FaultRec × State :=
  let r := takeSeq s
  let index := BitVec.ofNat 16 l
  ({ seq := r.1, time := s.plat.devTime, parent := h.seq, cls := 5
     flags := flagByte false false (recordS s 0 index 0 task) false, cause := cNoLathe, kind := 0, index := index
     chainEpoch := if s.chain.addr = 0xFFFF#16 then 0 else s.chain.epoch, latheEpoch := latheEpochOf s 0 index, count := 0
     addr := 0, task := task, detail := 0, duration := 0 }, r.2)

/-- The sticky bit of a unit: register and bit (R482). -/
def unitSticky (kind : Byte) (index : BitVec 16) : Option (Nat × Nat) :=
  let i := index.toNat
  match unitLathe kind index with
  | some l => some (if l < 64 then (1, l) else (2, l - 64))
  | none =>
    match kind.toNat with
    | 3 => some (2, 32 + i)
    | 4 => some (2, 24 + i)
    | 5 => some (2, 8 + i)
    | 6 => some (3, i)
    | 7 => some (2, 40 + i)
    | 8 => some (2, 42 + i)
    | 9 => some (2, 44 + i)
    | 10 => some (2, 48)
    | 11 => some (3, 41)
    | 12 => some (3, 40)
    | 13 => some (3, 41)
    | _ => none

/-- The sticky bits that a record names. -/
def stickyBits (r : FaultRec) : List (Nat × Nat) :=
  [(0, r.cls), (4, r.cause.toNat)] ++ (if r.flags.getLsbD 0 then [(0, 8)] else []) ++
    (if r.flags.getLsbD 3 then [(0, 10)] else []) ++ (unitSticky r.kind r.index).toList

/-- Set sticky bits: the S copy, and for a record visible to both worlds the NS copy. -/
def setSticky (s : State) (so : Bool) (bits : List (Nat × Nat)) : State :=
  bits.foldl (fun s b =>
    let v : Word := (1 : Word) <<< b.2
    let s := { s with flt := { s.flt with stickyS := mmod s.flt.stickyS b.1 0 (fun x => x ||| v) } }
    if so then s else ctlOr s (rSticky b.1) v) s

/-- The count and the latest class that SMB_FAULT shows. -/
def countFault (s : State) (cls : Nat) : State :=
  { s with plat := { s.plat with
      fltCount := if s.plat.fltCount = 0xFFFF#16 then s.plat.fltCount else s.plat.fltCount + 1
      fltLast := BitVec.ofNat 8 cls } }

/-- Write a record into the ring, or drop it (R478). -/
def writeRecord (s : State) (r : FaultRec) : State :=
  let so := r.flags.getLsbD 2
  let s := setSticky (countFault s r.cls) so (stickyBits r)
  let s := if r.cls = 5 then { s with plat := { s.plat with faultHold := true } } else s
  if s.flt.ring.length < 1024 then
    let s := { s with flt := { s.flt with ring := s.flt.ring ++ [r] } }
    if so then s else deviceEvent s
  else setSticky (ctlSet s rFltDropped (ctlGet s rFltDropped + 1)) so [(0, 9)]

/-! ## The tasks of a handling (R462, R463) -/

def residents (s : State) (l : Nat) : List Tid := (latheThreads s l).filter (fun t => (s.thr t).task.isSome)

def Handling.lathe (h : Handling) : Nat := h.unit.2

def Handling.evs (h : Handling) : List FaultEv := h.ev :: h.joined.map (fun j => j.ev)

/-- The threads whose tasks a REPLAYED handling abandons for a fault. -/
def replayThreads (s : State) (ev : FaultEv) : List Tid :=
  if ev.cause = cLmDirtyLost then residents s (unitOf ev.kind ev.index).2
  else if ev.cause = cTileEcc then
    match ev.thread with
    | some t => (coreThreads t.lathe.val t.core.val).filter (fun k => ownsContext s k)
    | none => []
  else if ev.cause = cCoreParity ∨ ev.cause = cDoubleTrap ∨ ev.cause = cLateError then ev.thread.toList
  else []

/-- The threads of the cores that a handling remaps. -/
def remapThreads (s : State) (h : Handling) : List Tid :=
  ((h.evs.filter (fun e => e.kind == 1)).map (fun e => e.index.toNat)).eraseDups.flatMap (fun k =>
    (coreThreads (k / 68) (k % 68)).filter (fun t => (s.thr t).task.isSome))

/-- The thread can still execute, so that its runtime is warned. -/
def canExecute (s : State) (t : Tid) : Bool :=
  let L := s.lathe t.lathe.val
  clockRuns s t && L.svc == .inService && L.power == 0 &&
    (match (s.thr t).st with
      | .waiting .doubleTrap => false
      | .waiting .poison => false
      | .waiting .latheFenced => false
      | .idle => false
      | _ => true)

/-- CORE_IP.pre for a thread that can execute; at once otherwise. -/
def preempt (s : State) (t : Tid) : State :=
  if (s.thr t).task.isNone then s
  else if canExecute s t then s.modThr t (fun x => { x with ipPre := true, preemptAt := some s.plat.devTime })
  else preempted s t

def preemptAll (s : State) (ts : List Tid) : State := ts.foldl preempt s

/-- A preempted thread has not yet been abandoned. -/
def draining (s : State) : Bool := s.threads.any (fun p => p.2.preemptAt.isSome && p.2.task.isSome)

/-- PREEMPT_TIMEOUT: 100 us after CORE_IP.pre was set. -/
def execPreemptTimeout (l : Fin 68) (s : State) : Oc :=
  .next (settle ((residents s l.val).foldl (fun s t =>
    match (s.thr t).preemptAt with
    | some p => if p.toNat + 100000 ≤ s.plat.devTime.toNat then preempted s t else s
    | none => s) s))

/-! ## The rungs -/

def modCur (s : State) (f : Handling → Handling) : State := { s with flt := { s.flt with cur := s.flt.cur.map f } }

/-- The lathe was declared dead: its threads are not preempted (R469). -/
def Handling.silent (h : Handling) : Bool := h.ev.cause == cSilent

/-- The first steps of a handling on the rung it has reached. -/
def beginRung (s : State) (h : Handling) : State :=
  let s := modCur s (fun h => { h with begun := h.cls + 1 })
  match h.cls with
  | 1 =>
    let cores := (h.evs.filter (fun e => e.cause == cCoreParity)).map (fun e => e.index.toNat)
    let s := { s with flt := { s.flt with avoid := (s.flt.avoid ++ cores).eraseDups } }
    preemptAll s (h.evs.flatMap (replayThreads s)).eraseDups
  | 2 => preemptAll s (remapThreads s h ++ h.evs.flatMap (replayThreads s)).eraseDups
  | 3 =>
    let l := h.lathe
    if (s.lathe l).svc ≠ .inService then s
    else
      let s := moveQueue (s.modLathe l (fun x => { x with retiring := true })) l
      if h.silent then s else preemptAll s (residents s l)
  | _ => s

/-- The recovery supervisor's bench core runs (01 R21). -/
def recoveryRuns (s : State) : Bool := clockOn s (.benchCore (if s.flt.recovery / 2 = 0 then 0 else 1))

/-- HANDLING_START: the next queued handling begins (R473). -/
def execHandlingStart (s : State) : Oc :=
  match s.flt.cur, s.flt.queue with
  | none, h :: r =>
    .next (if recoveryRuns s then settle (beginRung { s with flt := { s.flt with cur := some h, queue := r } } h) else s)
  | _, _ => .next s

/-! ## Ends of handlings -/

/-- A task of the overflow list that the retirement of lathe `l` left without an eligible lathe ends (R468). -/
def endStranded (h : Handling) (l : Nat) (r : List FaultRec × State) (q : Queued) : List FaultRec × State :=
  let s := { r.2 with overflow := r.2.overflow.erase q }
  let d := localOf q.snap.desc
  if q.replay then
    let n := noLatheRecord (faultDesc s d 4) h l q.snap.desc
    (r.1 ++ [n.1], n.2)
  else (r.1, noLatheEnd s d q.snap.affinity)

def stranded (s : State) (h : Handling) : List FaultRec × State :=
  if h.cls = 3 then
    (s.overflow.filter (fun q => (eligibles s q.snap).isEmpty)).foldl (endStranded h h.lathe) ([], s)
  else ([], s)

/-- The records are in the store: they enter the ring, and the handling is over. -/
def closeHandling (s : State) (recs : List FaultRec) : State :=
  settle (recs.foldl writeRecord { s with flt := { s.flt with cur := none } })

/-- A handling has ended on its class: its records are made and journalled. One of class REMAPPED or above waits for the
journal (R481). -/
def finishHandling (s : State) (h : Handling) : State :=
  let n := stranded s h
  let s := n.2
  let recs := ownRecord s h :: h.joined.map (joinedRecord s h) ++ n.1
  let s := recs.foldl (fun s r => journal s jFault (recBytes r)) s
  if 2 ≤ h.recClass ∧ !journalIdle s then modCur s (fun h => { h with recs := recs }) else closeHandling s recs

/-- The task of a thread ends LOST (R464). -/
def loseTask (s : State) (t : Tid) : State :=
  match (s.thr t).task with
  | some r => faultDesc (abandon s t) (localOf r.snap.desc) 4
  | none => s

/-- The tasks that a LOST handling ends, those of the nested faults it covers among them (R465, R472, Table 14-2). -/
def loseTasks (s : State) (h : Handling) : State :=
  h.evs.foldl (fun s e =>
    (if e.cause = cPoisonRead then e.thread.toList else replayThreads s e).foldl loseTask s) s

/-- An uncorrectable ferrule error restarts the shard-steps of the engine (R461). -/
def restartEngine (s : State) (b : Nat) : State :=
  (s.fer.works.filter (fun w => w.job % 2 == b && w.live.isSome)).foldl (fun s w =>
    match job? s w.job with
    | some J => restartStep s J (w.reread s)
    | none => s) s

def restartEngines (s : State) (h : Handling) : State :=
  h.evs.foldl (fun s e => if e.cause = cFerruleEcc ∧ e.hard then restartEngine s e.index.toNat else s) s

/-! ## Core remap (R466) -/

/-- The lowest-numbered spare core of a lathe. -/
def spareCore (s : State) (l : Nat) : Option Nat :=
  [64, 65, 66, 67].find? (fun c => !(s.core l c).inService && !coreRemoved s (ckey l c))

/-- A spare core takes the place of core `c`. -/
def swapCore (s : State) (l c k : Nat) : State :=
  let base := (s.core l c).xtvec
  let s := s.modCore l k (fun x => { x with inService := true, xtvec := base })
  let s := resetDomain s (ofCore l c)
  let s := { s with threads := s.threads.filter (fun p => p.1 / 8 != ckey l c) }
  let s := s.modCore l c (fun x => { resetCore l c x with inService := false })
  let s := s.modLathe l (fun x => { x with spareCores := x.spareCores - 1 })
  let s := { s with flt := { s.flt with avoid := s.flt.avoid.filter (fun a => a != ckey l c) } }
  addRepair s ⟨1, 3, BitVec.ofNat 16 (ckey l c), BitVec.ofNat 32 k, 0⟩

/-- The cores that a handling remaps and that are still in service. -/
def faultyCores (s : State) (h : Handling) : List Nat :=
  (((h.evs.filter (fun e => e.kind == 1)).map (fun e => e.index.toNat)).eraseDups).filter
    (fun k => (s.core (k / 68) (k % 68)).inService)

/-- REMAPPED of a core; with no spare core left the lathe is retired (Table 14-2). -/
def endRemap (s : State) (h : Handling) : State :=
  match faultyCores s h with
  | [] => finishHandling s h
  | ks =>
    if ks.length ≤ (s.lathe h.lathe).spareCores then
      let s := ks.foldl (fun s k =>
        match spareCore s (k / 68) with
        | some c => swapCore s (k / 68) (k % 68) c
        | none => s) s
      finishHandling s h
    else modCur s (fun h => { h with cls := 3 })

/-! ## Retirement (Table 14-5) -/

/-- Step 3 for one thread. The threads of a lathe whose clock is held keep their state; their tasks run elsewhere. -/
def takeTask (s : State) (t : Tid) : State :=
  match (s.thr t).task with
  | none => s
  | some r =>
    if clockRuns s t then replay (abandon s t) t.lathe.val r
    else replay (freeLocks (s.modThr t (fun x => { x with task := none, preemptAt := none })) (threadId t)) t.lathe.val r

/-- Steps 2 and 3: the lathe epoch is incremented, then every resident task is placed for replay. -/
def retireEpoch (s : State) (l : Nat) : State :=
  let s := s.modLathe l (fun x => { x with epoch := x.epoch + 1 })
  (residents s l).foldl takeTask s

/-- The die's spare lathe. -/
def spareLathe (s : State) (l : Nat) : Option Nat :=
  ((List.range 17).map (fun k => l / 17 * 17 + k)).find? (fun k => (s.lathe k).svc == .spare)

/-- Step 4: the lathe is retired, its island reset and powered off. -/
def retireOff (s : State) (l : Nat) (own : Bool) : State :=
  let s := clearLathe s l
  s.modLathe l (fun x => { x with
    svc := .retired, retiring := false, ownFault := x.ownFault || own, power := 0, waking := false, polls := 0 })

/-- The lathe's island is powered on for its self-test. -/
def underTest (s : State) (l : Nat) : State := s.modLathe l (fun x => { x with svc := .underTest })

/-- The repair item of a retirement: the spare that takes the lathe's place, or none. -/
def retireItem (s : State) (l : Nat) (spare : Option Nat) : State :=
  addRepair s ⟨0, 4, BitVec.ofNat 16 l, BitVec.ofNat 32 (spare.getD 0xFF), 0⟩

/-- A lathe enters service, cleared, with its runtime's trap base and standard slots. -/
def intoService (s : State) (l : Nat) (w : World) : State :=
  (clearLathe s l).modLathe l (fun x => { x with
    svc := .inService, world := w, carried := x.epoch, power := 0, waking := false, polls := 0, idleNoted := false
    powerSince := s.plat.devTime })

/-- The retirement goes on by one step. -/
def endRetire (s : State) (h : Handling) : State :=
  let l := h.lathe
  match h.step with
  | 0 =>
    if (s.lathe l).svc = .inService ∨ (s.lathe l).svc = .fenced then
      modCur (retireEpoch s l) (fun h => { h with step := 3 })
    else finishHandling s h
  | 3 =>
    let s := retireOff s l (h.ev.cause != cSilent && h.ev.cause != cStale)
    match spareLathe s l with
    | some k => modCur (underTest s k) (fun h => { h with step := 5, spare := some k })
    | none => finishHandling (retireItem s l none) h
  | _ => finishHandling s h

/-! ## A lathe-fenced lathe (R471) -/

/-- A lathe-fenced lathe, or one retired while its clock was held, is reset and tested; one retired for a fault of its own
is left. -/
def endStale (s : State) (h : Handling) : State :=
  let l := h.lathe
  let L := s.lathe l
  match h.step with
  | 0 =>
    if L.svc = .fenced ∨ (L.svc = .retired ∧ !L.ownFault) then
      let s := (residents s l).foldl takeTask s
      modCur (underTest (moveQueue (clearLathe s l) l) l) (fun h => { h with step := 5, spare := some l })
    else finishHandling s h
  | _ => finishHandling s h

/-- SPARE_SELF_TEST: the test of the lathe under test ends (Table 14-5 steps 5 to 7, R468, R471). -/
def execSpareSelfTest (l : Fin 68) (pass : Bool) (s : State) : Oc :=
  let k := l.val
  match s.flt.cur with
  | some h =>
    if h.step ≠ 5 ∨ h.spare ≠ some k then .next s
    else if h.lathe = k then
      if pass then
        let s := s.modLathe k (fun x => { x with svc := .spare, epoch := x.epoch + 1, carried := x.epoch + 1 })
        .next (modCur (addRepair s ⟨0, 5, BitVec.ofNat 16 k, 0, 0⟩) (fun h => { h with step := 7 }))
      else
        let s := s.modLathe k (fun x => { x with svc := .retired, ownFault := true })
        .next (modCur (retireItem s k none) (fun h => { h with step := 7, cls := 3, begun := 4, spare := none }))
    else if pass then
      let s := retireItem (intoService s k (s.lathe h.lathe).world) h.lathe (some k)
      .next (modCur s (fun h => { h with step := 7 }))
    else
      let s := s.modLathe k (fun x => { x with svc := .retired, ownFault := true })
      .next (modCur (retireItem (retireItem s h.lathe none) k none) (fun h => { h with step := 7, spare := none }))
  | none => .next s

/-! ## The end of a handling -/

/-- A port at width 4 enters the repair map with the lanes it uses (17 Table 17-8). -/
def widthItem (s : State) (ev : FaultEv) : State :=
  if ev.cause = cWidth4 ∧ (port s ev.index.toNat).degraded.length ≥ 2 then
    let m := ((healthyLanes (port s ev.index.toNat)).take 4).foldl (fun m l => m + 2 ^ l) 0
    addRepair s ⟨6, 7, ev.index, BitVec.ofNat 32 m, 0⟩
  else s

/-- The last steps of a handling on its rung, whose tasks have been abandoned. -/
def endRung (s : State) (h : Handling) : State :=
  match h.cls with
  | 0 => if h.ev.cause = cStale then endStale s h else finishHandling s h
  | 1 => finishHandling (restartEngines s h) h
  | 2 => if h.ev.kind = 1 then endRemap s h else finishHandling (widthItem s h.ev) h
  | 3 => endRetire s h
  | 5 => finishHandling (loseTasks s h) h
  | _ => finishHandling s h

/-- HANDLING_END: the handling goes on to the end of its present step; after the last one its records are written. -/
def execHandlingEnd (s : State) : Oc :=
  match s.flt.cur with
  | none => .next s
  | some h =>
    .next (if !recoveryRuns s then s
      else if !h.recs.isEmpty then (if journalIdle s then closeHandling s h.recs else s)
      else if h.begun ≠ h.cls + 1 then settle (beginRung s h)
      else if draining s || h.step == 5 || (h.catching && ((s.lathe h.unit.2).arr.caught).isSome) then s
      else endRung s h)

/-! ## Detected faults -/

/-- What a fault of a storage structure does to it (08 R318 to R320): a sole copy is poisoned, a clean line is invalidated and read
again, a dirty one is lost with its way. -/
def storageFault (s : State) (e : FaultEv) : State :=
  let k := e.kind.toNat
  let i := e.index.toNat
  if e.cause = cPoisonSet then setPoison s (localOf e.addr)
  else if e.cause = cCleanReread then dropLine s k i e.addr
  else if e.cause = cLmDirtyLost then loseDirty s k i e.addr
  else if e.cause = cTagParity ∧ e.hard then
    (if !heldDirty s k i e.addr then dropLine s k i e.addr
      else if k = 3 then setPoison (loseWay s k i e.addr) (localOf e.addr)
      else loseDirty s k i e.addr)
  else s

/-- FAULT_DETECTED. A stale request also fences the lathe that issued it (R470). A tag parity error of a dirty LM-cache line that
persists is the loss of that line (08 R319). -/
def execFaultDetected (e : FaultEv) (s : State) : Oc :=
  let e := if e.cause = cTagParity ∧ e.hard ∧ e.kind.toNat ≤ 2 ∧ heldDirty s e.kind.toNat e.index.toNat e.addr then
    { e with cause := cLmDirtyLost, kind := 0, index := BitVec.ofNat 16 (latheOfUnit e) } else e
  .next (if e.cause = cStale ∧ e.kind = 0 then detect (fenceLathe s e.index.toNat) e
    else detect (storageFault s e) e)

/-- LATHE_POLL (R469). -/
def execLathePoll (l : Fin 68) (answered : Bool) (s : State) : Oc :=
  let L := s.lathe l.val
  if L.svc ≠ .inService ∨ L.retiring ∨ !recoveryRuns s then .next s
  else if answered then .next (s.setLathe l.val { L with polls := 0 })
  else
    let s := s.setLathe l.val { L with polls := L.polls + 1 }
    .next (if L.polls + 1 = 8 then detect s (plainFault cSilent 0 l.val) else s)

/-! ## Supervisors (R460, R475) -/

/-- Pair 2b is the active pair of bench die b after a start, 2b + 1 its standby. -/
def supOf (s : State) (k : Nat) : SupState := mget s.flt.sup k (if k % 2 = 0 then .active else .standby)

def setSup (s : State) (k : Nat) (x : SupState) : State := { s with flt := { s.flt with sup := mset s.flt.sup k x } }

/-- The pair that acts after pair `k` has stopped: its partner, then the pairs of the other die, then itself where it passes
its test. -/
def successor (s : State) (k : Nat) : Option Nat :=
  let partner := if k % 2 = 0 then k + 1 else k - 1
  let o := 2 * (1 - k / 2)
  let other := if supOf s (o + 1) = .active then [o + 1, o] else [o, o + 1]
  ([partner] ++ other ++ [k]).find? (fun p => supOf s p != .out)

/-- SUPERVISOR_MISMATCH: the pair stops and is tested. -/
def execSupervisorMismatch (pair : Fin 4) (pass : Bool) (s : State) : Oc :=
  let k := pair.val
  if !s.plat.started ∨ supOf s k = .out then .next s
  else
    let was := supOf s k
    let partner := if k % 2 = 0 then k + 1 else k - 1
    let s := setSup s k (if pass then .standby else .out)
    let s := if pass then s else addRepair s ⟨9, 9, BitVec.ofNat 16 k, 0, 0⟩
    let s := if was = .active ∧ supOf s partner ≠ .out then setSup s partner .active else s
    let fault : FaultEv := ⟨cSupMismatch, 9, BitVec.ofNat 16 k, 0, none, 0, !pass⟩
    if s.flt.recovery ≠ k then .next (detect s fault)
    else
      match successor s k with
      | some p =>
        let s := setSup { s with flt := { s.flt with recovery := p } } p .active
        .next (detect (modCur s (fun h => { h with supFailover := true })) fault)
      | none => .next (stopNoRail s .supervisors)

/-! ## Sticky registers and commands -/

/-- FLT_STICKY_WRITE (R482). -/
def execFltStickyWrite (a : Agent) (n : Fin 8) (v : Word) (s : State) : Oc :=
  .next (regCommand s a (rSticky n.val) 8 v)

/-- The records that a world sees from a sequence number on, in seq order. -/
def visibleRecords (s : State) (w : World) (first : Word) : List FaultRec :=
  (s.flt.ring.filter (fun r => decide (first.toNat ≤ r.seq.toNat) && (w == .s || recWorld r == .ns))).mergeSort
    (fun a b => decide (a.seq.toNat ≤ b.seq.toNat))

/-- FAULT_LOG_READ (R479). -/
def execFaultLogRead (q n : Nat) (s : State) : Oc :=
  runCmd s 0x60 q n fun c w =>
    let first := c.addr 0x18
    let rs := (visibleRecords s w first).take (c.u 0x0C 4)
    let buf : KRange := ⟨c.addr 0x10, 64 * rs.length, c.host 0⟩
    checked s c w { param := buf.bad s, world := buf.other s w }
      (endCmd (extWrite s c.linkLost buf.host buf.addr (rs.flatMap recBytes)) c stOk (BitVec.ofNat 32 rs.length)
        ((rs.getLast?.map (fun r => r.seq + 1)).getD first))

/-- The status registers of the lathes of a world that FAULT_CLEAR clears (10 R391). -/
def clearLatheStats (s : State) (w : World) : State :=
  (List.range 68).foldl (fun s l =>
    if (s.lathe l).world = w then
      [rCvtstat l, rFnstat l, rArrStat l].foldl (fun s r => if ctlGet s r = 0 then s else ctlSet s r 0) s
    else s) s

/-- FAULT_CLEAR (R480; 10 R391; from the NS world also 12 R454). -/
def faultClear (s : State) (w : World) (below : Word) : State :=
  let s := { s with flt := { s.flt with
    ring := s.flt.ring.filter (fun r => !(recWorld r == w && decide (r.seq.toNat < below.toNat))) } }
  let s := if w = .s then { s with flt := { s.flt with stickyS := [] } }
    else (List.range 8).foldl (fun s k => ctlSet s (rSticky k) 0) s
  let s := if w = .ns then ctlSet (ctlSet s rFrlStat 0) rFrlLate 0 else s
  ctlSet (ctlSet (clearLatheStats (clearFaultHold s) w) rTaskstat 0) rHifErr 0

def execFaultClear (q n : Nat) (s : State) : Oc :=
  runCmd s 0x61 q n fun c w => endWith (faultClear s w c.fltSeq) c stOk

end Sys2Proof.Machine
end

