-- ==== Sys2Proof/Machine/Power.lean ====
section
/-!
DEFINITION. Power states, profiles and temperature (16): idle decisions, standby, waking, the cap, and the thermal thresholds.
-/

namespace Sys2Proof.Machine

/-! ## Latency tolerance and idle decisions (R507 to R510) -/

/-- The effective tolerance T. -/
def effTol (s : State) : Nat := min s.pwr.tolNs.toNat s.pwr.tolS.toNat

/-- Wake times of A1 to A4 in ns (Table 16-1). -/
def wakeTime (k : Nat) : Nat :=
  match k with
  | 0 => 0
  | 1 => 1000
  | 2 => 50000
  | 3 => 2000000
  | _ => 200000000

/-- The deepest of A0 to A3 whose wake time does not exceed T. -/
def deepest (T : Nat) : Nat := if wakeTime 3 ≤ T then 3 else if wakeTime 2 ≤ T then 2 else if wakeTime 1 ≤ T then 1 else 0

/-- Nothing is resident, queued or outstanding on lathe `l` (R509). -/
def latheIdleNow (s : State) (l : Nat) : Bool :=
  let L := s.lathe l
  L.svc == .inService && !latheResident s l && queuedCount L == 0 && L.arr.passes.isEmpty && L.arr.caught.isNone &&
    s.cores.all (fun p => p.1 / 68 != l ||
      (p.2.tileQ.isEmpty && p.2.finQ.isEmpty && p.2.drainEnd.isNone && p.2.lvAccess.isNone))

/-- An A3 lathe keeps only its LM, its slots 0 to 11, and the trap base of each core; its place in the repair map stands. -/
def parkCore (l c : Nat) (x : Core) : Core := { coreInit l c with inService := x.inService, xtvec := x.xtvec, lm := x.lm }

def parkLathe (s : State) (l : Nat) : State :=
  let park (p : Nat × Core) : Nat × Core := if p.1 / 68 = l then (p.1, parkCore l (p.1 % 68) p.2) else p
  let s := { s with
    threads := s.threads.filter (fun p => p.1 / 544 != l)
    cores := s.cores.map park
    ctl := s.ctl.filter (fun p => !(decide (rLathe l ≤ p.1) && decide (p.1 < rLathe l + 0x40000))) }
  s.modLathe l (fun x => { x with
    tcfgQ := [], tileFree := 4096, accFree := 2048
    slots := standardSlots.foldl (fun m p => mset m p.1 p.2) x.slots
    arr := { removedRows := x.arr.removedRows, removedCols := x.arr.removedCols } })

/-- The L1 caches of lathe `l` are invalidated, and the dirty lines of its LM cache written back (Table 16-1). -/
def flushLathe (s : State) (l : Nat) : State :=
  let flush (p : Nat × Core) : Nat × Core := if p.1 / 68 = l then (p.1, { p.2 with icache := [] }) else p
  let s := lmClean { s with cores := s.cores.map flush } l (fun _ => true)
  { s with caches := { s.caches with l1d := s.caches.l1d.filter (fun p => p.1 / 4352 != l) } }

/-- Entry to a deeper state: the caches are flushed from A2 on, and from A3 on the island is off. -/
def enterPower (s : State) (l k : Nat) : State :=
  let s := if 2 ≤ k then flushLathe s l else s
  let s := if k = 3 then parkLathe (clearCaches s l) l else s
  s.modLathe l (fun x => { x with power := k, powerSince := s.plat.devTime })

/-- The idle decision for lathe `l`: a deeper state, or a wake to the state allowed. -/
def decideIdle (s : State) (l : Nat) : State :=
  let L := s.lathe l
  let d := deepest (effTol s)
  if L.waking then s
  else if L.power < d then enterPower s l d
  else if d < L.power then
    (if d = 0 then s.modLathe l (fun x => { x with waking := true })
     else s.modLathe l (fun x => { x with power := d, powerSince := s.plat.devTime }))
  else s

/-- A lathe that is idle, or asleep, takes part in idle decisions. -/
def decides (s : State) (l : Nat) : Bool :=
  let L := s.lathe l
  L.svc == .inService && !L.retiring && (L.power != 0 || (L.idleNoted && latheIdleNow s l))

/-- LATHE_IDLE: the lathe has been idle for 1 us without a break. -/
def execLatheIdle (l : Fin 68) (s : State) : Oc :=
  .next (if s.plat.ready && !s.pwr.standby && latheIdleNow s l.val && !(s.lathe l.val).retiring then
      decideIdle (s.modLathe l.val (fun x => { x with idleNoted := true })) l.val
    else s)

/-- T has changed: every idle lathe is decided again, and in A4 a T that no longer meets R511 wakes the device. -/
def decideAll (s : State) : State :=
  let s := if s.pwr.standby ∧ effTol s < wakeTime 4 then { s with pwr := { s.pwr with waking := true } } else s
  if s.pwr.standby then s
  else (List.range 68).foldl (fun s l => if decides s l then decideIdle s l else s) s

/-- SET_LATENCY_TOLERANCE (R507; 10 Table 10-9). -/
def execSetLatencyTolerance (q n : Nat) (s : State) : Oc :=
  runCmd s 0x50 q n fun c w =>
    let v := BitVec.ofNat 32 (c.u 0x0C 4)
    let old := if w = .s then s.pwr.tolS else s.pwr.tolNs
    let T := effTol s
    let s := endCmd s c stOk old 0
    let s := if w = .s then { s with pwr := { s.pwr with tolS := v } } else { s with pwr := { s.pwr with tolNs := v } }
    if effTol s = T then s else decideAll s

/-! ## Standby (R511 to R513) -/

/-- A queue has a packet that can be fetched, or a command is fetched. -/
def commandsWait (s : State) : Bool := !s.host.cmds.isEmpty || s.host.queues.any (fun p => queueReady s p.1)

/-- Every in-service lathe has been in A3 for at least 10 ms. -/
def allParked (s : State) : Bool :=
  (List.range 68).all (fun l =>
    let L := s.lathe l
    L.svc != .inService || (L.power == 3 && !L.waking && decide (L.powerSince.toNat + 10000000 ≤ s.plat.devTime.toNat)))

/-- A mailbox queue holds a message. -/
def mailWaits (s : State) : Bool :=
  s.mbx.any (fun p => !p.2.e0.msgs.isEmpty || !p.2.e0.part.isEmpty || !p.2.e1.msgs.isEmpty || !p.2.e1.part.isEmpty)

/-- The conditions of R511. -/
def mayStandby (s : State) : Bool :=
  s.plat.ready && !s.pwr.standby && decide (wakeTime 4 ≤ effTol s) && allParked s && !commandsWait s &&
    !s.fer.works.any (fun w => w.live.isSome) && !mailWaits s && s.flt.cur.isNone && s.flt.queue.isEmpty

/-- The die caches are written back and powered off (Table 16-1); their copies of remote lines are gone. -/
def offDieCaches (s : State) : State :=
  { s with caches := { s.caches with die := dropAll (fun _ => true) s.caches.die }, mem := { s.mem with rcopies := [] } }

/-- A4_ENTRY. A chain packet that waits wakes the device again. -/
def execA4Entry (s : State) : Oc :=
  .next (if mayStandby s then
      { offDieCaches s with pwr := { s.pwr with standby := true, waking := !s.chain.rxq.isEmpty } }
    else s)

/-! ## Waking (R508, R512) -/

/-- The threads that wait for lathe `l` issue again. -/
def wakeWaiters (s : State) (l : Nat) : State :=
  (allThreads s).foldl (fun s t => if (s.thr t).st = .waiting (.wake l) then makeReady s t else s) s

/-- Lathe `l` is awake: it can start a task. -/
def latheAwake (s : State) (l : Nat) : State :=
  wakeWaiters (s.modLathe l (fun x => { x with power := 0, waking := false, idleNoted := false, powerSince := s.plat.devTime })) l

/-- The device leaves A4: every in-service lathe is back in A0. -/
def deviceAwake (s : State) : State :=
  let s := { s with pwr := { s.pwr with standby := false, waking := false } }
  (List.range 68).foldl (fun s l => if (s.lathe l).svc = .inService then latheAwake s l else s) s

/-! ## Profiles (R518 to R520) -/

/-- The limit of a profile over 1 ms, in W. -/
def profileLimit (p : BitVec 2) : Nat := if p = 0 then 1995 else if p = 1 then 1155 else 683

/-- The profile last named is in force, and every SET_PROFILE completes. -/
def forceProfile (s : State) (p : BitVec 2) : State :=
  let done (c : Cmd) : Cmd := if c.wait = .profile then { c with wait := .done } else c
  { s with
    pwr := { s.pwr with profile := p, target := none }
    host := { s.host with cmds := s.host.cmds.map done } }

/-- SET_PROFILE: a change to a higher cap is in force at once. -/
def execSetProfile (q n : Nat) (s : State) : Oc :=
  runCmd s 0x51 q n fun c w =>
    let k := c.u 0x0C 1
    let p := BitVec.ofNat 2 k
    checked s c w { param := decide (2 < k) }
      (let s := s.modCmd c.q c.n.toNat (fun c => { c with wait := .profile, result := s.pwr.profile.setWidth 32 })
       if p.toNat ≤ s.pwr.profile.toNat then forceProfile s p else { s with pwr := { s.pwr with target := some p } })

/-- PROFILE_IN_FORCE: the draw is within the limit of the profile last named. -/
def execProfileInForce (s : State) : Oc :=
  match s.pwr.target with
  | some p => .next (if meanPower s 100 ≤ profileLimit p then forceProfile s p else s)
  | none => .next s

/-- POWER_SAMPLE: the package power of 10 us; `limited`: R519 holds an island below its ceiling. -/
def execPowerSample (watts : Nat) (limited : Bool) (s : State) : Oc :=
  .next (if s.plat.started then
      { s with pwr := { s.pwr with samples := (watts :: s.pwr.samples).take 10000, capLimited := limited } }
    else s)

/-! ## Temperature (R521 to R524) -/

/-- A threshold with hysteresis on each reading: reached at `hi`, held until below `lo`. -/
def hysteresis (old : List Nat) (ts : List Nat) (hi lo : Nat) : List Nat :=
  (List.range ts.length).filter (fun k => decide (hi ≤ ts.getD k 0) || (old.contains k && decide (lo ≤ ts.getD k 0)))

def diesOf (t : Temps) : List Nat := t.lathe ++ t.bench

/-- THERM_N is driven from the sensors (R523). -/
def thermOf (old : Bool) (t : Temps) : Bool :=
  (diesOf t).any (fun x => decide (105 ≤ x)) || t.hbm.any (fun x => decide (95 ≤ x)) ||
    (old && ((diesOf t).any (fun x => decide (100 ≤ x)) || t.hbm.any (fun x => decide (93 ≤ x))))

/-- The stop of a hardware shutdown holds THERM_N low throughout. -/
def thermalStop (s : State) : Bool := s.plat.stop == some .thermal && s.plat.held.isNone

/-- THERMAL_SAMPLE: bench management reads the sensors, and firmware, where it runs, applies Table 16-5. Dies 0 to 3 are the
lathe dies, 4 and 5 the bench dies. -/
def execThermalSample (temps : Temps) (s : State) : Oc :=
  let s := { s with
    pwr := { s.pwr with temps := temps }
    plat := { s.plat with therm := thermalStop s || thermOf s.plat.therm temps } }
  .next (if s.plat.started then
      { s with pwr := { s.pwr with
        throttled := (diesOf temps).any (fun x => decide (95 ≤ x)) ||
          (s.pwr.throttled && (diesOf temps).any (fun x => decide (93 ≤ x)))
        gated := hysteresis s.pwr.gated (diesOf temps) 105 103
        refresh2x := hysteresis s.pwr.refresh2x temps.hbm 85 83
        halfBw := hysteresis s.pwr.halfBw temps.hbm 95 93 } }
    else s)

/-- HARDWARE_SHUTDOWN: the comparator of a die at 115 C (R524). -/
def execHardwareShutdown (_die : Fin 6) (s : State) : Oc :=
  .next (if s.plat.stop.isSome && s.plat.held.isNone then s
    else
      let s := stopNoRail s .thermal
      { s with plat := { s.plat with therm := true } })

/-! ## The SMBus registers (01 R48, R49) -/

/-- SMB_ID. -/
def smbId : BitVec 32 := 0x0048A101

/-- SMB_STATE as the device stands. -/
def smbStateNow (s : State) : BitVec 32 :=
  BitVec.ofNat 32 (s.chain.addr.toNat * 2 ^ 16 + deviceState s * 2 ^ 12 + s.plat.stage.toNat * 2 ^ 8 + s.pwr.profile.toNat * 4) |||
    ((flagAt s.plat.ready 7 ||| flagAt (s.chain.st == .fenced) 6 ||| flagAt s.plat.faultHold 5 ||| flagAt s.plat.therm 4).setWidth 32)

/-- SMB_THERMAL as the device stands; the lathe dies are unpowered while PWR_OK is low. -/
def smbThermalNow (s : State) : BitVec 32 :=
  let byte (n : Nat) : Nat := min n 255
  BitVec.ofNat 32 ((if s.plat.pwrOk then byte (maxList s.pwr.temps.lathe) else 0) * 2 ^ 24 +
    byte (maxList s.pwr.temps.bench) * 2 ^ 16 + meanPower s 100 % 65536)

/-- SMB_FAULT as the device stands. -/
def smbFaultNow (s : State) : BitVec 32 := BitVec.ofNat 32 (s.plat.fltCount.toNat * 2 ^ 16 + s.plat.fltLast.toNat * 2 ^ 8)

/-- Bench management takes the image that the SMBus registers show. -/
def takeImage (s : State) : State :=
  { s with plat := { s.plat with
      smbState := smbStateNow s, smbThermal := smbThermalNow s, smbFault := smbFaultNow s, smbAt := s.plat.devTime } }

end Sys2Proof.Machine
end

