-- ==== Sys2Proof/Machine/Startup.lean ====
section
/-!
DEFINITION. The start of the device (01 R35 to R39, 15 R493 to R506, 17 R528 to R548): images and their checks, secure and
recovery boot, the replay of the repair map, DEV_READY, resets and losses of power, and the image and quote commands.
-/

namespace Sys2Proof.Machine

/-! ## Images (15 Table 15-6, Table 15-7) -/

abbrev Image := List (Nat × Byte)

def imgU (m : Image) (off n : Nat) : Nat := leNat (cellRead m off n)

def imgFlags (m : Image) : Nat := imgU m 6 2
def imgSvn (m : Image) : Nat := imgU m 8 2
def imgKeySlot (m : Image) : Nat := imgU m 10 1
def imgVersion (m : Image) : Nat := imgU m 12 4
def imgLen (m : Image) : Nat := imgU m 16 4

/-- No listed byte in a range: every byte of it is zero. -/
def imgZero (m : Image) (off n : Nat) : Bool := m.all (fun p => !(decide (off ≤ p.1) && decide (p.1 < off + n) && p.2 != 0))

/-- Check 2 of Table 15-7. -/
def headerOk (m : Image) : Bool :=
  let entry := imgU m 20 4
  imgU m 0 4 == 0x5A544B01 && imgU m 4 2 == 1 && decide (imgFlags m < 4) && imgZero m 11 1 && imgZero m 0x18 40 &&
    imgZero m 0x7520 0xAE0 && decide (imgLen m % 64 = 0) && decide (64 ≤ imgLen m) && decide (imgLen m ≤ 64 * mib) &&
    decide (entry % 8 = 0) && decide (entry < imgLen m)

/-- The reason that rejects an image, or 0 (15 R494). `ok`: it reads without an uncorrectable error. -/
def imageReason (fz : Fuses) (m : Image) (ok : Bool) : Nat :=
  let pk := cellRead m 0x80 64
  if !ok then 6
  else if !headerOk m then 1
  else if 3 < imgKeySlot m ∨ fz.revoke.getLsbD (imgKeySlot m) ∨ shake512 pk ≠ mget fz.keys (imgKeySlot m) 0 then 2
  else if 128 < imgSvn m ∨ imgSvn m < fz.fused then 3
  else if !Config.slhVerify pk (cellRead m 0 0xC0) (cellRead m 0xC0 29792) then 4
  else if shake256 (cellRead m 0x8000 (imgLen m)) 64 ≠ cellRead m 0x40 64 then 5
  else 0

/-- The bytes of an image of length `n`. -/
def imgTake (m : Image) (n : Nat) : Image := m.filter (fun p => decide (p.1 < n))

/-! ## DEV_BOOT (15) -/

def lifeCode (x : BitVec 2) : Nat := if x = 3 then 2 else x.toNat

def identityBad (s : State) : Bool := !s.sec.keyOk || s.sec.fuses.sealed

/-- The parts of DEV_BOOT. -/
structure BootRes where
  version : Nat := 0
  svn : Nat := 0
  failA : Nat := 0
  failB : Nat := 0
  recovery : Bool := false
  fallback : Bool := false
  rom : Bool
  slot : Bool := false

def bootWord (s : State) (b : BootRes) : Word :=
  BitVec.ofNat 64 (b.version * 2 ^ 32 + s.sec.fuses.fused % 256 * 2 ^ 24 + b.svn % 256 * 2 ^ 16 + b.failA * 2 ^ 12 + b.failB * 2 ^ 8 +
      lifeCode s.sec.fuses.lifecycle * 2 ^ 6) |||
    (flagAt b.recovery 5 ||| flagAt b.fallback 4 ||| flagAt b.rom 3 ||| flagAt (identityBad s) 2 ||| flagAt b.slot 0)

def setBoot (s : State) (b : BootRes) : State := ctlSet s rBoot (bootWord s b)

/-! ## Measurements of a start (15 Table 15-10) -/

/-- The 64-byte record that M0 is extended with. -/
def m0Record (s : State) (rom : Bool) (keySlot : Byte) : List Byte :=
  leBytes 4 (Config.romVersion (if rom then 1 else 0)).toNat ++ [s.sec.fuses.lifecycle.setWidth 8, BitVec.ofNat 8 s.sec.fuses.fused,
    keySlot, s.sec.fuses.revoke.setWidth 8, s.plat.straps.setWidth 8] ++ List.replicate 55 0

def extendM0 (s : State) (rom : Bool) (keySlot : Byte) : State := extendMeas s 0 (shake256 (m0Record s rom keySlot) 64)

def extendM1 (s : State) (m : Image) : State :=
  extendMeas (extendMeas s 1 (shake256 (cellRead m 0 0x7520) 64)) 1 (cellRead m 0x40 64)

/-- The bytes of a journal entry (17 Table 17-4). -/
def entryBytes (e : JEntry) : List Byte :=
  leBytes 4 0x5A4A4E01 ++ leBytes 2 e.type.toNat ++ leBytes 2 e.payload.length ++ leBytes 8 e.seq.toNat ++ List.replicate 16 0 ++
    e.payload ++ List.replicate (pad16 e.payload.length - e.payload.length) 0 ++ entryTag e

/-- The CONFIG entries that recovery replays, in journal order. -/
def configReplayed (x : Store) : List JEntry :=
  match winner x with
  | some w =>
    (replayed (if w then x.half1 else x.half0)).filter (fun e => e.type == jConfig)
  | none => []

def extendM2 (s : State) (es : List JEntry) : State := es.foldl (fun s e => extendMeas s 2 (shake256 (entryBytes e) 64)) s

/-- H of the repair map in force. -/
def repairDigest (s : State) : List Byte := shake256 (s.store.repair.flatMap repairBytes) 64

/-- A function table as image bytes (07 Table 7-4); `id`: its ident word. -/
def tableImage (id : BitVec 32) (t : FTable) : List Byte :=
  let w (x : F32) : List Byte := leBytes 4 x.toNat
  leBytes 4 id.toNat ++ List.replicate 4 0 ++ w t.lo ++ w t.hi ++ w t.scale ++ w t.la ++ w t.lb ++ w t.ra ++ w t.rb ++
    List.replicate 28 0 ++ (List.range 256).flatMap (fun i =>
      match t.coef[i]? with
      | some c => w c.1 ++ w c.2.1 ++ w c.2.2
      | none => List.replicate 12 0)

/-- A standard image; the ident word of its derivative table is not stated and is free. -/
def slotImageBytes (k : Nat) : List Byte :=
  let x := standardSlot k
  tableImage x.ident x.fwd ++ tableImage (Config.standardImage k true 768) x.der

def extendM5 (s : State) : State := [12, 13, 14, 15].foldl (fun s k => extendMeas s 5 (shake256 (slotImageBytes k) 64)) s

/-! ## The repair map (17 R545 to R548) -/

/-- Whether a DRAM row item names a spare row that exists and is free. -/
def spareRowFree (s : State) (r : RepairItem) : Bool :=
  decide (r.a.toNat < spareRows r.kind) &&
    !s.mem.rows.any (fun x => x.kind == r.kind && x.index == r.index && x.spare == some r.a.toNat)

def replayLathe (s : State) (r : RepairItem) : Option State :=
  let l := r.index.toNat
  if 68 ≤ l then none
  else if r.action = 5 then some (s.modLathe l (fun x => { x with svc := .spare }))
  else
    let off (s : State) : State := s.modLathe l (fun x => { x with svc := .retired, ownFault := true })
    if r.a = 0xFF#32 then some (off s)
    else
      let k := r.a.toNat
      if k < 68 ∧ k / 17 = l / 17 ∧ (s.lathe k).svc = .spare then
        some ((off s).modLathe k (fun x => { x with svc := .inService }))
      else none

def replayCore (s : State) (r : RepairItem) : Option State :=
  let l := r.index.toNat / 68
  let c := r.index.toNat % 68
  let k := r.a.toNat
  if l < 68 ∧ 64 ≤ k ∧ k < 68 ∧ (s.core l c).inService ∧ !(s.core l k).inService then
    some ((((s.modCore l c (fun x => { x with inService := false })).modCore l k (fun x => { x with inService := true })).modLathe l
      (fun x => { x with spareCores := x.spareCores - 1 })))
  else none

def replayArray (s : State) (r : RepairItem) : Option State :=
  let l := r.index.toNat
  let u := (s.lathe l).arr
  if 68 ≤ l then none
  else if r.action = 1 then
    (if r.a.toNat < 130 ∧ u.removedRows.length < 2 then
      some (modArr s l (fun u => { u with removedRows := u.removedRows ++ [r.a.toNat] })) else none)
  else if r.a.toNat < 514 ∧ u.removedCols.isEmpty then
    some (modArr s l (fun u => { u with removedCols := u.removedCols ++ [r.a.toNat] }))
  else none

/-- A failed lane: lane 8 takes the place of the first. -/
def failLane (x : Port) (lane : Nat) : Port :=
  if x.degraded.contains lane then x
  else { x with degraded := x.degraded ++ [lane], spareUsed := x.spareUsed || (x.degraded.isEmpty && lane != 8) }

def replayPort (s : State) (r : RepairItem) : Option State :=
  let p := r.index.toNat
  if 40 ≤ p then none
  else if r.action = 6 then (if r.a.toNat < 9 then some (modPort s p (fun x => failLane x r.a.toNat)) else none)
  else some (modPort s p (fun x => { x with
    narrow := true, width4 := (List.range 9).filter (fun k => r.a.getLsbD k), spareUsed := false }))

/-- Replay of one item; none: it names a unit or spare that does not exist, or a spare in use (R547). -/
def replayItem (s : State) (r : RepairItem) : Option State :=
  match r.action.toNat, r.kind.toNat with
  | 1, 2 => replayArray s r
  | 2, 2 => replayArray s r
  | 3, 1 => replayCore s r
  | 4, 0 => replayLathe s r
  | 5, 0 => replayLathe s r
  | 6, 6 => replayPort s r
  | 7, 6 => replayPort s r
  | 8, 4 => if r.index.toNat < 8 ∧ spareRowFree s r then some (setRow s ⟨r.kind, r.index, r.b, [], some r.a.toNat⟩) else none
  | 8, 5 => if r.index.toNat < 12 ∧ spareRowFree s r then some (setRow s ⟨r.kind, r.index, r.b, [], some r.a.toNat⟩) else none
  | 9, 9 => if r.index.toNat < 4 then some (setSup s r.index.toNat .out) else none
  | _, _ => none

def replayMap (s : State) : State :=
  s.store.repair.foldl (fun s r =>
    match replayItem s r with
    | some s => s
    | none => ctlOr s rStore 8) s

/-! ## Memory at a start (08 R300 to R308) -/

def capOk (n : Nat) : Bool := n == 32 || n == 64 || n == 128 || n == 256

/-- MEM_MRDCHc.state of a channel (08 R303). -/
def moduleState (m : Module) : Nat :=
  if !m.present then 0
  else if !m.trained then 3
  else if m.mrdimm && m.ecc && capOk m.capGiB && decide (64 ≤ m.rate) then 1 else 2

def emptyModule : Module := ⟨false, false, false, 0, 0, 0, false⟩

def moduleReg (m : Module) : Word :=
  let st := moduleState m
  BitVec.ofNat 64 ((if st = 0 ∨ st = 2 then 0 else m.capGiB % 65536) * 2 ^ 16 + (if st = 1 then min 88 m.rate else 0) * 2 ^ 8 +
    (if m.present then m.width % 4 else 0) * 2 ^ 4 + st)

/-- MEM_MRD: enabled channels, interleave, capacity (08 R304). -/
def mrdReg (ms : List Module) : Word :=
  let en := (indexed ms).filter (fun p => moduleState p.2 == 1)
  let same := match en with
    | [] => false
    | [_] => false
    | a :: r => r.all (fun b => b.2.capGiB == a.2.capGiB && min 88 b.2.rate == min 88 a.2.rate)
  BitVec.ofNat 64 ((en.foldl (fun n p => n + p.2.capGiB) 0) * 2 ^ 32 + (if same then 2 ^ 16 else 0) +
    en.foldl (fun n p => n + 2 ^ p.1) 0)

def trainModules (s : State) (modules : List Module) : State :=
  let ms := (List.range 12).map (fun c => modules.getD c emptyModule)
  let s := (indexed ms).foldl (fun s p =>
    let s := ctlSet s (rMrdch p.1) (moduleReg p.2)
    if 2 ≤ moduleState p.2 then detect s (plainFault cMrdDisabled 5 p.1) else s) s
  ctlSet s rMemMrd (mrdReg ms)

def resvBase : Nat := 0x8F00000000

def setRat (s : State) (i : Nat) (base lim : Word) : State :=
  let s := ctlSet (ctlSet s (rRatBase i) base) (rRatLim i) lim
  { s with mem := { s.mem with rat := mset (mset s.mem.rat (2 * i) base) (2 * i + 1) lim } }

/-- The areas of reserved HBM that registers name: the scale table and, apart from it, the violation log. -/
def scaleSlot : Nat := Config.firmwarePlace 0 % 512
def vlogSlot : Nat :=
  let k := Config.firmwarePlace 1 % 32704
  if k < 64 * scaleSlot then k else k + 64

/-- Step 9 of Table 17-1: HBM is reserved and the registers marked FW are written. -/
def firmwareRegs (s : State) (rom : Bool) : State :=
  let s := ctlSet s rMemResv (BitVec.ofNat 64 (4 * 2 ^ 48 + resvBase))
  let s := setRat s 0 (BitVec.ofNat 64 (resvBase + 0x291)) (BitVec.ofNat 64 (resvBase + 0xFFFFF000))
  let s := ctlSet s rRatdef 0x280
  let s := { s with mem := { s.mem with rat := mset s.mem.rat 512 0x280 } }
  let s := ctlSet s rScaleBase (BitVec.ofNat 64 (resvBase + scaleSlot * 8 * mib))
  let s := ctlSet s rVbase (BitVec.ofNat 64 (resvBase + vlogSlot * 131072))
  let s := ctlSet s rMemMode 0xC0
  let s := ctlSet s rScalePolicy 3
  let cfg : Word := BitVec.ofNat 64 (0x180000000000 + (if rom then 0x12 else 0x10) * 2 ^ 16 + 1)
  let s := [0, 1, 2, 3].foldl (fun s m => ctlSet s (rMbx m) cfg) s
  (List.range 68).foldl (fun s l => s.modLathe l (fun x => { x with epoch := 1, carried := 1 })) s

/-! ## The start (17 Table 17-1) -/

/-- Steps 5 and 10: the journal is recovered and the repair map replayed. -/
def recoverStore (s : State) : State :=
  let es := configReplayed s.store
  let r := s.store.recover
  let s := { s with store := r.1 }
  let s := ctlSet s rFltSeq r.2.1
  let s := { s with store := { s.store with stops := putStop s.store.stops (.highWater (r.2.1 + 65536)) } }
  let s := ctlOr s rStore (flagAt r.2.2.1 2 ||| flagAt r.2.2.2 1)
  let s := { s with plat := { s.plat with compactDue := r.2.2.2 } }
  let s := extendM2 s es
  extendMeas (replayMap s) 3 (repairDigest s)

/-- Lanes found failed in training enter the repair map (11 R405). -/
def failedLanes (s : State) (ls : List (Fin 40 × Fin 9)) : State :=
  ls.foldl (fun s p =>
    if (port s p.1.val).degraded.contains p.2.val then s
    else
      let s := modPort s p.1.val (fun x => failLane x p.2.val)
      let s := addRepair s ⟨6, 6, BitVec.ofNat 16 p.1.val, BitVec.ofNat 32 p.2.val, 0⟩
      detect s (laneFault cWidth4 p.1.val p.2.val)) s

/-- Step 11: self-test of the lathes in service, slots 12 to 15, prior fault records. -/
def testLathes (s : State) (bad : List (Fin 68)) : State :=
  let s := (List.range 68).foldl (fun s l =>
    if (s.lathe l).svc = .inService then s.modLathe l (fun x => { x with slots := standardSlots }) else s) s
  let s := { s with flt := { s.flt with ring := s.store.summary.map (fun r => { r with flags := r.flags ||| 16 }) } }
  bad.foldl (fun s l => if (s.lathe l.val).svc = .inService then detect s (plainFault cCatchRetire 0 l.val) else s) s

/-- A bench die without its chain reference clock logs the loss (01 R43). -/
def clockLosses (s : State) : State :=
  let s := if s.plat.clockDown0 then detect s (plainFault cClock 11 1) else s
  if s.plat.clockDown1 then detect s (plainFault cClock 11 2) else s

/-- The recovery supervisor after a start: the first pair in service, from the booting die on (14 R460). -/
def startSupervisor (s : State) (rom : Bool) : State :=
  let b := if rom then 1 else 0
  match [2 * b, 2 * b + 1, 2 - 2 * b, 3 - 2 * b].find? (fun p => supOf s p != .out) with
  | some p => setSup { s with flt := { s.flt with recovery := p } } p .active
  | none => stopNoRail s .supervisors

/-- Firmware runs: steps 5 to 11. -/
def runFirmware (s : State) (env : StartEnv) (rom : Bool) : State :=
  match env.hbmFail with
  | some k => failedStart s 3 k.val
  | none =>
    let s := recoverStore (firmwareRegs { s with plat := { s.plat with stage := 5 } } rom)
    let s := clockLosses (failedLanes (trainModules s env.modules) env.lanesFailed)
    startSupervisor (extendM5 (testLathes s env.selfTestFail)) rom

/-- An image that moves the part to RETURNED, or is to advance the fused version (15 R492, R498). -/
def imageFlags (s : State) (m : Image) : State :=
  let fz := s.sec.fuses
  let s := if (imgFlags m).testBit 1 then
      { s with sec := { s.sec with keyOk := false, fuses := { fz with sealed := true, lifecycle := 3 } } }
    else s
  if (imgFlags m).testBit 0 ∧ fz.fused < imgSvn m then { s with plat := { s.plat with advance := some (imgSvn m) } } else s

/-- Firmware is entered from a slot (15 Table 15-8 step 3). -/
def enterImage (s : State) (env : StartEnv) (b : BootRes) (m : Image) : State :=
  let s := imageFlags (extendM1 s m) m
  let b := { b with version := imgVersion m, svn := imgSvn m }
  runFirmware (setBoot { s with plat := { s.plat with stage := 3 } } b) env b.rom

/-- A normal boot (15 R495): the active slot, then the other. -/
def secureBoot (s : State) (env : StartEnv) (rom : Bool) : State :=
  let a := activeSlot s.store
  let ok (slot : Bool) : Bool := if slot then env.slotOk.2 else env.slotOk.1
  let first := slotImage s.store a
  let other := slotImage s.store (!a)
  let s := extendM0 s rom (BitVec.ofNat 8 (imgKeySlot first))
  let r1 := imageReason s.sec.fuses first (ok a)
  let b : BootRes := { rom := rom, slot := a, failA := if a then 0 else r1, failB := if a then r1 else 0 }
  if r1 = 0 then enterImage s env b first
  else
    let r2 := imageReason s.sec.fuses other (ok (!a))
    if r2 = 0 then enterImage s env { b with slot := !a, fallback := true } other
    else
      let b := if a then { b with failA := r2 } else { b with failB := r2 }
      failedStart (setBoot s b) 2 0

/-- A recovery boot (15 R497). The key slot in M0 has no image to name and is free. -/
def recoveryBoot (s : State) (env : StartEnv) (rom : Bool) : State :=
  let k : Byte := BitVec.ofNat 8 (Config.choice s.free)
  let s := setBoot (extendM0 { s with free := s.free + 1 } rom k) { rom := rom, recovery := true }
  if env.hbmFail = some 0 then failedStart s 3 0 else { s with plat := { s.plat with recovery := true, stage := 2 } }

/-- The ROM starts: that of the die that ALT_ROM selects, or the other (17 Table 17-1 steps 1 and 2). -/
def boot (s : State) (env : StartEnv) : State :=
  let ok (b : Bool) : Bool := if b then env.romOk.2 else env.romOk.1
  let s := { s with plat := { s.plat with stage := 1, started := true, stop := none, faultHold := false } }
  if !ok env.altRom && !ok (!env.altRom) then failedStart s 1 0
  else
    let rom := if ok env.altRom then env.altRom else !env.altRom
    let s := { s with plat := { s.plat with stage := 2 } }
    if env.bootSel then recoveryBoot s env rom else secureBoot s env rom

/-- The source of DEV_TIME and of the HBM PLLs, in order of preference (01 R28, R44). -/
def clockSource (c0 c1 : Bool) : Nat := if c0 then 0 else if c1 then 1 else 2

def allBelow (t : Temps) (n : Nat) : Bool := (diesOf t).all (fun x => decide (x < n))

/-- Bench management at the moment of R35. -/
def startPlat (p : Plat) (env : StartEnv) : Plat :=
  let c := env.clocks
  let src := clockSource c.1 c.2.1
  { p with
    pwrOk := true, perstN := true, straps := BitVec.ofNat 3 ((if env.altRom then 4 else 0) + (if env.bootSel then 2 else 0) +
      (if env.chainHead then 1 else 0))
    devTime := 0, lastTime := [], cref0 := c.1, cref1 := c.2.1, pcieRef := c.2.2, timeSrc := BitVec.ofNat 2 src
    clockDown0 := !c.1, clockDown1 := !c.2.1, hbmRef := (List.range 8).map (fun k => (k, src)), fltCount := 0, fltLast := 0xFF
    therm := thermOf false env.temps }

/-- DEVICE_START: both pins are high for the first time since the last reset (01 R35). -/
def execDeviceStart (env : StartEnv) (s : State) : Oc :=
  if s.plat.started ∨ (s.plat.stop.isSome ∧ s.plat.pwrOk ∧ s.plat.perstN) then .next s
  else
    let s := islandsReset s
    let s := { s with plat := startPlat s.plat env, pwr := { s.pwr with temps := env.temps } }
    let s :=
      if env.railBad then stopNoRail s .order
      else if allBelow env.temps 85 then boot s env
      else
        let s := stopHeld s .thermal
        { s with plat := { s.plat with held := some env } }
    .next (takeImage s)

/-- THERMAL_START_HOLD_RELEASE: every die reads below 85 C (16 R525). -/
def execThermalStartHoldRelease (s : State) : Oc :=
  match s.plat.held with
  | some env =>
    .next (if allBelow s.pwr.temps 85 then boot { s with plat := { s.plat with held := none } } env else s)
  | none => .next s

/-! ## DEV_READY (17 R528; 14 R481; 15 R498) -/


/-- The unit of a stop's record: power for a protective stop, the device for a failed boot. -/
def stopKind (cause : BitVec 16) : Byte := if cause = cProtStop then 13 else 12

/-- Log one stop cause. -/
def logStop (s : State) (cause index : BitVec 16) : State := detect s ⟨cause, stopKind cause, index, 0, none, 0, false⟩

/-- Log a stop unit; bench management may no longer hold its index, which is then a free value. -/
def logUnit (s : State) (q : Word) (cause : BitVec 16) : State :=
  match s.plat.kept.find? (fun k => k.2.2 == some q) with
  | some k => logStop s cause k.2.1
  | none =>
    if cause = cBootFailed then logStop s cause 0xFFFF
    else logStop { s with free := s.free + 1 } cause (BitVec.ofNat 16 (Config.choice s.free))

/-- The causes of the stops since the last start that logged them (14 R481, 17 R537). -/
def logStops (s : State) : State :=
  let last := s.store.lastLogged
  let s := (s.plat.kept.filter (fun k => k.2.2.isNone)).foldl (fun s k => logStop s k.1 k.2.1) s
  let r := s.store.stops.foldl (fun (r : Nat × State) u =>
    match u with
    | .stop q cause _ _ _ => if last < q.toNat then (max r.1 q.toNat, logUnit r.2 q cause) else r
    | .highWater _ => r) (last, s)
  let s := { r.2 with plat := { r.2.plat with kept := [] } }
  if r.1 = last then s else journal s jConfig (configBytes 0x300 (leBytes 8 r.1))

/-- DEV_READY can be set. -/
def mayReady (s : State) : Bool :=
  s.plat.started && !s.plat.ready && !s.plat.recovery && !s.plat.bootFailed && s.plat.stage == 5 && !s.plat.compactDue &&
    s.store.compact.isNone

/-- DEV_READY. -/
def execDevReady (s : State) : Oc :=
  if mayReady s then
    let s := logStops s
    let us : Word := BitVec.ofNat 64 (s.plat.devTime.toNat / 1000 % 2 ^ 32 * 2 ^ 32 + 1)
    let s := ctlSet s rStart us
    let fused := s.plat.advance.getD s.sec.fuses.fused
    .next { s with
      plat := { s.plat with ready := true, stage := 6, advance := none }
      sec := { s.sec with fuses := { s.sec.fuses with fused := fused } } }
  else .next s

/-! ## Resets and losses of power (01 R36 to R38) -/

/-- HOST_RESET: the levels of PWR_OK and PERST_N; one of them is low (01 R37). -/
def execHostReset (pwrOk perstN : Bool) (s : State) : Oc :=
  if pwrOk && perstN then .next s
  else
    let s := islandsReset s
    let s := { s with plat := { s.plat with pwrOk := pwrOk, perstN := perstN } }
    .next (match s.plat.stop with
      | some c => stopHeld s c
      | none => s)

/-- The rails of Table 1-5: VIO_1V8 is rail 1. -/
def railCount : Nat := 26

/-- RAIL_FAULT (01 R38): also while a start is held for its temperatures, which then does not go on. -/
def execRailFault (rail : Nat) (s : State) : Oc :=
  .next (if s.plat.pwrOk && (s.plat.stop.isNone || s.plat.held.isSome) && decide (rail < railCount) then
      protectiveStop s (.rail rail) (BitVec.ofNat 16 rail) (rail != 1)
    else s)

/-- The store after a loss of power, with the write then in progress left torn; `torn` snapshot entries were whole. -/
def Store.powerLoss (x : Store) (torn : Nat) : Store :=
  let tear (x : Store) (w : Bool) : Store :=
    let h := if w then x.half1 else x.half0
    x.setHalf w { h with torn := true, erased := false }
  let y := match x.compact with
    | none => if torn = 0 then x else tear x x.active
    | some .snapshot => tear ((x.snapshot.take torn).foldl (fun (x : Store) (e : BitVec 16 × List Byte) => x.program (!x.active) e.1 e.2) x) (!x.active)
    | some .commit => if torn = 0 then x else tear x (!x.active)
    | some _ => if torn = 0 then x else x.setHalf (!x.active) { torn := true, erased := false }
  { y with compact := none, jqueue := [] }

/-- POWER_LOSS: only the store and the fuses keep what they hold (01 R36). -/
def execPowerLoss (torn : Nat) (s : State) : Oc :=
  .next { pending := s.pending, out := s.out, free := s.free
          sec := { fuses := s.sec.fuses, keyOk := s.sec.keyOk }, store := s.store.powerLoss torn }

/-! ## Recovery images (15 Table 15-9) -/

/-- DEV_RECOVERY_GO: the host writes go with the image length. -/
def execDevRecoveryGo (v : Word) (s : State) : Oc := .next (regCommand s .host rRecovery 8 (v ||| flagAt true 29))

/-- The image that the host has written at local HBM 0. -/
def recoveryImage (s : State) : Image := imgTake s.mem.cells (wbits (ctlGet s rRecovery) 0 27)

/-- RECOVERY_CHECK_DONE. -/
def execRecoveryCheckDone (s : State) : Oc :=
  let reg := ctlGet s rRecovery
  if !s.plat.recovery || wbits reg 30 2 != 1 then .next s
  else
    let m := recoveryImage s
    let len := wbits reg 0 27
    let r0 := imageReason s.sec.fuses m ((poisonAt s 0 len).isNone)
    let r := if r0 = 0 ∧ len ≠ 0x8000 + imgLen m then 1 else r0
    if r = 0 then
      let slot := !activeSlot s.store
      .next (ctlSet { s with store := selectSlot (setSlotImage s.store slot m) slot } rRecovery (wput reg 30 2 3))
    else .next (ctlSet s rRecovery (wput (wput reg 30 2 2) 32 4 (BitVec.ofNat 64 r)))

/-! ## Image and quote commands (15 R499, R500, R504) -/

/-- A command of an opcode that has started and has no record yet. -/
def runningOps (s : State) (c : Cmd) (op : Nat) : Nat :=
  (s.host.cmds.filter (fun d => d.op == op && d.wait != .fetched && d.status == 0 && !(d.q == c.q && d.n == c.n))).length

/-- NS firmware commands are refused while SEC_CTL.fw_lock is 1. -/
def fwLocked (s : State) (w : World) : Bool := w == .ns && (ctlGet s rSecCtl).getLsbD 0

def stagingSize : Nat := 96 * mib

/-- FW_STAGE. `host`: what a source outside this device returned. -/
def execFwStage (q n : Nat) (host : Option (List Byte)) (s : State) : Oc :=
  runCmd s 0x71 q n fun c w =>
    let off := c.u 0x0C 4
    let len := c.u 0x18 4
    let src : KRange := ⟨c.addr 0x10, len, c.host 0⟩
    checked s c w
      { param := decide (off % 4096 ≠ 0) || decide (stagingSize < off + len) || src.bad s
        world := fwLocked s w || src.other s w, busy := runningOps s c 0x72 != 0, resource := noDma s c.q w }
      (let r := extRead s src (c.ext 0 host)
       let k := wholeLines (BitVec.ofNat 64 off) r.1.length len
       let s := { r.2.2 with store := { r.2.2.store with staging := cellWrite r.2.2.store.staging off (r.1.take k) } }
       let s := match r.2.1 with
         | some p => detect s ⟨cPoisonRead, 7, BitVec.ofNat 16 (c.q % 2), p, none, 0, false⟩
         | none => s
       endCmd s c (if k < len then stAborted else stOk) 0 (BitVec.ofNat 64 k))

/-- FW_ACTIVATE. -/
def execFwActivate (q n : Nat) (s : State) : Oc :=
  runCmd s 0x72 q n fun c w =>
    let m := s.store.staging
    let len := 0x8000 + imgLen m
    checked s c w { param := c.u 0x0C 4 != len, world := fwLocked s w, busy := runningOps s c 0x72 != 0 }
      (if imageReason s.sec.fuses m true ≠ 0 then endWith s c stAuth
       else
        let slot := !(ctlGet s rBoot).getLsbD 0
        endWith { s with store := selectSlot (setSlotImage s.store slot (imgTake m len)) slot } c stOk)

def quoteLen : Nat := 80480

/-- The signed part of a quote (15 Table 15-11). -/
def quoteBody (s : State) (nonce : List Byte) : List Byte :=
  leBytes 4 0x5A545131 ++ leBytes 2 1 ++ leBytes 2 0 ++ leBytes 4 quoteLen ++ leBytes 4 0 ++ leBytes 8 (ctlGet s rDevId).toNat ++
    leBytes 8 s.sec.fuses.serial.toNat ++ leBytes 2 s.chain.addr.toNat ++
    leBytes 2 (if s.chain.addr = 0xFFFF#16 then 0 else s.chain.epoch.toNat) ++ leBytes 8 (ctlGet s rBoot).toNat ++ leBytes 4 0 ++
    nonce ++ [0, 1, 2].flatMap (fun k => leBytes 8 (worldReg s k).toNat) ++ leBytes 8 s.plat.devTime.toNat ++ leBytes 16 0 ++
    (List.range 8).flatMap (fun i => leBytes 64 (meas s i).toNat) ++ repairDigest s ++
    (List.range 64).map (fun k => s.store.idPub.getD k 0) ++ [s.store.idSlot] ++ List.replicate 63 0 ++
    (List.range 29792).map (fun k => s.store.idCert.getD k 0)

/-- The quote: its hedged signature is a free value. -/
def quoteBytes (s : State) (nonce : List Byte) : List Byte × State :=
  (quoteBody s nonce ++ (List.range 49856).map (fun k => Config.slhSign s.free k), { s with free := s.free + 1 })

/-- ATTEST_QUOTE. -/
def execAttestQuote (q n : Nat) (s : State) : Oc :=
  runCmd s 0x70 q n fun c w =>
    let buf : KRange := ⟨c.addr 0x10, quoteLen, c.host 0⟩
    if c.u 0x18 4 < quoteLen then endCmd s c stBadParam (BitVec.ofNat 32 quoteLen) 0
    else
      checked s c w { param := buf.bad s, world := buf.other s w, busy := decide (4 ≤ runningOps s c 0x70) }
        (if identityBad s then endWith s c stAuth
         else
          let r := quoteBytes s ((c.packet.drop 0x20).take 32)
          endCmd (extWrite r.2 c.linkLost buf.host buf.addr r.1) c stOk (BitVec.ofNat 32 quoteLen) 0)

end Sys2Proof.Machine
end

