-- ==== Sys2Proof/Machine/Platform.lean ====
section
/-!
DEFINITION. Clocks, the device timer, SMBus and JTAG (01 R21 to R31, R43, R44, R48 to R51), the host link with its BARs (10 R361
to R367, R396; 17 R530), the commands that are one register access each (05 to 15), and the end of a wake (16 R508, R513).
-/

namespace Sys2Proof.Machine

/-! ## Clocks (01) -/

/-- CLOCK_HOLD: an island's clock stops at its low phase (R21). -/
def execClockHold (i : Island) (s : State) : Oc :=
  let fixed : Bool := match i with
    | .management _ => true
    | _ => false
  .next (if s.plat.started && !fixed && clockOn s i then
      { s with plat := { s.plat with heldClocks := s.plat.heldClocks ++ [i] } }
    else s)

/-- The SMBus image is refreshed at a moment of its own choice, and before it is 1 ms old (R49). -/
def imageDue (s : State) : Bool :=
  decide (1000000 ≤ (s.plat.devTime - s.plat.smbAt).toNat) || decide (Config.choice s.free % 2 = 1)

/-- DEV_TIME_TICK (R27). -/
def execDevTimeTick (s : State) : Oc :=
  let s := { s with plat := { s.plat with devTime := s.plat.devTime + 1 } }
  let u := { s with free := s.free + 1 }
  .next (if imageDue s then takeImage u else u)

def clockDown (s : State) (b : Nat) : Bool := if b = 0 then s.plat.clockDown0 else s.plat.clockDown1

def setClockDown (s : State) (b : Nat) (down : Bool) : State :=
  if b = 0 then { s with plat := { s.plat with clockDown0 := down } } else { s with plat := { s.plat with clockDown1 := down } }

/-- The ports of bench die `b` that are not down go down. -/
def diePortsFall (s : State) (b : Nat) : State :=
  (List.range 20).foldl (fun s k => if (port s (20 * b + k)).st = .down then s else portFalls s (20 * b + k) cPortDown) s

/-- The chain ports and MRDIMM channels of bench die `b` go down with its clock, and the loss is logged (R43). -/
def clockLost (s : State) (b : Nat) : State :=
  if clockDown s b then s
  else
    let s := setClockDown s b true
    if s.plat.started then detect (diePortsFall s b) (plainFault cClock 11 (1 + b)) else s

/-- A chain reference clock is present or absent: DEV_TIME and the HBM PLLs take the first source present (R28, R44), each stack of
a started device by its own relock. -/
def setClock (s : State) (clk : Nat) (present : Bool) : State :=
  let c0 := if clk = 0 then present else s.plat.cref0
  let c1 := if clk = 1 then present else s.plat.cref1
  let src : BitVec 2 := BitVec.ofNat 2 (clockSource c0 c1)
  let moved := src != s.plat.timeSrc
  let s := { s with plat := { s.plat with cref0 := c0, cref1 := c1, timeSrc := src } }
  let s := if !moved then s
    else if s.plat.started then
      let due := (List.range 8).filter (fun k => mget s.plat.hbmRef k 0 != src.toNat)
      detect { s with plat := { s.plat with hbmDue := due } } (plainFault cClock 11 0)
    else { s with plat := { s.plat with hbmRef := (List.range 8).map (fun k => (k, src.toNat)) } }
  if present then s else clockLost s clk

/-- CLOCK_SOURCE_CHANGE: CREFCLK0 or CREFCLK1 goes or comes. -/
def execClockSourceChange (clk : Fin 2) (present : Bool) (s : State) : Oc := .next (setClock s clk.val present)

/-- HBM_PLL_RELOCK: one stack has moved to the present source; the change is logged with the last (R44). -/
def execHbmPllRelock (stack : Fin 8) (s : State) : Oc :=
  if s.plat.hbmDue.contains stack.val then
    let s := { s with plat := { s.plat with
      hbmRef := mset s.plat.hbmRef stack.val s.plat.timeSrc.toNat, hbmDue := s.plat.hbmDue.filter (fun k => k != stack.val) } }
    .next (if s.plat.hbmDue.isEmpty then detect s (plainFault cClock 11 0) else s)
  else .next s

/-- CHAIN_REFCLK_LOSS (R43). -/
def execChainRefclkLoss (b : Fin 2) (s : State) : Oc := .next (setClock s b.val false)

/-- CHAIN_REFCLK_RETURN: the MRDIMM channels of bench die `b` are up again, and its chain ports can train (R43). -/
def execChainRefclkReturn (b : Fin 2) (s : State) : Oc := .next (setClockDown (setClock s b.val true) b.val false)

/-! ## SMBus and JTAG (01) -/

/-- The register of a command code (R48). -/
def smbReg (s : State) (code : Byte) : BitVec 32 :=
  match code.toNat with
  | 0 => smbId
  | 1 => s.plat.smbState
  | 2 => s.plat.smbThermal
  | 3 => s.plat.smbFault
  | _ => 0

/-- The check byte of SMBus packet error checking: CRC-8 over the bytes of a transaction (x^8 + x^2 + x + 1, the bus's own;
PRESUMED, notes/assumptions/73.md). -/
def pecOf (d : List Byte) : Byte :=
  d.foldl (fun c b =>
    (List.range 8).foldl (fun (c : Byte) _ => if c.getLsbD 7 then (c <<< 1) ^^^ 0x07 else c <<< 1) (c ^^^ b)) 0

/-- SMBUS_BLOCK_READ: four bytes, and the check byte for a transaction that asks for it. -/
def execSmbusBlockRead (code : Byte) (s : State) : Oc :=
  let d := leBytes 4 (smbReg s code).toNat
  .next (emit s (.smbus d (pecOf ([0xB4, code, 0xB5, 4] ++ d))))

/-- SMBUS_WRITE: acknowledged; the data are dropped. -/
def execSmbusWrite (_code : Byte) (_data : List Byte) (s : State) : Oc := .next (emit s (.smbus [] 0))

/-! ## The alarm outputs (01 Table 1-8, R48) -/

/-- The levels of the outputs; each of the first three is low for its condition. -/
def pinThermN (s : State) : Bool := !s.plat.therm
def pinFaultN (s : State) : Bool := !(s.plat.faultHold || s.plat.stop.isSome)
def pinSmbAlertN (s : State) : Bool := pinFaultN s
def pinReady (s : State) : Bool := s.plat.ready
def setTap (s : State) (ir : TapIr) : State := { s with plat := { s.plat with tap := ir } }

/-- BYPASS: one register bit, 0 when captured, between TDI and TDO. -/
def execBypass (tdi : List Bool) (s : State) : Oc := .next (emit (setTap s .bypass) (.tdo ((false :: tdi).take tdi.length)))

/-- The identification word, version 1, part 0x0048, manufacturer 0x2DD (R50). -/
def idcodeWord : BitVec 32 := 0x100485BB

/-- IDCODE: least significant bit first. -/
def execIdcode (s : State) : Oc :=
  .next (emit (setTap s .idcode) (.tdo ((List.range 32).map (fun k => idcodeWord.getLsbD k))))

/-- The level of cell `k`'s signal: that of an output or a pin the state holds, else what the board drives on it. -/
def scanLevel (s : State) (pins : List Bool) (k : Nat) : Bool :=
  match Config.scanSignal k with
  | 1 => s.plat.straps.getLsbD 0
  | 2 => s.plat.straps.getLsbD 1
  | 3 => s.plat.straps.getLsbD 2
  | 4 => pinThermN s
  | 5 => pinFaultN s
  | 6 => pinReady s
  | 7 => s.plat.pwrOk
  | 8 => s.plat.perstN
  | 9 => pinSmbAlertN s
  | _ => pins.getD k false

/-- What the cells capture. -/
def scanCapture (s : State) (pins : List Bool) : List Bool := (List.range Config.scanCells).map (scanLevel s pins)

/-- SAMPLE_PRELOAD: the pins are captured and shifted out, and the cells loaded (R51). -/
def execSamplePreload (pins load : List Bool) (s : State) : Oc :=
  let s := setTap s .sample
  let d := scanCapture s pins
  let v := (List.range Config.scanCells).map (fun k => load.getD k false)
  .next (emit { s with plat := { s.plat with bsr := d, bsrUpdate := v } } (.tdo d))

/-- EXTEST. -/
def execExtest (s : State) : Oc := .next (setTap s .extest)

/-- HIGHZ. -/
def execHighz (s : State) : Oc := .next (setTap s .highz)

/-- What the boundary-scan cells do to the covered pins: drive them, release them, or nothing. -/
inductive PinDrive where
  | functional
  | cells (v : List Bool)
  | released
  deriving DecidableEq, Repr

/-- EXTEST and HIGHZ act only while PERST_N is low (R51). -/
def pinDrive (s : State) : PinDrive :=
  if s.plat.perstN then .functional
  else
    match s.plat.tap with
    | .extest => .cells s.plat.bsrUpdate
    | .highz => .released
    | _ => .functional

/-! ## Register reads outside core instructions (00 R9, R10; 10 R366) -/

/-- A refused read: logged where it is an NS access to an S block. -/
def refusedRead (s : State) (a : Agent) (o n : Nat) : RegFail → State
  | .world => logVio s (BitVec.ofNat 64 (0x300000000000 + o)) (agentId a) 0 0 n
  | _ => s

/-- A read by an agent: the register, or zero with an error response, which is an unsupported request on the host link. -/
def agentRead (s : State) (a : Agent) (o n : Nat) : State :=
  if a = .host ∧ !s.host.linkUp then s
  else if a = .host ∧ !hostReaches s o then emit s (.readData .host 0)
  else
    match regGate s (agentWorld s a) o n with
    | some f => emit (refusedRead s a o n f) (if a = .host then .ur else .readData a 0)
    | none => let r := regRead s a o n; emit r.2 (.readData a r.1)

/-- Registers whose reads complete in A4 without a wake (16 R513). -/
def readInStandby (o : Nat) : Bool :=
  (decide (0x200000 ≤ o) && decide (o < 0x300000)) || [rDevId, rDevTime, rAlarm, rBoot].contains (o / 8 * 8)

/-- A register read commanded by an agent. -/
def readCommand (s : State) (a : Agent) (o n : Nat) : State :=
  if readInStandby o then agentRead s a o n else hold s a (.regRead false o n) (agentRead s a o n)

/-- DEV_TIME_LOW_READ and DEV_TIME_HIGH_READ (01 R31). -/
def execDevTimeLowRead (a : Agent) (s : State) : Oc := .next (readCommand s a rDevTime 4)
def execDevTimeHighRead (a : Agent) (s : State) : Oc := .next (readCommand s a (rDevTime + 4) 4)

/-! ## Configuration space (10 R361 to R364) -/

/-- The header of an extended capability: ID and version as PCI Express numbers them (PRESUMED, notes/assumptions/70.md), and the
offset of the next. -/
def extCap (id version next : Nat) : BitVec 32 := BitVec.ofNat 32 (id + version * 2 ^ 16 + next * 2 ^ 20)

/-- The 32-bit word at offset `o` of the configuration space of function 0: the values of Tables 10-1 and 10-2; every other word
reads as 0 here. -/
def cfgRead (s : State) (o : Nat) : BitVec 32 :=
  match o with
  | 0x000 => 0x00481EC7
  | 0x004 => 0x00100000
  | 0x008 => 0x120000A1
  | 0x010 => 0x00000004
  | 0x018 => 0x00000004
  | 0x020 => 0x0000000C
  | 0x02C => 0x00481EC7
  | 0x034 => 0x00000040
  | 0x040 => 0x00035001
  | 0x050 => BitVec.ofNat 32 (0x07FF6011 + (if s.host.linkUp then 2 ^ 31 else 0))
  | 0x054 => 0x00010002
  | 0x058 => 0x00018002
  | 0x060 => 0x00020010
  | 0x064 => 0x00000002
  | 0x100 => extCap 0x01 2 0x148
  | 0x104 => s.host.aer
  | 0x148 => extCap 0x03 1 0x158
  | 0x14C => s.sec.fuses.serial.setWidth 32
  | 0x150 => (s.sec.fuses.serial >>> 32).setWidth 32
  | 0x158 => extCap 0x15 1 0x180
  | 0x15C => 0x00FFC000
  | 0x160 => BitVec.ofNat 32 (0x24 + (10 + s.host.bar4Log2) * 2 ^ 8)
  | 0x180 => extCap 0x19 1 0x1A0
  | 0x1A0 => extCap 0x25 1 0x1B0
  | 0x1B0 => extCap 0x26 1 0x1E0
  | 0x1E0 => extCap 0x2A 1 0x210
  | 0x210 => extCap 0x31 1 0x240
  | 0x240 => extCap 0x35 1 0x280
  | 0x280 => extCap 0x27 1 0x2C0
  | 0x2C0 => extCap 0x32 1 0
  | _ => 0

/-! ## BAR2 (10 R363, R365) -/

def msixEntry (s : State) (k : Nat) : MsixEntry := mget s.host.msix k {}

/-- An aligned 32-bit word of an MSI-X entry. -/
def msixWord (e : MsixEntry) (w : Nat) : BitVec 32 :=
  match w with
  | 0 => e.addr.setWidth 32
  | 1 => (e.addr >>> 32).setWidth 32
  | 2 => e.data
  | _ => if e.masked then 1 else 0

def pbaByte (s : State) (k : Nat) : Byte := BitVec.ofNat 8 ((List.range 8).foldl (fun n b => n + (if s.host.pba.contains (8 * k + b) then 2 ^ b else 0)) 0)

/-- An aligned 32-bit word of BAR2 beyond the doorbells. -/
def bar2Word (s : State) (o : Nat) : BitVec 32 :=
  if 0x10000 ≤ o ∧ o < 0x18000 then msixWord (msixEntry s ((o - 0x10000) / 16)) (o % 16 / 4)
  else if 0x18000 ≤ o ∧ o < 0x18100 then
    BitVec.ofNat 32 (leNat ((List.range 4).map (fun k => pbaByte s (o - 0x18000 + k))))
  else 0

def aligned (o n : Nat) : Bool := (n == 4 || n == 8) && o % n == 0

def bar2Read (s : State) (o n : Nat) : State :=
  if !s.host.linkUp then s
  else if !s.plat.ready || !aligned o n then emit s (.readData .host 0)
  else
    let v := (bar2Word s o).setWidth 64
    emit s (.readData .host (if n = 8 then (bar2Word s (o + 4)).setWidth 64 <<< 32 ||| v else v))

/-- A vector that is unmasked sends the message it had pending. -/
def unmask (s : State) (k : Nat) : State :=
  if s.host.pba.contains k && !(msixEntry s k).masked then
    emit { s with host := { s.host with pba := s.host.pba.filter (fun j => j != k) } } (.msix k)
  else s

def msixPut (s : State) (o : Nat) (v : BitVec 32) : State :=
  if 0x10000 ≤ o ∧ o < 0x18000 then
    let k := (o - 0x10000) / 16
    let e := msixEntry s k
    let e := match o % 16 / 4 with
      | 0 => { e with addr := (e.addr &&& 0xFFFFFFFF00000000#64) ||| (v.setWidth 64 &&& ~~~3) }
      | 1 => { e with addr := (e.addr &&& 0xFFFFFFFF#64) ||| v.setWidth 64 <<< 32 }
      | 2 => { e with data := v }
      | _ => { e with masked := v.getLsbD 0 }
    unmask { s with host := { s.host with msix := mset s.host.msix k e } } k
  else s

/-- A host write through BAR2: the doorbells, the MSI-X table, nothing else. -/
def bar2Write (s : State) (o n : Nat) (v : Word) : State :=
  if !s.host.linkUp || !s.plat.ready then s
  else if o < 0x10 then agentWrite s .host (rDoorbell + o) n v
  else if !aligned o n then s
  else
    let s := msixPut s o (v.setWidth 32)
    if n = 8 then msixPut s (o + 4) ((v >>> 32).setWidth 32) else s

/-- BAR0_READ: a host read through BAR0 or BAR2. -/
def execBar0Read (bar2 : Bool) (off bytes : Nat) (s : State) : Oc :=
  .next (if bar2 then hold s .host (.regRead true off bytes) (bar2Read s off bytes) else readCommand s .host off bytes)

/-- REGISTER_WRITE: the write of a register with no row of its own. -/
def execRegisterWrite (a : Agent) (bar2 : Bool) (off bytes : Nat) (v : Word) (s : State) : Oc :=
  .next (settle (if bar2 then (if a = .host then hold s .host (.regWrite true off bytes v) (bar2Write s off bytes v) else s)
    else regCommand s a off bytes v))

/-! ## BAR4 (10 R367; 17 R530) -/

/-- The last offset of BAR4 that a recovery boot serves. -/
def recoverySpan : Nat := 0x4080000

/-- What an access through BAR4 meets. -/
inductive Bar4 where
  /-- every byte lies in NS memory -/
  | ram (a : Nat)
  | world (a : Nat)
  | none_
  deriving DecidableEq, Repr

def bar4Place (s : State) (off n : Nat) : Bar4 :=
  let a := (ctlGet s rApctl).toNat + off
  let gs := granules a n
  let memory (g : Nat) : Bool := match place s none g with
    | .ram _ => true
    | .asleep _ => true
    | _ => false
  if !gs.all memory then .none_
  else if gs.any (fun g => addrWorld s none g == .s) then .world a
  else .ram a

/-- An access lies within BAR4 as it is sized. -/
def inBar4 (s : State) (off n : Nat) : Bool := s.host.linkUp && decide (0 < n) && decide (off + n ≤ 2 ^ s.host.bar4Log2 * gib)

def bar4ReadNow (s : State) (off n : Nat) : State :=
  if !inBar4 s off n then s
  else if s.plat.recovery then
    emit s (.readBytes ((List.range n).map (fun k => if off + k < recoverySpan then cellGet s.mem.cells (off + k) else 0)))
  else if !s.plat.ready then emit s (.readBytes (List.replicate n 0))
  else
    match bar4Place s off n with
    | .ram a =>
      (match poisonAt s a n with
        | some p => emit (detect s ⟨cPoisonRead, 7, 0, BitVec.ofNat 64 p, none, 0, false⟩) .completerAbort
        | none =>
          let r := busRead (wakeRange s (BitVec.ofNat 64 a) n) a n
          emit r.2 (.readBytes r.1))
    | .world a => emit (logVio s (BitVec.ofNat 64 a) 1 0 0 n) .ur
    | .none_ => emit s .ur

def bar4WriteNow (s : State) (off : Nat) (d : List Byte) : State :=
  if !inBar4 s off d.length then s
  else if s.plat.recovery then memWrite s off (d.take (recoverySpan - off))
  else if !s.plat.ready then s
  else
    match bar4Place s off d.length with
    | .ram a => busWrite (wakeRange s (BitVec.ofNat 64 a) d.length) a d
    | .world a => logVio s (BitVec.ofNat 64 a) 1 0 1 d.length
    | .none_ => logAer s

/-- An access to a DRAM row that is being copied waits, and behind it the later ones (08 R323). -/
def bar4Wait (s : State) (p : Posted) (off n : Nat) (k : State) : State :=
  if s.plat.ready && inBar4 s off n && (runBusy s ((ctlGet s rApctl).toNat + off) n || !s.pwr.posted.isEmpty) then { s with pwr := { s.pwr with posted := s.pwr.posted ++ [p] } } else k

/-- BAR4_READ. -/
def execBar4Read (off len : Nat) (s : State) : Oc :=
  .next (hold s .host (.memRead off len) (bar4Wait s (.memRead off len) off len (bar4ReadNow s off len)))

/-- BAR4_WRITE. -/
def execBar4Write (off : Nat) (data : List Byte) (s : State) : Oc :=
  .next (hold s .host (.memWrite off data) (bar4Wait s (.memWrite off data) off data.length (bar4WriteNow s off data)))

/-- BAR4_RESIZE: 1 GiB to 512 GiB; a change sets HIF_APCTL.base to 0. -/
def execBar4Resize (log2 : Nat) (s : State) : Oc :=
  .next (if s.host.linkUp && decide (log2 ≤ 9) && log2 != s.host.bar4Log2 then
      ctlSet { s with host := { s.host with bar4Log2 := log2 } } rApctl 0
    else s)

/-! ## The host link (10 R362, R396) -/

/-- The link can train: the ROM runs, or a failed start that has a link. -/
def mayLink (s : State) : Bool :=
  s.plat.started && s.plat.stop.isNone && decide (2 ≤ s.plat.stage.toNat) && decide (wbits (ctlGet s rStart) 20 4 ≠ 1)

/-- HOST_LINK_UP. `rate`: generation 1 to 7 (2.5 to 128 GT/s); `width`: lanes that train; two train as x1. -/
def execHostLinkUp (rate width : Nat) (s : State) : Oc :=
  .next (if mayLink s && decide (1 ≤ rate ∧ rate ≤ 7) && [1, 2, 4, 8].contains width then
      { s with host := { s.host with linkUp := true, rate := rate, width := if width = 2 then 1 else width } }
    else s)

/-- A queue that a host link reset destroys. -/
def resetQueue (p : Nat × Queue) : Bool := p.1 == 0 || (p.2.world == .ns && (p.2.cmdHost || p.2.cplHost))

/-- The commands of queue `q` leave no record and reach no host memory. -/
def loseLink (s : State) (q : Nat) : State :=
  { s with host := { s.host with cmds := s.host.cmds.map (fun c =>
      if c.q = q then { c with discard := true, linkLost := true } else c) } }

/-- HOST_LINK_RESET. -/
def execHostLinkReset (s : State) : Oc :=
  if !s.host.linkUp then .next s
  else
    let s := { s with host := { s.host with
      linkUp := false, rate := 0, width := 0, bar4Log2 := 6, msix := [], pba := [], aer := 0 } }
    let s := ctlSet s rApctl 0
    let s := ctlSet s rQ0Cfg (ctlGet s rQ0Cfg &&& ~~~0x10000)
    let qs := (s.host.queues.filter resetQueue).map (fun p => p.1)
    let s := qs.foldl (fun s q => destroyQueue (loseLink s q) q) s
    .next (resetDomain s (fun id => id == 1))

/-! ## Commands that are one register access -/

/-- ARR_SHAPE_WRITE (06 R251). -/
def execArrShapeWrite (a : Agent) (l : Fin 68) (v : Word) (s : State) : Oc := .next (regCommand s a (rArrShape l.val) 8 v)

/-- MBX_SEND, MBX_COMMIT, MBX_RECV (09 R355). -/
def execMbxSendReg (a : Agent) (m : Fin 64) (e : Fin 2) (v : BitVec 32) (s : State) : Oc :=
  .next (regCommand s a (rMbx m.val + 0x20 + 8 * e.val) 4 (v.setWidth 64))

def execMbxCommit (a : Agent) (m : Fin 64) (e : Fin 2) (s : State) : Oc :=
  .next (regCommand s a (rMbx m.val + 0x30 + 8 * e.val) 4 1)

def execMbxRecvReg (a : Agent) (m : Fin 64) (e : Fin 2) (s : State) : Oc :=
  .next (readCommand s a (rMbx m.val + 0x40 + 8 * e.val) 4)

/-- MBX_LOCK (09 R356). -/
def execMbxLockRead (a : Agent) (m : Fin 64) (s : State) : Oc := .next (readCommand s a (rMbx m.val + 0x10) 8)
def execMbxLockWrite (a : Agent) (m : Fin 64) (v : Word) (s : State) : Oc := .next (regCommand s a (rMbx m.val + 0x10) 8 v)

/-- QUEUE0_CREATE and QUEUE0_DESTROY: a write of HIF_Q0_CFG (10 R373). -/
def execQueue0Create (v : Word) (s : State) : Oc := .next (regCommand s .host rQ0Cfg 8 v)
def execQueue0Destroy (v : Word) (s : State) : Oc := .next (regCommand s .host rQ0Cfg 8 v)

/-- QUEUE1_CREATE and QUEUE1_DESTROY: a write of SEC_Q1_CFG (10 R374). -/
def execQueue1Create (a : Agent) (v : Word) (s : State) : Oc := .next (regCommand s a rQ1Cfg 8 v)
def execQueue1Destroy (a : Agent) (v : Word) (s : State) : Oc := .next (regCommand s a rQ1Cfg 8 v)

/-- DOORBELL and COMPLETION_DOORBELL (10 R375, R377). -/
def execDoorbell (a : Agent) (bytes : Nat) (v : Word) (s : State) : Oc := .next (regCommand s a rDoorbell bytes v)
def execCompletionDoorbell (a : Agent) (bytes : Nat) (v : Word) (s : State) : Oc := .next (regCommand s a rCpldb bytes v)

/-- MEM_MODE_WRITE (08 R311), MEM_RINV_GO (08 R316). -/
def execMemModeWrite (a : Agent) (v : Word) (s : State) : Oc := .next (if mayMode s a then regCommand s a rMemMode 8 v else s)
def execMemRinvGo (a : Agent) (s : State) : Oc := .next (regCommand s a rRinv 8 1)

/-- RAT_WRITE: RAT_BASEn or RAT_LIMn (08 R307). -/
def execRatWrite (a : Agent) (n : Fin 256) (lim : Bool) (v : Word) (s : State) : Oc :=
  .next (regCommand s a (if lim then rRatLim n.val else rRatBase n.val) 8 v)

/-- WORLD_WRITE (15 R487), SEC_VSTAT_CLEAR (15 R490). -/
def execWorldWrite (a : Agent) (reg : Fin 3) (v : Word) (s : State) : Oc := .next (regCommand s a (rWorld reg.val) 8 v)
def execSecVstatClear (a : Agent) (s : State) : Oc := .next (regCommand s a rVstat 8 0x2000)

/-- SEC_EXTEND in the secure-only range (15 R503): an NS agent's write is refused; the host has no way to it. -/
def execSecExtend (a : Agent) (v : Word) (s : State) : Oc :=
  .next (if agentWorld s a = .s then secRangeWrite s 0x200 8 v
    else if a = .host then s
    else logVio s 0x3F0000000200#64 (agentId a) 0 1 8)

/-! ## The end of a wake (16 R508, R513) -/

def replayPosted (s : State) : Posted → State
  | .regWrite bar2 o n v => if bar2 then bar2Write s o n v else agentWrite s .host o n v
  | .regRead bar2 o n => if bar2 then bar2Read s o n else agentRead s .host o n
  | .memWrite o d => bar4Wait s (.memWrite o d) o d.length (bar4WriteNow s o d)
  | .memRead o n => bar4Wait s (.memRead o n) o n (bar4ReadNow s o n)

/-- The accesses held are made, in order. -/
def replayHeld (s : State) : State :=
  settle (s.pwr.posted.foldl replayPosted { s with pwr := { s.pwr with posted := [] } })

/-- CLOCK_RESUME: the island goes on where it stopped (01 R21), and what waited for it. -/
def execClockResume (i : Island) (s : State) : Oc :=
  let s := wakeMemory { s with plat := { s.plat with heldClocks := s.plat.heldClocks.filter (fun j => j != i) } }
  .next (if s.pwr.standby then s else replayHeld s)

/-- ROW_COPY_COMPLETE (08 R323): the accesses that waited for the row go on. -/
def execRowCopyComplete (s : State) : Oc :=
  let s := rowCopied s
  .next (if s.pwr.standby then s else replayHeld s)

/-- WAKE_COMPLETE of a lathe, or (`none`) of the device from A4: the accesses held are made in order. -/
def execWakeComplete (l : Option (Fin 68)) (s : State) : Oc :=
  match l with
  | some l => .next (if (s.lathe l.val).waking && !s.pwr.standby then latheAwake s l.val else s)
  | none =>
    if s.pwr.standby && s.pwr.waking then
      .next (replayHeld (deviceAwake s))
    else .next s

/-! ## Reads of host memory without a completion (10 R363, R372) -/

/-- COMPLETION_TIMEOUT: command `n` of queue `q` meets an error response to its host read, or the read of slot `n` does. -/
def execCompletionTimeout (q n : Nat) (s : State) : Oc :=
  match s.cmd? q n with
  | some c =>
    if !c.host 0 then .next s
    else
      match c.op with
      | 0x10 => execMemCopy q n none s
      | 0x20 => execProgramLoad q n none s
      | 0x21 => execTaskGraphSubmit q n none s
      | 0x71 => execFwStage q n none s
      | _ => .next s
  | none =>
    match s.queue? q with
    | some x => .next (if x.cmdHost ∧ x.cons.toNat = n ∧ queueReady s q then stopQueue s q else s)
    | none => .next s

end Sys2Proof.Machine
end

