-- ==== Sys2Proof/Machine/Scalar.lean ====
section
/-!
DEFINITION. Integer, compare, predicate and branch instructions (02 Table 2-6, R67 to R70). A body says what an instruction
checks and does; its meaning issues the body with its opcode.
-/

namespace Sys2Proof.Machine

/-! ## Shapes -/

/-- d := op s1 s2 on general registers (02 R67). -/
def aluRR (op : Word → Word → Word) (t : Tid) (f : Fld) : Body :=
  plain (fieldsOk .g .g .g f && f.imm == 0) fun s =>
    .ok (s.modThr t fun x => x.wg f.d.toNat (op (x.rg f.s1.toNat) (x.rg f.s2.toNat)))

/-- d := op s1 sx(imm); `lim` bits of imm may be nonzero. -/
def aluRI (lim : Nat) (op : Word → Word → Word) (t : Tid) (f : Fld) : Body :=
  plain (fieldsOk .g .g .z f && immBelow f lim) fun s =>
    .ok (s.modThr t fun x => x.wg f.d.toNat (op (x.rg f.s1.toNat) (sxImm f)))

/-- A long-latency instruction: the thread waits until the result is written (02 R56, Table 2-3). -/
def longRR (op : Word → Word → Word) (t : Tid) (f : Fld) : Body :=
  plain (fieldsOk .g .g .g f && f.imm == 0) fun s =>
    .hold .longLatency (s.modThr t fun x =>
      { x with result := some (f.d.toNat, op (x.rg f.s1.toNat) (x.rg f.s2.toNat)) })

/-- d := 0xFFFF if s1 rel s2, else 0 (02 R69). -/
def cmpRR (rel : Word → Word → Bool) (t : Tid) (f : Fld) : Body :=
  plain (fieldsOk .p .g .g f && f.imm == 0) fun s =>
    .ok (s.modThr t fun x => x.wp f.d.toNat (predOf (rel (x.rg f.s1.toNat) (x.rg f.s2.toNat))))

/-- As `cmpRR`, with sx(imm) for s2. -/
def cmpRI (rel : Word → Word → Bool) (t : Tid) (f : Fld) : Body :=
  plain (fieldsOk .p .g .z f) fun s =>
    .ok (s.modThr t fun x => x.wp f.d.toNat (predOf (rel (x.rg f.s1.toNat) (sxImm f))))

/-- d := op s1 s2 on predicate registers. -/
def predRR (op : BitVec 16 → BitVec 16 → BitVec 16) (t : Tid) (f : Fld) : Body :=
  plain (fieldsOk .p .p .p f && f.imm == 0) fun s =>
    .ok (s.modThr t fun x => x.wp f.d.toNat (op (x.rp f.s1.toNat) (x.rp f.s2.toNat)))

/-! ## Operations (02 R67, R68) -/

def opShl (a b : Word) : Word := a <<< (b.toNat % 64)
def opShr (a b : Word) : Word := a >>> (b.toNat % 64)
def opSra (a b : Word) : Word := a.sshiftRight (b.toNat % 64)
def opMulh (a b : Word) : Word := BitVec.ofInt 64 ((a.toInt * b.toInt) / 2 ^ 64)
def opMulhu (a b : Word) : Word := BitVec.ofNat 64 (a.toNat * b.toNat / 2 ^ 64)

/-- Toward zero; division by zero gives -1; -2^63 / -1 wraps to -2^63. -/
def opDiv (a b : Word) : Word := if b = 0 then BitVec.allOnes 64 else BitVec.ofInt 64 (a.toInt.tdiv b.toInt)
def opDivu (a b : Word) : Word := if b = 0 then BitVec.allOnes 64 else BitVec.ofNat 64 (a.toNat / b.toNat)

/-- Sign of the dividend; remainder by zero gives the dividend. -/
def opRem (a b : Word) : Word := if b = 0 then a else BitVec.ofInt 64 (a.toInt.tmod b.toInt)
def opRemu (a b : Word) : Word := if b = 0 then a else BitVec.ofNat 64 (a.toNat % b.toNat)
def opMin (a b : Word) : Word := if a.slt b then a else b
def opMax (a b : Word) : Word := if a.slt b then b else a
def opMinu (a b : Word) : Word := if a.ult b then a else b
def opMaxu (a b : Word) : Word := if a.ult b then b else a

/-! ## Integer register instructions -/

/-- ADD (02 R67). -/
def bodyAdd (t : Tid) (f : Fld) : Body := aluRR (· + ·) t f
def execAdd (t : Tid) (f : Fld) (s : State) : Oc := issue t 0x000 f (bodyAdd t f) s

/-- SUB (02 R67). -/
def bodySub (t : Tid) (f : Fld) : Body := aluRR (· - ·) t f
def execSub (t : Tid) (f : Fld) (s : State) : Oc := issue t 0x001 f (bodySub t f) s

/-- AND (02 R67). -/
def bodyAndd (t : Tid) (f : Fld) : Body := aluRR (· &&& ·) t f
def execAndd (t : Tid) (f : Fld) (s : State) : Oc := issue t 0x002 f (bodyAndd t f) s

/-- OR (02 R67). -/
def bodyOrr (t : Tid) (f : Fld) : Body := aluRR (· ||| ·) t f
def execOrr (t : Tid) (f : Fld) (s : State) : Oc := issue t 0x003 f (bodyOrr t f) s

/-- XOR (02 R67). -/
def bodyXorr (t : Tid) (f : Fld) : Body := aluRR (· ^^^ ·) t f
def execXorr (t : Tid) (f : Fld) (s : State) : Oc := issue t 0x004 f (bodyXorr t f) s

/-- SHL (02 R67). -/
def bodyShl (t : Tid) (f : Fld) : Body := aluRR opShl t f
def execShl (t : Tid) (f : Fld) (s : State) : Oc := issue t 0x005 f (bodyShl t f) s

/-- SHR (02 R67). -/
def bodyShr (t : Tid) (f : Fld) : Body := aluRR opShr t f
def execShr (t : Tid) (f : Fld) (s : State) : Oc := issue t 0x006 f (bodyShr t f) s

/-- SRA (02 R67). -/
def bodySra (t : Tid) (f : Fld) : Body := aluRR opSra t f
def execSra (t : Tid) (f : Fld) (s : State) : Oc := issue t 0x007 f (bodySra t f) s

/-- MUL (02 R67). -/
def bodyMul (t : Tid) (f : Fld) : Body := aluRR (· * ·) t f
def execMul (t : Tid) (f : Fld) (s : State) : Oc := issue t 0x008 f (bodyMul t f) s

/-- MULH (02 R67). -/
def bodyMulh (t : Tid) (f : Fld) : Body := aluRR opMulh t f
def execMulh (t : Tid) (f : Fld) (s : State) : Oc := issue t 0x009 f (bodyMulh t f) s

/-- MULHU (02 R67). -/
def bodyMulhu (t : Tid) (f : Fld) : Body := aluRR opMulhu t f
def execMulhu (t : Tid) (f : Fld) (s : State) : Oc := issue t 0x00A f (bodyMulhu t f) s

/-- DIV (02 R67, R68). -/
def bodyDivv (t : Tid) (f : Fld) : Body := longRR opDiv t f
def execDivv (t : Tid) (f : Fld) (s : State) : Oc := issue t 0x00B f (bodyDivv t f) s

/-- DIVU (02 R67, R68). -/
def bodyDivu (t : Tid) (f : Fld) : Body := longRR opDivu t f
def execDivu (t : Tid) (f : Fld) (s : State) : Oc := issue t 0x00C f (bodyDivu t f) s

/-- REM (02 R67, R68). -/
def bodyRemm (t : Tid) (f : Fld) : Body := longRR opRem t f
def execRemm (t : Tid) (f : Fld) (s : State) : Oc := issue t 0x00D f (bodyRemm t f) s

/-- REMU (02 R67, R68). -/
def bodyRemu (t : Tid) (f : Fld) : Body := longRR opRemu t f
def execRemu (t : Tid) (f : Fld) (s : State) : Oc := issue t 0x00E f (bodyRemu t f) s

/-- MIN (02 R67). -/
def bodyMinn (t : Tid) (f : Fld) : Body := aluRR opMin t f
def execMinn (t : Tid) (f : Fld) (s : State) : Oc := issue t 0x00F f (bodyMinn t f) s

/-- MAX (02 R67). -/
def bodyMaxx (t : Tid) (f : Fld) : Body := aluRR opMax t f
def execMaxx (t : Tid) (f : Fld) (s : State) : Oc := issue t 0x010 f (bodyMaxx t f) s

/-- MINU (02 R67). -/
def bodyMinu (t : Tid) (f : Fld) : Body := aluRR opMinu t f
def execMinu (t : Tid) (f : Fld) (s : State) : Oc := issue t 0x011 f (bodyMinu t f) s

/-- MAXU (02 R67). -/
def bodyMaxu (t : Tid) (f : Fld) : Body := aluRR opMaxu t f
def execMaxu (t : Tid) (f : Fld) (s : State) : Oc := issue t 0x012 f (bodyMaxu t f) s

/-! ## Immediate instructions -/

/-- ADDI (02 R67). -/
def bodyAddi (t : Tid) (f : Fld) : Body := aluRI 32 (· + ·) t f
def execAddi (t : Tid) (f : Fld) (s : State) : Oc := issue t 0x020 f (bodyAddi t f) s

/-- ANDI (02 R67). -/
def bodyAndi (t : Tid) (f : Fld) : Body := aluRI 32 (· &&& ·) t f
def execAndi (t : Tid) (f : Fld) (s : State) : Oc := issue t 0x022 f (bodyAndi t f) s

/-- ORI (02 R67). -/
def bodyOri (t : Tid) (f : Fld) : Body := aluRI 32 (· ||| ·) t f
def execOri (t : Tid) (f : Fld) (s : State) : Oc := issue t 0x023 f (bodyOri t f) s

/-- XORI (02 R67). -/
def bodyXori (t : Tid) (f : Fld) : Body := aluRI 32 (· ^^^ ·) t f
def execXori (t : Tid) (f : Fld) (s : State) : Oc := issue t 0x024 f (bodyXori t f) s

/-- SHLI (02 R67). -/
def bodyShli (t : Tid) (f : Fld) : Body := aluRI 6 opShl t f
def execShli (t : Tid) (f : Fld) (s : State) : Oc := issue t 0x025 f (bodyShli t f) s

/-- SHRI (02 R67). -/
def bodyShri (t : Tid) (f : Fld) : Body := aluRI 6 opShr t f
def execShri (t : Tid) (f : Fld) (s : State) : Oc := issue t 0x026 f (bodyShri t f) s

/-- SRAI (02 R67). -/
def bodySrai (t : Tid) (f : Fld) : Body := aluRI 6 opSra t f
def execSrai (t : Tid) (f : Fld) (s : State) : Oc := issue t 0x027 f (bodySrai t f) s

/-- MULI (02 R67). -/
def bodyMuli (t : Tid) (f : Fld) : Body := aluRI 32 (· * ·) t f
def execMuli (t : Tid) (f : Fld) (s : State) : Oc := issue t 0x028 f (bodyMuli t f) s

/-- LI: d := sx(imm). -/
def bodyLi (t : Tid) (f : Fld) : Body :=
  plain (fieldsOk .g .z .z f) fun s => .ok (s.modThr t fun x => x.wg f.d.toNat (sxImm f))

def execLi (t : Tid) (f : Fld) (s : State) : Oc := issue t 0x030 f (bodyLi t f) s

/-- LIH: d := (imm << 32) or d[31:0]. -/
def bodyLih (t : Tid) (f : Fld) : Body :=
  plain (fieldsOk .g .z .z f) fun s => .ok (s.modThr t fun x =>
    x.wg f.d.toNat ((f.imm.setWidth 64 <<< 32) ||| (x.rg f.d.toNat &&& 0xFFFFFFFF#64)))

def execLih (t : Tid) (f : Fld) (s : State) : Oc := issue t 0x031 f (bodyLih t f) s

/-! ## Compare and predicate instructions -/

/-- CMPEQ (02 R69). -/
def bodyCmpeq (t : Tid) (f : Fld) : Body := cmpRR (fun a b => a == b) t f
def execCmpeq (t : Tid) (f : Fld) (s : State) : Oc := issue t 0x040 f (bodyCmpeq t f) s

/-- CMPNE (02 R69). -/
def bodyCmpne (t : Tid) (f : Fld) : Body := cmpRR (fun a b => a != b) t f
def execCmpne (t : Tid) (f : Fld) (s : State) : Oc := issue t 0x041 f (bodyCmpne t f) s

/-- CMPLT (02 R69). -/
def bodyCmplt (t : Tid) (f : Fld) : Body := cmpRR (fun a b => a.slt b) t f
def execCmplt (t : Tid) (f : Fld) (s : State) : Oc := issue t 0x042 f (bodyCmplt t f) s

/-- CMPLE (02 R69). -/
def bodyCmple (t : Tid) (f : Fld) : Body := cmpRR (fun a b => a.sle b) t f
def execCmple (t : Tid) (f : Fld) (s : State) : Oc := issue t 0x043 f (bodyCmple t f) s

/-- CMPLTU (02 R69). -/
def bodyCmpltu (t : Tid) (f : Fld) : Body := cmpRR (fun a b => a.ult b) t f
def execCmpltu (t : Tid) (f : Fld) (s : State) : Oc := issue t 0x044 f (bodyCmpltu t f) s

/-- CMPLEU (02 R69). -/
def bodyCmpleu (t : Tid) (f : Fld) : Body := cmpRR (fun a b => a.ule b) t f
def execCmpleu (t : Tid) (f : Fld) (s : State) : Oc := issue t 0x045 f (bodyCmpleu t f) s

/-- CMPEQI (02 R69). -/
def bodyCmpeqi (t : Tid) (f : Fld) : Body := cmpRI (fun a b => a == b) t f
def execCmpeqi (t : Tid) (f : Fld) (s : State) : Oc := issue t 0x048 f (bodyCmpeqi t f) s

/-- CMPNEI (02 R69). -/
def bodyCmpnei (t : Tid) (f : Fld) : Body := cmpRI (fun a b => a != b) t f
def execCmpnei (t : Tid) (f : Fld) (s : State) : Oc := issue t 0x049 f (bodyCmpnei t f) s

/-- CMPLTI (02 R69). -/
def bodyCmplti (t : Tid) (f : Fld) : Body := cmpRI (fun a b => a.slt b) t f
def execCmplti (t : Tid) (f : Fld) (s : State) : Oc := issue t 0x04A f (bodyCmplti t f) s

/-- CMPLEI (02 R69). -/
def bodyCmplei (t : Tid) (f : Fld) : Body := cmpRI (fun a b => a.sle b) t f
def execCmplei (t : Tid) (f : Fld) (s : State) : Oc := issue t 0x04B f (bodyCmplei t f) s

/-- CMPLTUI (02 R69). -/
def bodyCmpltui (t : Tid) (f : Fld) : Body := cmpRI (fun a b => a.ult b) t f
def execCmpltui (t : Tid) (f : Fld) (s : State) : Oc := issue t 0x04C f (bodyCmpltui t f) s

/-- CMPLEUI (02 R69). -/
def bodyCmpleui (t : Tid) (f : Fld) : Body := cmpRI (fun a b => a.ule b) t f
def execCmpleui (t : Tid) (f : Fld) (s : State) : Oc := issue t 0x04D f (bodyCmpleui t f) s

/-- PAND (02 R69). -/
def bodyPand (t : Tid) (f : Fld) : Body := predRR (· &&& ·) t f
def execPand (t : Tid) (f : Fld) (s : State) : Oc := issue t 0x050 f (bodyPand t f) s

/-- POR (02 R69). -/
def bodyPor (t : Tid) (f : Fld) : Body := predRR (· ||| ·) t f
def execPor (t : Tid) (f : Fld) (s : State) : Oc := issue t 0x051 f (bodyPor t f) s

/-- PXOR (02 R69). -/
def bodyPxor (t : Tid) (f : Fld) : Body := predRR (· ^^^ ·) t f
def execPxor (t : Tid) (f : Fld) (s : State) : Oc := issue t 0x052 f (bodyPxor t f) s

/-- PANDN (02 R69). -/
def bodyPandn (t : Tid) (f : Fld) : Body := predRR (fun a b => a &&& ~~~b) t f
def execPandn (t : Tid) (f : Fld) (s : State) : Oc := issue t 0x053 f (bodyPandn t f) s

/-- PSET: d := s1[15:0]. -/
def bodyPset (t : Tid) (f : Fld) : Body :=
  plain (fieldsOk .p .g .z f && f.imm == 0) fun s =>
    .ok (s.modThr t fun x => x.wp f.d.toNat ((x.rg f.s1.toNat).setWidth 16))

def execPset (t : Tid) (f : Fld) (s : State) : Oc := issue t 0x054 f (bodyPset t f) s

/-- PGET: d := s1 zero-extended. -/
def bodyPget (t : Tid) (f : Fld) : Body :=
  plain (fieldsOk .g .p .z f && f.imm == 0) fun s =>
    .ok (s.modThr t fun x => x.wg f.d.toNat ((x.rp f.s1.toNat).setWidth 64))

def execPget (t : Tid) (f : Fld) (s : State) : Oc := issue t 0x055 f (bodyPget t f) s

/-- PSETI: d := imm[15:0]. -/
def bodyPseti (t : Tid) (f : Fld) : Body :=
  plain (fieldsOk .p .z .z f && immBelow f 16) fun s =>
    .ok (s.modThr t fun x => x.wp f.d.toNat (f.imm.setWidth 16))

def execPseti (t : Tid) (f : Fld) (s : State) : Oc := issue t 0x056 f (bodyPseti t f) s

/-! ## Branches (02 R70) -/

/-- PC + sx(imm) * 8. -/
def relTarget (x : Thread) (f : Fld) : Word := x.pc + sxImm f * 8

def bodyBr (t : Tid) (f : Fld) : Body :=
  plain (fieldsOk .z .z .z f) fun s => .jump s (relTarget (s.thr t) f)

def execBr (t : Tid) (f : Fld) (s : State) : Oc := issue t 0x060 f (bodyBr t f) s

def bodyJal (t : Tid) (f : Fld) : Body :=
  plain (fieldsOk .g .z .z f) fun s =>
    .jump (s.modThr t fun x => x.wg f.d.toNat (x.pc + 8)) (relTarget (s.thr t) f)

def execJal (t : Tid) (f : Fld) (s : State) : Oc := issue t 0x061 f (bodyJal t f) s

/-- JALR: the target is read before d is written; a misaligned target traps. -/
def bodyJalr (t : Tid) (f : Fld) : Body :=
  plain (fieldsOk .g .g .z f) fun s =>
    let p := effAddr (s.thr t) f
    if p.toNat % 8 ≠ 0 then .trap xAlign p s
    else .jump (s.modThr t fun x => x.wg f.d.toNat (x.pc + 8)) p

def execJalr (t : Tid) (f : Fld) (s : State) : Oc := issue t 0x062 f (bodyJalr t f) s

end Sys2Proof.Machine
end

