-- ==== Sys2Proof/Machine/Repeat.lean ====
section
/-!
DEFINITION. Repeats (02 R82 to R87): the prefixes REP.I and REP.N, and one repetition of the repeated instruction.
-/

namespace Sys2Proof.Machine

/-! ## What can be repeated (R84) -/

/-- Integer, register and immediate opcodes. -/
def repeatedInteger (op : Nat) (t : Tid) (f : Fld) : Option Body :=
  match op with
  | 0x000 => some (bodyAdd t f)
  | 0x001 => some (bodySub t f)
  | 0x002 => some (bodyAndd t f)
  | 0x003 => some (bodyOrr t f)
  | 0x004 => some (bodyXorr t f)
  | 0x005 => some (bodyShl t f)
  | 0x006 => some (bodyShr t f)
  | 0x007 => some (bodySra t f)
  | 0x008 => some (bodyMul t f)
  | 0x009 => some (bodyMulh t f)
  | 0x00A => some (bodyMulhu t f)
  | 0x00B => some (bodyDivv t f)
  | 0x00C => some (bodyDivu t f)
  | 0x00D => some (bodyRemm t f)
  | 0x00E => some (bodyRemu t f)
  | 0x00F => some (bodyMinn t f)
  | 0x010 => some (bodyMaxx t f)
  | 0x011 => some (bodyMinu t f)
  | 0x012 => some (bodyMaxu t f)
  | 0x020 => some (bodyAddi t f)
  | 0x022 => some (bodyAndi t f)
  | 0x023 => some (bodyOri t f)
  | 0x024 => some (bodyXori t f)
  | 0x025 => some (bodyShli t f)
  | 0x026 => some (bodyShri t f)
  | 0x027 => some (bodySrai t f)
  | 0x028 => some (bodyMuli t f)
  | 0x030 => some (bodyLi t f)
  | 0x031 => some (bodyLih t f)
  | _ => none

/-- Integer compare and predicate opcodes. -/
def repeatedCompare (op : Nat) (t : Tid) (f : Fld) : Option Body :=
  match op with
  | 0x040 => some (bodyCmpeq t f)
  | 0x041 => some (bodyCmpne t f)
  | 0x042 => some (bodyCmplt t f)
  | 0x043 => some (bodyCmple t f)
  | 0x044 => some (bodyCmpltu t f)
  | 0x045 => some (bodyCmpleu t f)
  | 0x048 => some (bodyCmpeqi t f)
  | 0x049 => some (bodyCmpnei t f)
  | 0x04A => some (bodyCmplti t f)
  | 0x04B => some (bodyCmplei t f)
  | 0x04C => some (bodyCmpltui t f)
  | 0x04D => some (bodyCmpleui t f)
  | 0x050 => some (bodyPand t f)
  | 0x051 => some (bodyPor t f)
  | 0x052 => some (bodyPxor t f)
  | 0x053 => some (bodyPandn t f)
  | 0x054 => some (bodyPset t f)
  | 0x055 => some (bodyPget t f)
  | 0x056 => some (bodyPseti t f)
  | _ => none

/-- Load, store, atomic, fence opcodes. -/
def repeatedMemory (op : Nat) (t : Tid) (f : Fld) : Option Body :=
  match op with
  | 0x080 => some (bodyLdb t f)
  | 0x081 => some (bodyLdh t f)
  | 0x082 => some (bodyLdw t f)
  | 0x083 => some (bodyLdd t f)
  | 0x084 => some (bodyLdbu t f)
  | 0x085 => some (bodyLdhu t f)
  | 0x086 => some (bodyLdwu t f)
  | 0x088 => some (bodyStb t f)
  | 0x089 => some (bodySth t f)
  | 0x08A => some (bodyStw t f)
  | 0x08B => some (bodyStd t f)
  | 0x090 => some (bodyAmoaddW t f)
  | 0x091 => some (bodyAmoaddD t f)
  | 0x092 => some (bodyAmoswapW t f)
  | 0x093 => some (bodyAmoswapD t f)
  | 0x094 => some (bodyCasW t f)
  | 0x095 => some (bodyCasD t f)
  | 0x0A0 => some (bodyFence t f)
  | _ => none

/-- Scalar floating point opcodes. -/
def repeatedFloat (op : Nat) (t : Tid) (f : Fld) : Option Body :=
  match op with
  | 0x0C0 => some (bodyFadd t f)
  | 0x0C1 => some (bodyFsub t f)
  | 0x0C2 => some (bodyFmul t f)
  | 0x0C3 => some (bodyFdiv t f)
  | 0x0C4 => some (bodyFsqrt t f)
  | 0x0C5 => some (bodyFma t f)
  | 0x0C6 => some (bodyFmin t f)
  | 0x0C7 => some (bodyFmax t f)
  | 0x0C8 => some (bodyFcvti t f)
  | 0x0C9 => some (bodyFcvtf t f)
  | 0x0CA => some (bodyFcvtw t f)
  | 0x0D0 => some (bodyFcmpeq t f)
  | 0x0D1 => some (bodyFcmplt t f)
  | 0x0D2 => some (bodyFcmple t f)
  | 0x0D3 => some (bodyFcmpun t f)
  | _ => none

/-- System opcodes. -/
def repeatedSystem (op : Nat) (t : Tid) (f : Fld) : Option Body :=
  match op with
  | 0x0E0 => some (bodyCsrr t f)
  | _ => none

/-- Short vector opcodes. -/
def repeatedShort (op : Nat) (t : Tid) (f : Fld) : Option Body :=
  match op with
  | 0x100 => some (bodyVadd t f)
  | 0x101 => some (bodyVsub t f)
  | 0x102 => some (bodyVmul t f)
  | 0x103 => some (bodyVand t f)
  | 0x104 => some (bodyVor t f)
  | 0x105 => some (bodyVxor t f)
  | 0x106 => some (bodyVshl t f)
  | 0x107 => some (bodyVshr t f)
  | 0x108 => some (bodyVsra t f)
  | 0x109 => some (bodyVmin t f)
  | 0x10A => some (bodyVmax t f)
  | 0x10B => some (bodyVminu t f)
  | 0x10C => some (bodyVmaxu t f)
  | 0x110 => some (bodyVfadd t f)
  | 0x111 => some (bodyVfsub t f)
  | 0x112 => some (bodyVfmul t f)
  | 0x113 => some (bodyVfma t f)
  | 0x114 => some (bodyVfmin t f)
  | 0x115 => some (bodyVfmax t f)
  | 0x118 => some (bodyVcvt t f)
  | 0x120 => some (bodyVcmp t f)
  | 0x121 => some (bodyVfcmp t f)
  | 0x128 => some (bodyVwmul t f)
  | 0x12A => some (bodyVdot t f)
  | 0x130 => some (bodyVld t f)
  | 0x131 => some (bodyVst t f)
  | 0x134 => some (bodyVgather t f)
  | 0x135 => some (bodyVscatter t f)
  | 0x138 => some (bodyVbcast t f)
  | 0x139 => some (bodyVins t f)
  | 0x13A => some (bodyVext t f)
  | _ => none

/-- Tile and finishing opcodes. -/
def repeatedTile (op : Nat) (t : Tid) (f : Fld) : Option Body :=
  match op with
  | 0x180 => some (bodyTcfg t f)
  | 0x181 => some (bodyTrel t f)
  | 0x182 => some (bodyTld t f)
  | 0x183 => some (bodyTst t f)
  | 0x184 => some (bodyTzero t f)
  | 0x185 => some (bodyTmma t f)
  | 0x190 => some (bodyTdrain t f)
  | 0x191 => some (bodyTamax t f)
  | 0x198 => some (bodyFtab t f)
  | 0x199 => some (bodyFapply t f)
  | 0x19A => some (bodyFderiv t f)
  | _ => none

/-- Long vector opcodes. -/
def repeatedLong (op : Nat) (t : Tid) (f : Fld) : Option Body :=
  match op with
  | 0x1C0 => some (bodyLvld t f)
  | 0x1C1 => some (bodyLvst t f)
  | 0x1C8 => some (bodyLvAlu t f)
  | 0x1C9 => some (bodyLvCmp t f)
  | 0x1CA => some (bodyLvRed t f)
  | 0x1CB => some (bodyLvMask t f)
  | _ => none

/-- The instruction of an opcode that a REP may repeat. -/
def repeatedBody (op : Nat) (t : Tid) (f : Fld) : Option Body :=
  if op < 0x40 then repeatedInteger op t f
  else if op < 0x60 then repeatedCompare op t f
  else if op < 0xC0 then repeatedMemory op t f
  else if op < 0xE0 then repeatedFloat op t f
  else if op < 0x100 then repeatedSystem op t f
  else if op < 0x180 then repeatedShort op t f
  else if op < 0x1C0 then repeatedTile op t f
  else repeatedLong op t f

/-! ## The prefix (R82, R83) -/

def repOp (intr : Bool) : Nat := if intr then 0x0F0 else 0x0F1

/-- Table 2-8. -/
def repFields (intr : Bool) (f : Fld) : Bool :=
  let imm := f.imm.toNat
  decide (f.d.toNat < 32) && f.s2 == 0 && nbits imm 13 3 == 0 &&
    (if imm.testBit 12 then nbits imm 0 12 == 0 && decide (f.s1.toNat < 32)
     else f.s1 == 0 && (intr || nbits imm 6 6 == 0))

/-- The count that a REP names. -/
def repCount (x : Thread) (intr : Bool) (f : Fld) : Nat :=
  let imm := f.imm.toNat
  if imm.testBit 12 then (x.rg f.s1.toNat).toNat else if intr then nbits imm 0 12 + 1 else nbits imm 0 6 + 1

def repLimit (intr : Bool) : Nat := if intr then 4096 else 64

/-- The REP's fields and its repeated instruction are legal (R82, R84). -/
def repLegal (intr : Bool) (t : Tid) (f : Fld) (word : Word) : Bool :=
  repFields intr f && (repeatedBody (wordOp word) t (wordFld word)).isSome

/-- The repeat begins, with `n` repetitions left. A prefix takes no position of the load delay. -/
def repBegin (s : State) (t : Tid) (intr : Bool) (f : Fld) (word : Word) (n : Nat) : State :=
  s.modThr t (fun x => { x with
    resume := none
    bound := false
    rep := some { a := x.pc, intr := intr, step := f.d.toNat, stride := (f.imm >>> 16).setWidth 16, n := n, word := word } })

/-- The repeat is passed over: execution continues behind the repeated instruction (R83). -/
def Thread.repSkip (x : Thread) : Thread := { x with pc := x.pc + 16, bankGrant := none, bound := false, fetched := [] }

/-- A REP whose own word is fetched: its fields and count, then the word at A + 8, which a repeat of no repetition does not need
(R64, R82 to R84). `resume`: repetitions left of the repeat that XRET resumes, whose guard and count were read before. -/
def repGo (s : State) (t : Tid) (intr : Bool) (f : Fld) (word : Word) (resume : Option Nat) : State :=
  let x := s.thr t
  let illegal (s : State) : State := trapOrWait s s t xIllegal 0 x.pc (insWord (repOp intr) f) resume
  let n := resume.getD (repCount x intr f)
  let none_ := resume.isNone && !(guardOf x f && decide (0 < n))
  let skip (s : State) : State := s.modThr t Thread.repSkip
  if !repFields intr f || (resume.isNone && decide (repLimit intr < n)) then illegal s
  else
    match fetchCheck s t (x.pc + 8) with
    | .trap c v => if none_ then skip s else fetchTrap s t c v x.pc resume
    | .remote _ => if none_ then skip s else fetchTrap s t xVmem (x.pc + 8) x.pc resume
    | .wake k => leaveBound s t (.wake k)
    | .ok =>
      let line := lineOf t (x.pc + 8)
      let c := s.core t.lathe.val t.core.val
      if !icHit c line && !x.fetched.contains line then leaveBound s t (.fetch true)
      else
        let s := s.setCore t.lathe.val t.core.val (icTouch c line)
        if !repLegal intr t f word then illegal s
        else if none_ then skip s
        else repBegin s t intr f word n

/-- REP.I or REP.N; `word` stands at the REP's address + 8. -/
def issueRep (intr : Bool) (t : Tid) (f : Fld) (word : Word) (s : State) : Oc :=
  let x := s.thr t
  if x.rep.isSome then .next s
  else
    match startAt s t x.pc x.pc (intr || x.resume.isNone) x.resume with
    | .stop s => .next s
    | .go s => .next (repGo s t intr f word x.resume)

/-- REP_I (R83). -/
def execRepI (t : Tid) (f : Fld) (word : Word) (s : State) : Oc := issueRep true t f word s

/-- REP_N (R86). -/
def execRepN (t : Tid) (f : Fld) (word : Word) (s : State) : Oc := issueRep false t f word s

/-! ## A repetition (R84, R85, R87) -/

/-- The repetition is complete: it takes a position, the step register steps, and the last one ends the repeat. -/
def repStep (r : Rep) (x : Thread) : Thread :=
  let y := countPos x
  let y := y.wg r.step (y.rg r.step + r.stride.signExtend 64)
  let z := { y with bankGrant := none, bound := false, fetched := [] }
  if r.n ≤ 1 then { z with rep := none, pc := r.a + 16 } else { z with rep := some { r with n := r.n - 1, held := false } }

/-- What follows from the outcome of a repetition; `s0` is the state before it. -/
def repFinish (s0 : State) (t : Tid) (r : Rep) : Res → State
  | .ok s => s.modThr t (repStep r)
  | .jump s _ => s.modThr t (repStep r)
  | .ret s _ => s.modThr t (repStep r)
  | .yield s => s.modThr t (repStep r)
  | .trap c v s => trapOrWait s0 s t c v r.a r.word (some r.n)
  | .wait w s => leaveBound s t w
  | .hold w s => leave (s.modThr t (fun x => { x with rep := some { r with held := true } })) t (.waiting w)

/-- REPETITION: the repeated instruction once, guarded by its own guard; one whose result was awaited only steps. -/
def execRepetition (t : Tid) (s : State) : Oc :=
  match (s.thr t).rep with
  | none => .next s
  | some r =>
    if r.held then
      .next (if (s.thr t).st = .running ∧ clockRuns s t then s.modThr t (repStep r) else s)
    else
      match startAt s t (r.a + 8) r.a r.intr (some r.n) with
      | .stop s => .next s
      | .go s =>
        match repeatedBody (wordOp r.word) t (wordFld r.word) with
        | some b => .next (repFinish s t r (b.run t (wordFld r.word) s))
        | none => .next s

end Sys2Proof.Machine
end

