-- ==== Sys2Proof/Machine/Dispatch.lean ====
section
/-!
DEFINITION. One arm per command: its meaning, a direct call of the command's own definition.
-/

namespace Sys2Proof.Machine

def exec (i : Instr) (s : State) : Host.Outcome State Fault Refusal :=
  match i with
  | .deviceStart env => Sys2Proof.Machine.execDeviceStart env s
  | .thermalStartHoldRelease => Sys2Proof.Machine.execThermalStartHoldRelease s
  | .devReady => Sys2Proof.Machine.execDevReady s
  | .mrdimmGranuleZero => Sys2Proof.Machine.execMrdimmGranuleZero s
  | .hostReset pwrOk perstN => Sys2Proof.Machine.execHostReset pwrOk perstN s
  | .railFault rail => Sys2Proof.Machine.execRailFault rail s
  | .clockHold island => Sys2Proof.Machine.execClockHold island s
  | .clockResume island => Sys2Proof.Machine.execClockResume island s
  | .devTimeTick => Sys2Proof.Machine.execDevTimeTick s
  | .clockSourceChange clk present => Sys2Proof.Machine.execClockSourceChange clk present s
  | .hbmPllRelock stack => Sys2Proof.Machine.execHbmPllRelock stack s
  | .chainRefclkLoss b => Sys2Proof.Machine.execChainRefclkLoss b s
  | .chainRefclkReturn b => Sys2Proof.Machine.execChainRefclkReturn b s
  | .devTimeLowRead a => Sys2Proof.Machine.execDevTimeLowRead a s
  | .devTimeHighRead a => Sys2Proof.Machine.execDevTimeHighRead a s
  | .smbusBlockRead code => Sys2Proof.Machine.execSmbusBlockRead code s
  | .smbusWrite code data => Sys2Proof.Machine.execSmbusWrite code data s
  | .bypass tdi => Sys2Proof.Machine.execBypass tdi s
  | .idcode => Sys2Proof.Machine.execIdcode s
  | .samplePreload pins load => Sys2Proof.Machine.execSamplePreload pins load s
  | .extest => Sys2Proof.Machine.execExtest s
  | .highz => Sys2Proof.Machine.execHighz s
  | .add t f => Sys2Proof.Machine.execAdd t f s
  | .sub t f => Sys2Proof.Machine.execSub t f s
  | .andd t f => Sys2Proof.Machine.execAndd t f s
  | .orr t f => Sys2Proof.Machine.execOrr t f s
  | .xorr t f => Sys2Proof.Machine.execXorr t f s
  | .shl t f => Sys2Proof.Machine.execShl t f s
  | .shr t f => Sys2Proof.Machine.execShr t f s
  | .sra t f => Sys2Proof.Machine.execSra t f s
  | .mul t f => Sys2Proof.Machine.execMul t f s
  | .mulh t f => Sys2Proof.Machine.execMulh t f s
  | .mulhu t f => Sys2Proof.Machine.execMulhu t f s
  | .divv t f => Sys2Proof.Machine.execDivv t f s
  | .divu t f => Sys2Proof.Machine.execDivu t f s
  | .remm t f => Sys2Proof.Machine.execRemm t f s
  | .remu t f => Sys2Proof.Machine.execRemu t f s
  | .minn t f => Sys2Proof.Machine.execMinn t f s
  | .maxx t f => Sys2Proof.Machine.execMaxx t f s
  | .minu t f => Sys2Proof.Machine.execMinu t f s
  | .maxu t f => Sys2Proof.Machine.execMaxu t f s
  | .addi t f => Sys2Proof.Machine.execAddi t f s
  | .andi t f => Sys2Proof.Machine.execAndi t f s
  | .ori t f => Sys2Proof.Machine.execOri t f s
  | .xori t f => Sys2Proof.Machine.execXori t f s
  | .shli t f => Sys2Proof.Machine.execShli t f s
  | .shri t f => Sys2Proof.Machine.execShri t f s
  | .srai t f => Sys2Proof.Machine.execSrai t f s
  | .muli t f => Sys2Proof.Machine.execMuli t f s
  | .li t f => Sys2Proof.Machine.execLi t f s
  | .lih t f => Sys2Proof.Machine.execLih t f s
  | .cmpeq t f => Sys2Proof.Machine.execCmpeq t f s
  | .cmpne t f => Sys2Proof.Machine.execCmpne t f s
  | .cmplt t f => Sys2Proof.Machine.execCmplt t f s
  | .cmple t f => Sys2Proof.Machine.execCmple t f s
  | .cmpltu t f => Sys2Proof.Machine.execCmpltu t f s
  | .cmpleu t f => Sys2Proof.Machine.execCmpleu t f s
  | .cmpeqi t f => Sys2Proof.Machine.execCmpeqi t f s
  | .cmpnei t f => Sys2Proof.Machine.execCmpnei t f s
  | .cmplti t f => Sys2Proof.Machine.execCmplti t f s
  | .cmplei t f => Sys2Proof.Machine.execCmplei t f s
  | .cmpltui t f => Sys2Proof.Machine.execCmpltui t f s
  | .cmpleui t f => Sys2Proof.Machine.execCmpleui t f s
  | .pand t f => Sys2Proof.Machine.execPand t f s
  | .por t f => Sys2Proof.Machine.execPor t f s
  | .pxor t f => Sys2Proof.Machine.execPxor t f s
  | .pandn t f => Sys2Proof.Machine.execPandn t f s
  | .pset t f => Sys2Proof.Machine.execPset t f s
  | .pget t f => Sys2Proof.Machine.execPget t f s
  | .pseti t f => Sys2Proof.Machine.execPseti t f s
  | .br t f => Sys2Proof.Machine.execBr t f s
  | .jal t f => Sys2Proof.Machine.execJal t f s
  | .jalr t f => Sys2Proof.Machine.execJalr t f s
  | .ldb t f => Sys2Proof.Machine.execLdb t f s
  | .ldh t f => Sys2Proof.Machine.execLdh t f s
  | .ldw t f => Sys2Proof.Machine.execLdw t f s
  | .ldd t f => Sys2Proof.Machine.execLdd t f s
  | .ldbu t f => Sys2Proof.Machine.execLdbu t f s
  | .ldhu t f => Sys2Proof.Machine.execLdhu t f s
  | .ldwu t f => Sys2Proof.Machine.execLdwu t f s
  | .stb t f => Sys2Proof.Machine.execStb t f s
  | .sth t f => Sys2Proof.Machine.execSth t f s
  | .stw t f => Sys2Proof.Machine.execStw t f s
  | .std t f => Sys2Proof.Machine.execStd t f s
  | .amoaddW t f => Sys2Proof.Machine.execAmoaddW t f s
  | .amoaddD t f => Sys2Proof.Machine.execAmoaddD t f s
  | .amoswapW t f => Sys2Proof.Machine.execAmoswapW t f s
  | .amoswapD t f => Sys2Proof.Machine.execAmoswapD t f s
  | .casW t f => Sys2Proof.Machine.execCasW t f s
  | .casD t f => Sys2Proof.Machine.execCasD t f s
  | .fence t f => Sys2Proof.Machine.execFence t f s
  | .fadd t f => Sys2Proof.Machine.execFadd t f s
  | .fsub t f => Sys2Proof.Machine.execFsub t f s
  | .fmul t f => Sys2Proof.Machine.execFmul t f s
  | .fdiv t f => Sys2Proof.Machine.execFdiv t f s
  | .fsqrt t f => Sys2Proof.Machine.execFsqrt t f s
  | .fma t f => Sys2Proof.Machine.execFma t f s
  | .fmin t f => Sys2Proof.Machine.execFmin t f s
  | .fmax t f => Sys2Proof.Machine.execFmax t f s
  | .fcvti t f => Sys2Proof.Machine.execFcvti t f s
  | .fcvtf t f => Sys2Proof.Machine.execFcvtf t f s
  | .fcvtw t f => Sys2Proof.Machine.execFcvtw t f s
  | .fcmpeq t f => Sys2Proof.Machine.execFcmpeq t f s
  | .fcmplt t f => Sys2Proof.Machine.execFcmplt t f s
  | .fcmple t f => Sys2Proof.Machine.execFcmple t f s
  | .fcmpun t f => Sys2Proof.Machine.execFcmpun t f s
  | .csrr t f => Sys2Proof.Machine.execCsrr t f s
  | .csrw t f => Sys2Proof.Machine.execCsrw t f s
  | .coreTcmpWrite t f => Sys2Proof.Machine.execCoreTcmpWrite t f s
  | .xret t f => Sys2Proof.Machine.execXret t f s
  | .yieldOp t f => Sys2Proof.Machine.execYieldOp t f s
  | .brk t f => Sys2Proof.Machine.execBrk t f s
  | .doneTask t f => Sys2Proof.Machine.execDoneTask t f s
  | .tokenOp t f => Sys2Proof.Machine.execTokenOp t f s
  | .mbxsend t f => Sys2Proof.Machine.execMbxsend t f s
  | .mbxrecv t f => Sys2Proof.Machine.execMbxrecv t f s
  | .repI t f word => Sys2Proof.Machine.execRepI t f word s
  | .repN t f word => Sys2Proof.Machine.execRepN t f word s
  | .repetition t => Sys2Proof.Machine.execRepetition t s
  | .reservedOpcode t op f => Sys2Proof.Machine.execReservedOpcode t op f s
  | .timerExpiry t => Sys2Proof.Machine.execTimerExpiry t s
  | .takeInterrupt t => Sys2Proof.Machine.execTakeInterrupt t s
  | .fetchFill t => Sys2Proof.Machine.execFetchFill t s
  | .loadDataArrival t slot => Sys2Proof.Machine.execLoadDataArrival t slot s
  | .storeBufferDrain t => Sys2Proof.Machine.execStoreBufferDrain t s
  | .longLatencyResult t => Sys2Proof.Machine.execLongLatencyResult t s
  | .writeComplete t => Sys2Proof.Machine.execWriteComplete t s
  | .bankAccept bank requester => Sys2Proof.Machine.execBankAccept bank requester s
  | .vadd t f => Sys2Proof.Machine.execVadd t f s
  | .vsub t f => Sys2Proof.Machine.execVsub t f s
  | .vmul t f => Sys2Proof.Machine.execVmul t f s
  | .vand t f => Sys2Proof.Machine.execVand t f s
  | .vor t f => Sys2Proof.Machine.execVor t f s
  | .vxor t f => Sys2Proof.Machine.execVxor t f s
  | .vshl t f => Sys2Proof.Machine.execVshl t f s
  | .vshr t f => Sys2Proof.Machine.execVshr t f s
  | .vsra t f => Sys2Proof.Machine.execVsra t f s
  | .vmin t f => Sys2Proof.Machine.execVmin t f s
  | .vmax t f => Sys2Proof.Machine.execVmax t f s
  | .vminu t f => Sys2Proof.Machine.execVminu t f s
  | .vmaxu t f => Sys2Proof.Machine.execVmaxu t f s
  | .vfadd t f => Sys2Proof.Machine.execVfadd t f s
  | .vfsub t f => Sys2Proof.Machine.execVfsub t f s
  | .vfmul t f => Sys2Proof.Machine.execVfmul t f s
  | .vfma t f => Sys2Proof.Machine.execVfma t f s
  | .vfmin t f => Sys2Proof.Machine.execVfmin t f s
  | .vfmax t f => Sys2Proof.Machine.execVfmax t f s
  | .vcvt t f => Sys2Proof.Machine.execVcvt t f s
  | .vcmp t f => Sys2Proof.Machine.execVcmp t f s
  | .vfcmp t f => Sys2Proof.Machine.execVfcmp t f s
  | .vwmul t f => Sys2Proof.Machine.execVwmul t f s
  | .vdot t f => Sys2Proof.Machine.execVdot t f s
  | .vld t f => Sys2Proof.Machine.execVld t f s
  | .vst t f => Sys2Proof.Machine.execVst t f s
  | .vgather t f => Sys2Proof.Machine.execVgather t f s
  | .vscatter t f => Sys2Proof.Machine.execVscatter t f s
  | .vbcast t f => Sys2Proof.Machine.execVbcast t f s
  | .vins t f => Sys2Proof.Machine.execVins t f s
  | .vext t f => Sys2Proof.Machine.execVext t f s
  | .vectorLoadArrival t => Sys2Proof.Machine.execVectorLoadArrival t s
  | .lvld t f => Sys2Proof.Machine.execLvld t f s
  | .lvst t f => Sys2Proof.Machine.execLvst t f s
  | .lvAlu t f => Sys2Proof.Machine.execLvAlu t f s
  | .lvCmp t f => Sys2Proof.Machine.execLvCmp t f s
  | .lvRed t f => Sys2Proof.Machine.execLvRed t f s
  | .lvMask t f => Sys2Proof.Machine.execLvMask t f s
  | .longVectorOpComplete c => Sys2Proof.Machine.execLongVectorOpComplete c s
  | .longVectorAccessComplete t errs => Sys2Proof.Machine.execLongVectorAccessComplete t errs s
  | .tcfg t f => Sys2Proof.Machine.execTcfg t f s
  | .tcfgApply t => Sys2Proof.Machine.execTcfgApply t s
  | .tcfgGrant l => Sys2Proof.Machine.execTcfgGrant l s
  | .trel t f => Sys2Proof.Machine.execTrel t f s
  | .tileContextRelease c => Sys2Proof.Machine.execTileContextRelease c s
  | .tld t f => Sys2Proof.Machine.execTld t f s
  | .tst t f => Sys2Proof.Machine.execTst t f s
  | .tzero t f => Sys2Proof.Machine.execTzero t f s
  | .tmma t f => Sys2Proof.Machine.execTmma t f s
  | .tileOpComplete c err => Sys2Proof.Machine.execTileOpComplete c err s
  | .tdrain t f => Sys2Proof.Machine.execTdrain t f s
  | .tdrainEnd c => Sys2Proof.Machine.execTdrainEnd c s
  | .tamax t f => Sys2Proof.Machine.execTamax t f s
  | .ftab t f => Sys2Proof.Machine.execFtab t f s
  | .ftabLoad t => Sys2Proof.Machine.execFtabLoad t s
  | .fapply t f => Sys2Proof.Machine.execFapply t f s
  | .fderiv t f => Sys2Proof.Machine.execFderiv t f s
  | .passGrant l band => Sys2Proof.Machine.execPassGrant l band s
  | .arrayStop l => Sys2Proof.Machine.execArrayStop l s
  | .passCheck l band hwFail => Sys2Proof.Machine.execPassCheck l band hwFail s
  | .catchRetry l hwFail => Sys2Proof.Machine.execCatchRetry l hwFail s
  | .localisationPass l marks => Sys2Proof.Machine.execLocalisationPass l marks s
  | .selfTestTile l pass => Sys2Proof.Machine.execSelfTestTile l pass s
  | .arrShapeWrite a l v => Sys2Proof.Machine.execArrShapeWrite a l v s
  | .shapeChangeApply l => Sys2Proof.Machine.execShapeChangeApply l s
  | .signalToken w addr => Sys2Proof.Machine.execSignalToken w addr s
  | .armToken w addr => Sys2Proof.Machine.execArmToken w addr s
  | .overflowPlacement => Sys2Proof.Machine.execOverflowPlacement s
  | .taskStart t => Sys2Proof.Machine.execTaskStart t s
  | .taskCompletion t => Sys2Proof.Machine.execTaskCompletion t s
  | .devTaskdbWrite a v => Sys2Proof.Machine.execDevTaskdbWrite a v s
  | .mbxSendReg a m e v => Sys2Proof.Machine.execMbxSendReg a m e v s
  | .mbxCommit a m e => Sys2Proof.Machine.execMbxCommit a m e s
  | .mbxRecvReg a m e => Sys2Proof.Machine.execMbxRecvReg a m e s
  | .mbxLockRead a m => Sys2Proof.Machine.execMbxLockRead a m s
  | .mbxLockWrite a m v => Sys2Proof.Machine.execMbxLockWrite a m v s
  | .mailboxWaitRelease t => Sys2Proof.Machine.execMailboxWaitRelease t s
  | .hostLinkUp rate width => Sys2Proof.Machine.execHostLinkUp rate width s
  | .hostLinkReset => Sys2Proof.Machine.execHostLinkReset s
  | .bar4Resize log2 => Sys2Proof.Machine.execBar4Resize log2 s
  | .bar4Read off len => Sys2Proof.Machine.execBar4Read off len s
  | .bar4Write off data => Sys2Proof.Machine.execBar4Write off data s
  | .registerWrite a bar2 off bytes v => Sys2Proof.Machine.execRegisterWrite a bar2 off bytes v s
  | .queue0Create v => Sys2Proof.Machine.execQueue0Create v s
  | .queue0Destroy v => Sys2Proof.Machine.execQueue0Destroy v s
  | .queue1Create a v => Sys2Proof.Machine.execQueue1Create a v s
  | .queue1Destroy a v => Sys2Proof.Machine.execQueue1Destroy a v s
  | .doorbell a bytes v => Sys2Proof.Machine.execDoorbell a bytes v s
  | .completionDoorbell a bytes v => Sys2Proof.Machine.execCompletionDoorbell a bytes v s
  | .commandFetch b host => Sys2Proof.Machine.execCommandFetch b host s
  | .commandComplete q n err => Sys2Proof.Machine.execCommandComplete q n err s
  | .nopCmd q n => Sys2Proof.Machine.execNopCmd q n s
  | .queueCreate q n => Sys2Proof.Machine.execQueueCreate q n s
  | .queueDestroy q n => Sys2Proof.Machine.execQueueDestroy q n s
  | .memCopy q n host => Sys2Proof.Machine.execMemCopy q n host s
  | .memFill q n => Sys2Proof.Machine.execMemFill q n s
  | .programLoad q n host => Sys2Proof.Machine.execProgramLoad q n host s
  | .taskGraphSubmit q n host => Sys2Proof.Machine.execTaskGraphSubmit q n host s
  | .taskSignal q n => Sys2Proof.Machine.execTaskSignal q n s
  | .tensorBind q n => Sys2Proof.Machine.execTensorBind q n s
  | .paramBind q n => Sys2Proof.Machine.execParamBind q n s
  | .reduceJobOpen q n => Sys2Proof.Machine.execReduceJobOpen q n s
  | .reduceJobClose q n => Sys2Proof.Machine.execReduceJobClose q n s
  | .setLatencyTolerance q n => Sys2Proof.Machine.execSetLatencyTolerance q n s
  | .setProfile q n => Sys2Proof.Machine.execSetProfile q n s
  | .profileInForce => Sys2Proof.Machine.execProfileInForce s
  | .faultLogRead q n => Sys2Proof.Machine.execFaultLogRead q n s
  | .faultClear q n => Sys2Proof.Machine.execFaultClear q n s
  | .attestQuote q n => Sys2Proof.Machine.execAttestQuote q n s
  | .fwStage q n host => Sys2Proof.Machine.execFwStage q n host s
  | .fwActivate q n => Sys2Proof.Machine.execFwActivate q n s
  | .chainEnumerate q n => Sys2Proof.Machine.execChainEnumerate q n s
  | .chainStatus q n => Sys2Proof.Machine.execChainStatus q n s
  | .chainRelease q n => Sys2Proof.Machine.execChainRelease q n s
  | .portTraining p r => Sys2Proof.Machine.execPortTraining p r s
  | .dataFlit p flit decoded => Sys2Proof.Machine.execDataFlit p flit decoded s
  | .heartbeat p hb => Sys2Proof.Machine.execHeartbeat p hb s
  | .nak p seq => Sys2Proof.Machine.execNak p seq s
  | .laneControl p => Sys2Proof.Machine.execLaneControl p s
  | .portRetrain p ok => Sys2Proof.Machine.execPortRetrain p ok s
  | .portDown p => Sys2Proof.Machine.execPortDown p s
  | .laneDegrade p lane => Sys2Proof.Machine.execLaneDegrade p lane s
  | .heartbeatSend p => Sys2Proof.Machine.execHeartbeatSend p s
  | .heartbeatMiss p => Sys2Proof.Machine.execHeartbeatMiss p s
  | .probeTimeout addr => Sys2Proof.Machine.execProbeTimeout addr s
  | .headProbeTimeout reach => Sys2Proof.Machine.execHeadProbeTimeout reach s
  | .readPkt p => Sys2Proof.Machine.execReadPkt p s
  | .writePkt p => Sys2Proof.Machine.execWritePkt p s
  | .atomicPkt p => Sys2Proof.Machine.execAtomicPkt p s
  | .tokenPacket p => Sys2Proof.Machine.execTokenPacket p s
  | .readResp p => Sys2Proof.Machine.execReadResp p s
  | .ackPkt p => Sys2Proof.Machine.execAckPkt p s
  | .errorResp p => Sys2Proof.Machine.execErrorResp p s
  | .fencedPkt p => Sys2Proof.Machine.execFencedPkt p s
  | .reroutePkt p => Sys2Proof.Machine.execReroutePkt p s
  | .enumPkt p => Sys2Proof.Machine.execEnumPkt p s
  | .topoPkt p => Sys2Proof.Machine.execTopoPkt p s
  | .memberPkt p => Sys2Proof.Machine.execMemberPkt p s
  | .probePkt p => Sys2Proof.Machine.execProbePkt p s
  | .probeResp p => Sys2Proof.Machine.execProbeResp p s
  | .joinPkt p => Sys2Proof.Machine.execJoinPkt p s
  | .claimPkt p => Sys2Proof.Machine.execClaimPkt p s
  | .leavePkt p => Sys2Proof.Machine.execLeavePkt p s
  | .redBf16 p => Sys2Proof.Machine.execRedBf16 p s
  | .redBfp16 p => Sys2Proof.Machine.execRedBfp16 p s
  | .gatherPkt p => Sys2Proof.Machine.execGatherPkt p s
  | .mirrorPkt p => Sys2Proof.Machine.execMirrorPkt p s
  | .mirrorAck p => Sys2Proof.Machine.execMirrorAck p s
  | .nojobPkt p => Sys2Proof.Machine.execNojobPkt p s
  | .restartPkt p => Sys2Proof.Machine.execRestartPkt p s
  | .stepAbort p => Sys2Proof.Machine.execStepAbort p s
  | .contributionDeadline k => Sys2Proof.Machine.execContributionDeadline k s
  | .partialWaitExpiry k => Sys2Proof.Machine.execPartialWaitExpiry k s
  | .faultDetected e => Sys2Proof.Machine.execFaultDetected e s
  | .handlingStart => Sys2Proof.Machine.execHandlingStart s
  | .handlingEnd => Sys2Proof.Machine.execHandlingEnd s
  | .preemptTimeout l => Sys2Proof.Machine.execPreemptTimeout l s
  | .spareSelfTest l pass => Sys2Proof.Machine.execSpareSelfTest l pass s
  | .lathePoll l answered => Sys2Proof.Machine.execLathePoll l answered s
  | .supervisorMismatch pair pass => Sys2Proof.Machine.execSupervisorMismatch pair pass s
  | .fltStickyWrite a n v => Sys2Proof.Machine.execFltStickyWrite a n v s
  | .scrub e => Sys2Proof.Machine.execScrub e s
  | .rowCopyComplete => Sys2Proof.Machine.execRowCopyComplete s
  | .memModeWrite a v => Sys2Proof.Machine.execMemModeWrite a v s
  | .memModeApply => Sys2Proof.Machine.execMemModeApply s
  | .memRinvGo a => Sys2Proof.Machine.execMemRinvGo a s
  | .invalidationComplete => Sys2Proof.Machine.execInvalidationComplete s
  | .ratWrite a n lim v => Sys2Proof.Machine.execRatWrite a n lim v s
  | .ratWriteComplete => Sys2Proof.Machine.execRatWriteComplete s
  | .worldWrite a reg v => Sys2Proof.Machine.execWorldWrite a reg v s
  | .worldChangeApply blk => Sys2Proof.Machine.execWorldChangeApply blk s
  | .secVstatClear a => Sys2Proof.Machine.execSecVstatClear a s
  | .secExtend a v => Sys2Proof.Machine.execSecExtend a v s
  | .devRecoveryGo v => Sys2Proof.Machine.execDevRecoveryGo v s
  | .recoveryCheckDone => Sys2Proof.Machine.execRecoveryCheckDone s
  | .latheIdle l => Sys2Proof.Machine.execLatheIdle l s
  | .a4Entry => Sys2Proof.Machine.execA4Entry s
  | .wakeComplete l => Sys2Proof.Machine.execWakeComplete l s
  | .powerSample watts limited => Sys2Proof.Machine.execPowerSample watts limited s
  | .thermalSample temps => Sys2Proof.Machine.execThermalSample temps s
  | .hardwareShutdown die => Sys2Proof.Machine.execHardwareShutdown die s
  | .compaction => Sys2Proof.Machine.execCompaction s
  | .compactionStepDone => Sys2Proof.Machine.execCompactionStepDone s
  | .powerLoss torn => Sys2Proof.Machine.execPowerLoss torn s
  | .bar0Read bar2 off bytes => Sys2Proof.Machine.execBar0Read bar2 off bytes s
  | .completionTimeout q n => Sys2Proof.Machine.execCompletionTimeout q n s

end Sys2Proof.Machine
end

