-- ==== Sys2Proof/Safety.lean ====
section
/-!
DEFINITION. What counts as a safe state and a safe run of the block, and the terms in which claims speak of it: memory stands in
its canonical form; a run goes on, since the spec describes every fault of the device as an effect on its state; and when a
thread issues its next instruction, with what it then leaves.
-/

namespace Sys2Proof.Machine

/-- Memory stands in its canonical form: addresses strictly rising, and no cell that reads as an unlisted one does. -/
def Mem.wf (m : Mem) : Bool := cellsWf m.cells

def State.memOk (s : State) : Bool := s.mem.wf

/-- A command answers a next state. -/
def goesOn (c : Instr) (s : State) : Prop := ∃ t, exec c s = .next t

/-- A command answers a next state of which `P` holds. -/
def leadsTo (c : Instr) (s : State) (P : State → Prop) : Prop := ∃ t, exec c s = .next t ∧ P t

/-- The byte of memory at a local address. -/
def byteAt (s : State) (a : Nat) : Byte := cellGet s.mem.cells a

/-! ## When a thread issues the instruction at its PC (02) -/

/-- Thread `t` runs with its lathe's clock (R54, 01 R21), no repeat, stale epoch, late trap or interrupt stands before its next
instruction, the fetch is permitted and its line cached (R54, R74), and no load whose value is due lacks its data (R80). -/
structure CanIssue (s : State) (t : Tid) : Prop where
  noRepeat : (s.thr t).rep = none
  running : (s.thr t).st = .running
  clock : clockRuns s t = true
  notFenced : (s.lathe t.lathe.val).svc ≠ .fenced
  noLateTrap : lateDue (s.thr t) = none
  noInterrupt : (s.thr t).bound = true ∨ irqOf s t = none
  fetchable : fetchCheck s t (s.thr t).pc = .ok
  cached : (icHit (s.core t.lathe.val t.core.val) (lineOf t (s.thr t).pc) || (s.thr t).fetched.contains (lineOf t (s.thr t).pc)) =
    true
  loadsIn : dueAbsent (s.thr t) = false

/-- The thread as its instruction finds it: loads that are due have been written (R79). -/
def found (s : State) (t : Tid) : Thread := settleLoads (s.thr t)

/-- The state in which the instruction acts: the cache line is marked as used, due loads are written. -/
def begun (s : State) (t : Tid) : State :=
  (s.setCore t.lathe.val t.core.val (icTouch (s.core t.lathe.val t.core.val) (lineOf t (s.thr t).pc))).setThr t (found s t)

/-- The thread has issued one more instruction and stands at `pc`. -/
def issuedAt (x : Thread) (pc : Word) : Thread := { countPos x with pc := pc, bankGrant := none, bound := false, fetched := [], resume := none }

/-- The instruction has left thread `t` as `x` and the PC at `pc`, and nothing else has changed. -/
def moved (s : State) (t : Tid) (x : Thread) (pc : Word) : State := (begun s t).setThr t (issuedAt x pc)

/-- The PC of the next instruction in order. -/
def pcNext (s : State) (t : Tid) : Word := (s.thr t).pc + 8

/-- Guard 1 (R63). -/
def guarded (s : State) (t : Tid) (f : Fld) : Prop := guardOf (found s t) f = true

/-- Thread `t` of `u` has entered the runtime level from the instruction at its PC in `s` (R97), no load being pending and no
repeat in progress; its registers and all memory are as the instruction found them. -/
structure Entered (s u : State) (t : Tid) (cause : Nat) (xtval inst : Word) : Prop where
  xepc : (u.thr t).xepc = (s.thr t).pc
  xcause : (u.thr t).xcause = BitVec.ofNat 64 cause
  xtval : (u.thr t).xtval = xtval
  xinst : (u.thr t).xinst = inst
  xrep : (u.thr t).xrep = 0
  ppl : (u.thr t).ppl = (s.thr t).level
  pie : (u.thr t).pie = (s.thr t).ie
  ie : (u.thr t).ie = false
  tl : (u.thr t).tl = true
  nest : (u.thr t).nest = false
  level : (u.thr t).level = runtimeLevel (s.lathe t.lathe.val).world
  pc : (u.thr t).pc = (s.core t.lathe.val t.core.val).xtvec + BitVec.ofNat 64 (0x40 * cause)
  general : (u.thr t).g = (found s t).g
  predicates : (u.thr t).p = (found s t).p
  vectors : (u.thr t).v = (found s t).v
  memory : u.mem = s.mem
  registers : u.ctl = s.ctl
  others : ∀ k, k ≠ tkey t → mget? u.threads k = mget? s.threads k

/-- A trap of the instruction at the PC is an entry: its loads have arrived, it is no double trap (R97, R99). -/
structure CanTrap (s : State) (t : Tid) : Prop where
  arrived : allArrived (found s t) = true
  single : (s.thr t).tl = false ∨ (s.thr t).nest = true

end Sys2Proof.Machine
end

