-- ==== Sys2Proof/Certificates/Slice0/Obligations.lean ====
section
/-!
DEFINITION. The statements for the provers. Each formalises rules of spec/ about what a command or the block does; its docstring
names them. `CanIssue`, `found`, `moved` and the other terms about a thread's instruction are in Sys2Proof/Safety.lean.
-/

namespace Sys2Proof.Claims

open Sys2Proof.Machine

/-- A core instruction before its thread and fields. -/
abbrev Form := Tid → Fld → Instr

/-! ## Forms of the scalar instructions (02 Table 2-6): fields that are legal -/

def ggg0 (f : Fld) : Bool := fieldsOk .g .g .g f && f.imm == 0
def ggzI (f : Fld) : Bool := fieldsOk .g .g .z f
def gg6 (f : Fld) : Bool := fieldsOk .g .g .z f && immBelow f 6
def pgg0 (f : Fld) : Bool := fieldsOk .p .g .g f && f.imm == 0
def pgzI (f : Fld) : Bool := fieldsOk .p .g .z f
def ppp0 (f : Fld) : Bool := fieldsOk .p .p .p f && f.imm == 0
def ggg1 (f : Fld) : Bool := fieldsOk .g .g .g f && immBelow f 1
def ggz1 (f : Fld) : Bool := fieldsOk .g .g .z f && immBelow f 1
def pgg1 (f : Fld) : Bool := fieldsOk .p .g .g f && immBelow f 1

/-- Constructor, opcode and legal fields of the integer, compare and branch rows. -/
def rowsA : List (Form × Nat × (Fld → Bool)) :=
  [(.add, 0x000, ggg0), (.sub, 0x001, ggg0), (.andd, 0x002, ggg0), (.orr, 0x003, ggg0), (.xorr, 0x004, ggg0),
   (.shl, 0x005, ggg0), (.shr, 0x006, ggg0), (.sra, 0x007, ggg0), (.mul, 0x008, ggg0), (.mulh, 0x009, ggg0),
   (.mulhu, 0x00A, ggg0), (.divv, 0x00B, ggg0), (.divu, 0x00C, ggg0), (.remm, 0x00D, ggg0), (.remu, 0x00E, ggg0),
   (.minn, 0x00F, ggg0), (.maxx, 0x010, ggg0), (.minu, 0x011, ggg0), (.maxu, 0x012, ggg0)]

def rowsB : List (Form × Nat × (Fld → Bool)) :=
  [(.addi, 0x020, ggzI), (.andi, 0x022, ggzI), (.ori, 0x023, ggzI), (.xori, 0x024, ggzI), (.shli, 0x025, gg6),
   (.shri, 0x026, gg6), (.srai, 0x027, gg6), (.muli, 0x028, ggzI), (.li, 0x030, fieldsOk .g .z .z),
   (.lih, 0x031, fieldsOk .g .z .z), (.cmpeq, 0x040, pgg0), (.cmpne, 0x041, pgg0), (.cmplt, 0x042, pgg0),
   (.cmple, 0x043, pgg0), (.cmpltu, 0x044, pgg0), (.cmpleu, 0x045, pgg0), (.cmpeqi, 0x048, pgzI), (.cmpnei, 0x049, pgzI),
   (.cmplti, 0x04A, pgzI), (.cmplei, 0x04B, pgzI), (.cmpltui, 0x04C, pgzI), (.cmpleui, 0x04D, pgzI)]

def rowsC : List (Form × Nat × (Fld → Bool)) :=
  [(.pand, 0x050, ppp0), (.por, 0x051, ppp0), (.pxor, 0x052, ppp0), (.pandn, 0x053, ppp0),
   (.pset, 0x054, fun f => fieldsOk .p .g .z f && f.imm == 0), (.pget, 0x055, fun f => fieldsOk .g .p .z f && f.imm == 0),
   (.pseti, 0x056, fun f => fieldsOk .p .z .z f && immBelow f 16), (.br, 0x060, fieldsOk .z .z .z),
   (.jal, 0x061, fieldsOk .g .z .z), (.jalr, 0x062, fieldsOk .g .g .z), (.ldb, 0x080, ggzI), (.ldh, 0x081, ggzI),
   (.ldw, 0x082, ggzI), (.ldd, 0x083, ggzI), (.ldbu, 0x084, ggzI), (.ldhu, 0x085, ggzI), (.ldwu, 0x086, ggzI),
   (.stb, 0x088, fieldsOk .z .g .g), (.sth, 0x089, fieldsOk .z .g .g), (.stw, 0x08A, fieldsOk .z .g .g),
   (.std, 0x08B, fieldsOk .z .g .g)]

def rowsD : List (Form × Nat × (Fld → Bool)) :=
  [(.amoaddW, 0x090, fieldsOk .g .g .g), (.amoaddD, 0x091, fieldsOk .g .g .g), (.amoswapW, 0x092, fieldsOk .g .g .g),
   (.amoswapD, 0x093, fieldsOk .g .g .g), (.casW, 0x094, fieldsOk .g .g .g), (.casD, 0x095, fieldsOk .g .g .g),
   (.fence, 0x0A0, fun f => fieldsOk .z .z .z f && immBelow f 1), (.fadd, 0x0C0, ggg1), (.fsub, 0x0C1, ggg1),
   (.fmul, 0x0C2, ggg1), (.fdiv, 0x0C3, ggg1), (.fsqrt, 0x0C4, ggz1), (.fma, 0x0C5, ggg1), (.fmin, 0x0C6, ggg1),
   (.fmax, 0x0C7, ggg1), (.fcvti, 0x0C8, ggz1), (.fcvtf, 0x0C9, ggz1), (.fcvtw, 0x0CA, ggz1), (.fcmpeq, 0x0D0, pgg1),
   (.fcmplt, 0x0D1, pgg1), (.fcmple, 0x0D2, pgg1), (.fcmpun, 0x0D3, pgg1),
   (.yieldOp, 0x0E3, fun f => fieldsOk .z .z .z f && immBelow f 0), (.brk, 0x0E4, fieldsOk .z .z .z),
   (.doneTask, 0x0E5, fun f => fieldsOk .z .z .z f && immBelow f 0)]

/-- The scalar instructions whose only check whatever the guard is that of their fields. -/
def scalarRows : List (Form × Nat × (Fld → Bool)) := rowsA ++ (rowsB ++ (rowsC ++ rowsD))

/-! ## Operations of the integer instructions, as Table 2-6 words them -/

def intOps : List (Form × (Word → Word → Word)) :=
  [(.add, fun a b => a + b), (.sub, fun a b => a - b), (.andd, fun a b => a &&& b), (.orr, fun a b => a ||| b),
   (.xorr, fun a b => a ^^^ b), (.shl, fun a b => a <<< b.setWidth 6), (.shr, fun a b => a >>> b.setWidth 6),
   (.sra, fun a b => a.sshiftRight' (b.setWidth 6)), (.mul, fun a b => a * b),
   (.mulh, fun a b => ((a.signExtend 128 * b.signExtend 128) >>> 64).setWidth 64),
   (.mulhu, fun a b => ((a.setWidth 128 * b.setWidth 128) >>> 64).setWidth 64),
   (.minn, fun a b => if a.toInt ≤ b.toInt then a else b), (.maxx, fun a b => if a.toInt ≤ b.toInt then b else a),
   (.minu, fun a b => if a.toNat ≤ b.toNat then a else b), (.maxu, fun a b => if a.toNat ≤ b.toNat then b else a)]

/-- Immediate instructions, with how many bits of imm may be nonzero. -/
def immOps : List (Form × Nat × (Word → Word → Word)) :=
  [(.addi, 32, fun a b => a + b), (.andi, 32, fun a b => a &&& b), (.ori, 32, fun a b => a ||| b),
   (.xori, 32, fun a b => a ^^^ b), (.shli, 6, fun a b => a <<< b.setWidth 6), (.shri, 6, fun a b => a >>> b.setWidth 6),
   (.srai, 6, fun a b => a.sshiftRight' (b.setWidth 6)), (.muli, 32, fun a b => a * b)]

/-- The long-latency integer instructions (R68). -/
def divOps : List (Form × (Word → Word → Word)) :=
  [(.divv, fun a b => if b = 0 then -1 else BitVec.ofInt 64 (a.toInt.tdiv b.toInt)),
   (.divu, fun a b => if b = 0 then 0xFFFFFFFFFFFFFFFF#64 else a / b),
   (.remm, fun a b => if b = 0 then a else BitVec.ofInt 64 (a.toInt.tmod b.toInt)),
   (.remu, fun a b => if b = 0 then a else a % b)]

/-- Relations of the compares: register forms and immediate forms. -/
def cmpOps : List (Form × Form × (Word → Word → Prop)) :=
  [(.cmpeq, .cmpeqi, fun a b => a = b), (.cmpne, .cmpnei, fun a b => a ≠ b), (.cmplt, .cmplti, fun a b => a.toInt < b.toInt),
   (.cmple, .cmplei, fun a b => a.toInt ≤ b.toInt), (.cmpltu, .cmpltui, fun a b => a.toNat < b.toNat),
   (.cmpleu, .cmpleui, fun a b => a.toNat ≤ b.toNat)]

def predOps : List (Form × (BitVec 16 → BitVec 16 → BitVec 16)) :=
  [(.pand, fun a b => a &&& b), (.por, fun a b => a ||| b), (.pxor, fun a b => a ^^^ b), (.pandn, fun a b => a &&& ~~~b)]

end Sys2Proof.Claims

open Sys2Proof Sys2Proof.Machine Sys2Proof.Claims

/-! ## The block -/

/-- The front of the queue is the command a step executes, on the state with the queue's rest. An empty queue idles: the
model's choice (notes/assumptions/1.md). -/
def Obligations.Step : Prop :=
  (∀ (c : Instr) (r : List Instr) (s : State), step (s.withPending (c :: r)) = exec c (s.withPending r)) ∧
  (∀ s : State, s.pending = [] → step s = .next s)

/-- Reset (R35, R40, R27): both pins low, no start, DEV_TIME 0, DEV_READY low, memory and queue empty. -/
def Obligations.ResetState : Prop :=
  State.reset.pending = [] ∧ State.reset.plat.pwrOk = false ∧ State.reset.plat.perstN = false ∧
    State.reset.plat.started = false ∧ State.reset.plat.ready = false ∧ State.reset.plat.devTime = 0 ∧
    (∀ a, byteAt State.reset a = 0) ∧ State.reset.out = []

/-- The canonical form of memory holds at reset. -/
def Obligations.ResetMemoryCanonical : Prop := State.reset.memOk = true

/-- Every step keeps the canonical form of memory. -/
def Obligations.StepKeepsMemoryCanonical : Prop :=
  ∀ s u : State, s.memOk = true → step s = .next u → u.memOk = true

/-- Every command answers a next state, whatever the state: the spec describes every fault of the device as an effect. No
command takes from the queue or adds to it. -/
def Obligations.EveryCommandAnswers : Prop :=
  ∀ (c : Instr) (s : State), ∃ u, exec c s = .next u ∧ u.pending = s.pending

/-! ## Scalar instructions (02) -/

/-- Integer register and immediate instructions, LI and LIH, with guard 1: d is written (g0 discards), the PC moves by 8 (R67,
R58, R68 first sentence). Divisions and remainders: the thread waits with the result of R68, and the end of its latency writes
it. -/
def Obligations.IntegerResults : Prop :=
  ((∀ p ∈ intOps, ∀ t f s, CanIssue s t → guarded s t f → ggg0 f = true →
     exec (p.1 t f) s = .next (moved s t ((found s t).wg f.d.toNat
       (p.2 ((found s t).rg f.s1.toNat) ((found s t).rg f.s2.toNat))) (pcNext s t))) ∧
   (∀ p ∈ immOps, ∀ t f s, CanIssue s t → guarded s t f → ggzI f = true → f.imm.toNat < 2 ^ p.2.1 →
     exec (p.1 t f) s = .next (moved s t ((found s t).wg f.d.toNat
       (p.2.2 ((found s t).rg f.s1.toNat) (f.imm.signExtend 64))) (pcNext s t))) ∧
   (∀ t f s, CanIssue s t → guarded s t f → fieldsOk .g .z .z f = true →
     exec (.li t f) s = .next (moved s t ((found s t).wg f.d.toNat (f.imm.signExtend 64)) (pcNext s t)) ∧
     exec (.lih t f) s = .next (moved s t ((found s t).wg f.d.toNat
       (f.imm ++ ((found s t).rg f.d.toNat).setWidth 32)) (pcNext s t)))) ∧
  ((∀ p ∈ divOps, ∀ t f s, CanIssue s t → guarded s t f → ggg0 f = true →
     exec (p.1 t f) s = .next (leave (moved s t { found s t with
       result := some (f.d.toNat, p.2 ((found s t).rg f.s1.toNat) ((found s t).rg f.s2.toNat)) } (pcNext s t)) t
       (.waiting .longLatency))) ∧
   (∀ t s r v, (s.thr t).st = .waiting .longLatency → clockRuns s t = true → (s.thr t).result = some (r, v) →
     leadsTo (.longLatencyResult t) s (fun u => (r ≠ 0 → (u.thr t).rg r = v) ∧ (∀ n, n ≠ r → (u.thr t).rg n = (s.thr t).rg n) ∧
       (u.thr t).result = none ∧ ((u.thr t).st = .ready ∨ (u.thr t).st = .running) ∧ (u.thr t).pc = (s.thr t).pc ∧
       (∀ a, byteAt u a = byteAt s a))) ∧
   (∀ a b : Word, a = 0x8000000000000000#64 → b = -1 → opDiv a b = a ∧ opRem a b = 0))

/-- Compare and predicate instructions write all 16 bits of their destination predicate; a scalar compare writes all ones or all
zeros (R69). p0 discards. -/
def Obligations.PredicateResults : Prop :=
  (∀ p ∈ cmpOps, ∀ t f s, CanIssue s t → guarded s t f →
    (pgg0 f = true → ∃ m : BitVec 16, exec (p.1 t f) s = .next (moved s t ((found s t).wp f.d.toNat m) (pcNext s t)) ∧
      (m = 0xFFFF#16 ∨ m = 0) ∧
      (m = 0xFFFF#16 ↔ p.2.2 ((found s t).rg f.s1.toNat) ((found s t).rg f.s2.toNat))) ∧
    (pgzI f = true → ∃ m : BitVec 16, exec (p.2.1 t f) s = .next (moved s t ((found s t).wp f.d.toNat m) (pcNext s t)) ∧
      (m = 0xFFFF#16 ∨ m = 0) ∧
      (m = 0xFFFF#16 ↔ p.2.2 ((found s t).rg f.s1.toNat) (f.imm.signExtend 64)))) ∧
  (∀ p ∈ predOps, ∀ t f s, CanIssue s t → guarded s t f → ppp0 f = true →
    exec (p.1 t f) s = .next (moved s t ((found s t).wp f.d.toNat
      (p.2 ((found s t).rp f.s1.toNat) ((found s t).rp f.s2.toNat))) (pcNext s t))) ∧
  (∀ t f s, CanIssue s t → guarded s t f →
    (fieldsOk .p .g .z f = true → f.imm = 0 →
      exec (.pset t f) s = .next (moved s t ((found s t).wp f.d.toNat (((found s t).rg f.s1.toNat).setWidth 16)) (pcNext s t))) ∧
    (fieldsOk .g .p .z f = true → f.imm = 0 →
      exec (.pget t f) s = .next (moved s t ((found s t).wg f.d.toNat (((found s t).rp f.s1.toNat).setWidth 64)) (pcNext s t))) ∧
    (fieldsOk .p .z .z f = true → f.imm.toNat < 2 ^ 16 →
      exec (.pseti t f) s = .next (moved s t ((found s t).wp f.d.toNat (f.imm.setWidth 16)) (pcNext s t)))) ∧
  (∀ t f s, CanIssue s t → guarded s t f → pgg1 f = true → ∀ i ∈ [Instr.fcmpeq t f, .fcmplt t f, .fcmple t f, .fcmpun t f],
    leadsTo i s (fun u => ∃ m : BitVec 16, (m = 0xFFFF#16 ∨ m = 0) ∧
      u = moved s t { (found s t).wp f.d.toNat m with fpcsr := (u.thr t).fpcsr } (pcNext s t)))

/-- Branches take effect at once; a guarded-off branch falls through to PC + 8; a JALR to a misaligned target raises XC_ALIGN
with the target and changes neither d nor the PC (R70). -/
def Obligations.Branches : Prop :=
  ∀ t f s, CanIssue s t →
    (guarded s t f →
      (fieldsOk .z .z .z f = true →
        exec (.br t f) s = .next (moved s t (found s t) ((s.thr t).pc + f.imm.signExtend 64 * 8))) ∧
      (fieldsOk .g .z .z f = true →
        exec (.jal t f) s = .next (moved s t ((found s t).wg f.d.toNat (pcNext s t)) ((s.thr t).pc + f.imm.signExtend 64 * 8))) ∧
      (fieldsOk .g .g .z f = true →
        let p := (found s t).rg f.s1.toNat + f.imm.signExtend 64
        (p.toNat % 8 = 0 → exec (.jalr t f) s = .next (moved s t ((found s t).wg f.d.toNat (pcNext s t)) p)) ∧
        (p.toNat % 8 ≠ 0 → CanTrap s t → leadsTo (.jalr t f) s (fun u => Entered s u t xAlign p (insWord 0x062 f))))) ∧
    (¬guarded s t f →
      (fieldsOk .z .z .z f = true → exec (.br t f) s = .next (moved s t (found s t) (pcNext s t))) ∧
      (fieldsOk .g .z .z f = true → exec (.jal t f) s = .next (moved s t (found s t) (pcNext s t))) ∧
      (fieldsOk .g .g .z f = true → exec (.jalr t f) s = .next (moved s t (found s t) (pcNext s t))))

/-- With guard 0 a scalar instruction issues, moves the PC and changes nothing else (R63). A field outside its row of Table 2-6
raises XC_ILLEGAL, whatever the guard (R62, R64), and the trap enters the runtime level (R97). A synchronous trap with tl = 1
and nest = 0 is a double trap: the thread stops in WAITING with its registers as they were, and the event is detected (R99). -/
def Obligations.IllegalFieldsTrap : Prop :=
  (∀ r ∈ scalarRows, ∀ t f s, CanIssue s t → ¬guarded s t f → r.2.2 f = true →
     exec (r.1 t f) s = .next (moved s t (found s t) (pcNext s t))) ∧
  ((∀ r ∈ scalarRows, ∀ t f s, CanIssue s t → CanTrap s t → r.2.2 f = false →
      leadsTo (r.1 t f) s (fun u => Entered s u t xIllegal 0 (insWord r.2.1 f))) ∧
   (∀ r ∈ scalarRows, ∀ t f s, CanIssue s t → allArrived (found s t) = true → (s.thr t).tl = true → (s.thr t).nest = false →
      r.2.2 f = false →
      leadsTo (r.1 t f) s (fun u => (u.thr t).st = .waiting .doubleTrap ∧ (u.thr t).pc = (s.thr t).pc ∧
        (u.thr t).g = (found s t).g ∧ (u.thr t).p = (found s t).p ∧ (u.thr t).level = (s.thr t).level ∧
        (u.thr t).xepc = (s.thr t).xepc ∧ (u.thr t).xcause = (s.thr t).xcause ∧ (u.thr t).xinst = (s.thr t).xinst ∧
        ctlGet u rFltSeq = ctlGet s rFltSeq + 1 ∧ (∀ a, byteAt u a = byteAt s a))))

/-- The frame of the instructions that write at most one general or predicate register: everything else stands as before. A
JALR is taken with an aligned target. Another thread of the core may be selected. -/
def Obligations.RegisterInstructionsFrame : Prop :=
  ∀ r ∈ rowsA ++ (rowsB ++ rowsC.take 10), ∀ t f s u, CanIssue s t → r.2.2 f = true →
    (r.1 t f = .jalr t f → ((found s t).rg f.s1.toNat + f.imm.signExtend 64).toNat % 8 = 0) → exec (r.1 t f) s = .next u →
    (∀ n, n ≠ f.d.toNat → (u.thr t).rg n = (found s t).rg n ∧ (u.thr t).rp n = (s.thr t).rp n) ∧
    ((u.thr t).g = (found s t).g ∨ (u.thr t).p = (s.thr t).p) ∧
    (u.thr t).v = (s.thr t).v ∧ (u.thr t).fpcsr = (s.thr t).fpcsr ∧ (u.thr t).level = (s.thr t).level ∧
    (u.thr t).ie = (s.thr t).ie ∧ (u.thr t).tl = (s.thr t).tl ∧ (u.thr t).nest = (s.thr t).nest ∧
    (u.thr t).xepc = (s.thr t).xepc ∧ (u.thr t).xcause = (s.thr t).xcause ∧ (u.thr t).xtval = (s.thr t).xtval ∧
    (u.thr t).xinst = (s.thr t).xinst ∧ (u.thr t).xrep = (s.thr t).xrep ∧ (u.thr t).win = (s.thr t).win ∧
    (u.thr t).task = (s.thr t).task ∧ (u.thr t).sbuf = (s.thr t).sbuf ∧ (u.thr t).coreTask = (s.thr t).coreTask ∧
    (∀ a, byteAt u a = byteAt s a) ∧ u.ctl = s.ctl ∧ u.lathes = s.lathes ∧ u.out = s.out ∧
    (∀ x : Tid, x ≠ t → ∃ st, u.thr x = { s.thr x with st := st })

/-! ## Loads, stores and atomics (02 R71 to R81, R551) -/

namespace Sys2Proof.Claims

open Sys2Proof.Machine

/-- The loads: opcode, size in bytes, sign extension. -/
def loadOps : List (Form × Nat × Nat × Bool) :=
  [(.ldb, 0x080, 1, true), (.ldh, 0x081, 2, true), (.ldw, 0x082, 4, true), (.ldd, 0x083, 8, false),
   (.ldbu, 0x084, 1, false), (.ldhu, 0x085, 2, false), (.ldwu, 0x086, 4, false)]

def storeOps : List (Form × Nat × Nat) := [(.stb, 0x088, 1), (.sth, 0x089, 2), (.stw, 0x08A, 4), (.std, 0x08B, 8)]

def amoOps : List (Form × Nat × AmoKind × Nat) :=
  [(.amoaddW, 0x090, .add, 4), (.amoaddD, 0x091, .add, 8), (.amoswapW, 0x092, .swap, 4), (.amoswapD, 0x093, .swap, 8),
   (.casW, 0x094, .cas, 4), (.casD, 0x095, .cas, 8)]

/-- The effective address g[s1] + sx(imm) (R71). -/
def ea (s : State) (t : Tid) (f : Fld) : Word := (found s t).rg f.s1.toNat + f.imm.signExtend 64

/-- Little-endian value of `n` bytes at a local address, sign- or zero-extended to 64 bits. -/
def loaded (s : State) (a n : Nat) (signed : Bool) : Word :=
  let v : BitVec (8 * n) := BitVec.ofNat (8 * n) (leNat ((List.range n).map (fun k => byteAt s (a + k))))
  if signed then v.signExtend 64 else v.setWidth 64

/-- Every byte of memory outside `n` bytes at `a` is as before. -/
def sameOutside (s u : State) (a n : Nat) : Prop := ∀ c, c < a ∨ a + n ≤ c → byteAt u c = byteAt s c

/-- No byte of memory has changed. -/
def sameMemory (s u : State) : Prop := ∀ c, byteAt u c = byteAt s c

/-- An access of thread `t` that reaches byte `r` of memory and waits for nothing: its checks pass (R72, R91), the row is not being
copied (08 R323), and its bank queue, if it meets one, has room or has already accepted it (08 R325). `home`: an atomic, which
acts at the home. -/
structure Reaches (s : State) (t : Tid) (p : Perm) (a : Word) (size r : Nat) (home : Bool) : Prop where
  checked : checkData s t p a size home = .ok
  lies : placeOf s t a = .ram r
  name_ : canon s t a = r
  free : memBusy s r = false
  bank : ∀ b, bankMet (begun s t) t r home = some b →
    bankFull (begun s t) t.lathe.val b = false ∨ ∃ g, (s.thr t).bankGrant = some g ∧ g.1 = b

/-- A thread that has been woken or not: READY, RUNNING or in the state it was in. -/
def wokenOr (st st0 : TState) : Prop := st = .ready ∨ st = .running ∨ st = st0

/-- The thread has issued its instruction, which left it as `x`, and stands at the next one; no byte of memory, no control register
and no other thread has changed. -/
structure Issued (s u : State) (t : Tid) (x : Thread) : Prop where
  thread : u.thr t = issuedAt x (pcNext s t)
  memory : sameMemory s u
  registers : u.ctl = s.ctl
  others : ∀ k, k ≠ tkey t → mget? u.threads k = mget? s.threads k

/-- The pending load or atomic that an instruction has just listed: two more instructions issue before its value is visible (R79),
its own issue being the third position. -/
structure IsListed (s : State) (t : Tid) (f : Fld) (op size : Nat) (signed : Bool) (amo : Option (AmoKind × Word × Word))
    (q : PendLoad) : Prop where
  destination : q.dst = f.d.toNat
  position : q.cnt = 3
  address : q.addr = ea s t f
  bytes : q.size = size ∧ q.signed = signed
  operation : q.amo = amo
  origin : q.pc = (s.thr t).pc ∧ q.inst = insWord op f

/-- Its request stands at a memory of this device, unserved. -/
def Waits (q : PendLoad) : Prop := q.val = none ∧ q.got = none ∧ q.tag = none

/-- A request of this device for thread `t` to device `dst`: listed under the next tag; in a packet to port `o`, or held. -/
structure Asked (s u : State) (dst : BitVec 16) (ty : Byte) (addr : BitVec 48) (payload : List Byte) (origin : Origin) :
    Prop where
  listed : ∃ q ∈ u.chain.outst, q.tag = s.chain.nextTag ∧ q.dst = dst ∧ q.origin = origin ∧ q.pkt.type = ty ∧
    q.pkt.addr = addr ∧ q.pkt.payload = payload ∧ (heldTo s dst = false → q.port = route s dst)
  tag : u.chain.nextTag = s.chain.nextTag + 1
  sent : heldTo s dst = true → ∃ k, u.chain.heldTx = s.chain.heldTx ++ [k] ∧ k.dst = dst ∧ k.type = ty ∧ k.addr = addr ∧
    k.payload = payload ∧ k.tag = s.chain.nextTag

/-- Load or atomic `p` of thread `t` is the `slot`-th whose data has not arrived, and it may arrive now. -/
structure Arriving (s : State) (t : Tid) (slot : Fin 2) (k : Nat) (p : PendLoad) : Prop where
  listed : (unarrived (s.thr t))[slot.val]? = some (k, p)
  only : ∀ q ∈ (s.thr t).loads, q.age = p.age → q.val = none → q.tag = none → q = p
  clock : clockRuns s t = true
  going : (s.thr t).st ≠ .waiting .poison

/-- No older request stands before an access of age `age` at its bank, or of the same thread to its bytes (08 R326, R57). -/
def FirstInLine (s : State) (t : Tid) (bank : Option Nat) (age a n : Nat) : Prop :=
  ∀ u q, q ∈ (s.thr u).loads → ahead s (some t) bank age a n u q = false

/-- Its request is served by memory now. -/
structure Served (s : State) (t : Tid) (p : PendLoad) : Prop where
  unserved : p.got = none
  lies : placeOf s t p.addr = .ram (canon s t p.addr)
  free : memBusy s (canon s t p.addr) = false
  clean : poisonAt s (canon s t p.addr) p.size = none
  first : FirstInLine s t p.bank p.age (canon s t p.addr) p.size
  size : p.size = 1 ∨ p.size = 2 ∨ p.size = 4 ∨ p.size = 8

/-- No older request stands before a path's access to `n` bytes at `a`, at any of their banks. -/
def Quiet (s : State) (t : Tid) (a n : Nat) : Prop := ∀ l ∈ runLines a n, FirstInLine s t (some (bankOf s l)) s.mem.presented a n

/-- The thread goes on behind the instruction it waited at, its repetition done where a repeat is in progress. -/
structure GoesOn (s u : State) (t : Tid) : Prop where
  state : (u.thr t).st = .ready ∨ (u.thr t).st = .running
  next_ : (s.thr t).rep = none → (u.thr t).pc = (s.thr t).pc + 8 ∧ (u.thr t).rep = none
  held : ∀ q, (s.thr t).rep = some q → (u.thr t).pc = (s.thr t).pc ∧ (u.thr t).rep = some { q with held := true }

/-- The value of a load: the bytes of memory, but those that its thread's own older stores had given it (R57). -/
def valueFor (s : State) (t : Tid) (p : PendLoad) : Word :=
  let v : BitVec (8 * p.size) := BitVec.ofNat (8 * p.size) (leNat ((List.range p.size).map (fun k =>
    (mget? p.fwd (p.addr.toNat + k)).getD (byteAt s (canon s t p.addr + k)))))
  if p.signed then v.signExtend 64 else v.setWidth 64

/-- The data `v` of `p` is there, and the thread's other loads and its registers are as before. -/
structure Arrived (s u : State) (t : Tid) (p : PendLoad) (v : Word) : Prop where
  loads : (u.thr t).loads = (s.thr t).loads.map (fun q => if q = p then { p with got := none, val := some v } else q)
  general : (u.thr t).g = (s.thr t).g
  buffer : (u.thr t).sbuf = (s.thr t).sbuf
  pc : (u.thr t).pc = (s.thr t).pc
  state : wokenOr (u.thr t).st (s.thr t).st
  registers : u.ctl = s.ctl

/-- The thread stands before an instruction whose line the core does not hold, or whose due load has no data (R54, R80). -/
structure Before (s : State) (t : Tid) : Prop where
  noRepeat : (s.thr t).rep = none
  running : (s.thr t).st = .running
  clock : clockRuns s t = true
  notFenced : (s.lathe t.lathe.val).svc ≠ .fenced
  noLateTrap : lateDue (s.thr t) = none
  noInterrupt : (s.thr t).bound = true ∨ irqOf s t = none
  fetchable : fetchCheck s t (s.thr t).pc = .ok

/-- The core holds the line of the instruction at the PC. -/
def lineThere (s : State) (t : Tid) : Bool :=
  icHit (s.core t.lathe.val t.core.val) (lineOf t (s.thr t).pc) || (s.thr t).fetched.contains (lineOf t (s.thr t).pc)

/-- The thread waits with its instruction, which no interrupt comes before; nothing else of the thread or of memory has changed. -/
structure WaitsBefore (s u : State) (t : Tid) (w : Wait) : Prop where
  thread : ∃ b, u.thr t = { s.thr t with st := .waiting w, bound := b }
  memory : sameMemory s u
  registers : u.ctl = s.ctl

end Sys2Proof.Claims

/-- A load issues at once and lists its access; two more instructions issue before its value is visible (R79, R71): from memory, with
the bytes that the thread's own buffered stores give it (R57); from control space, with the register's value, for 4 and 8 bytes
(00 R9, R10); from another device, by a READ of its bytes, or of the whole line where a copy may be kept, or from the copy that its
die holds (08 R294, R310, 11 R408). Without a route the access meets an error response. The data of a load arrives: its value is
that of memory, extended as its opcode says, and no register or byte of memory changes yet (R54, R67). The load delay: a load that
is due finds its value in its register at the next instruction, the other registers are as they were, and the other loads stay
pending; each instruction that issues counts one position (R79). When the data of a load is due and absent, the thread waits before
the instruction and changes nothing (R80). -/
def Obligations.Loads : Prop :=
  (((∀ p ∈ loadOps, ∀ t f s, CanIssue s t → guarded s t f → ggzI f = true →
       (∀ r, Reaches s t .r (ea s t f) p.2.2.1 r false → leadsTo (p.1 t f) s (fun u => ∃ q,
         Issued s u t { found s t with loads := (found s t).loads ++ [q] } ∧ IsListed s t f p.2.1 p.2.2.1 p.2.2.2 none q ∧ Waits q ∧
         ∀ k, k < p.2.2.1 → mget? q.fwd ((ea s t f).toNat + k) = storedByte s t (s.thr t).sbuf (r + k))) ∧
       (∀ off, checkData s t .r (ea s t f) p.2.2.1 = .ok → isSelf s (chainOf (ea s t f)) = true → placeOf s t (ea s t f) = .ctl off →
         regCheck s t (ea s t f) p.2.2.1 = none → 4 ≤ p.2.2.1 → (s.thr t).sbuf = [] → leadsTo (p.1 t f) s (fun u => ∃ q,
           (u.thr t).loads = (issuedAt (found s t) 0).loads ++ [{ q with cnt := 2 }] ∧ IsListed s t f p.2.1 p.2.2.1 p.2.2.2 none q ∧
           q.val = some (extend p.2.2.1 p.2.2.2 (regRead (begun s t) (.thread t) off p.2.2.1).1.toNat) ∧ (u.thr t).pc = pcNext s t ∧
           (u.thr t).g = (found s t).g ∧ sameMemory s u))) ∧
    (∀ t slot s k p, Arriving s t slot k p → p.amo = none →
       (Served s t p → leadsTo (.loadDataArrival t slot) s (fun u => Arrived s u t p (valueFor s t p) ∧ sameMemory s u)) ∧
       (∀ v, p.got = some v → leadsTo (.loadDataArrival t slot) s (fun u => Arrived s u t p v ∧ sameMemory s u)))) ∧
   ((∀ x : Thread,
       (∀ p ∈ x.loads, ∀ v, p.cnt = 0 → p.dst ≠ 0 → p.val = some v → (∀ q ∈ x.loads, q.cnt = 0 → q.dst = p.dst → q = p) →
         (settleLoads x).rg p.dst = v) ∧
       (∀ n, (∀ p ∈ x.loads, p.cnt = 0 → p.dst ≠ n) → (settleLoads x).rg n = x.rg n) ∧
       (settleLoads x).rg 0 = 0 ∧ (∀ p ∈ x.loads, p.cnt ≠ 0 → p ∈ (settleLoads x).loads) ∧
       (∀ p ∈ x.loads, p.cnt = 0 → p.val ≠ none → p ∉ (settleLoads x).loads) ∧
       (∀ pc, (issuedAt x pc).loads = x.loads.map (fun p => { p with cnt := p.cnt - 1 }))) ∧
    (∀ r ∈ scalarRows, ∀ t f s, Before s t → lineThere s t = true → dueAbsent (s.thr t) = true →
       leadsTo (r.1 t f) s (fun u => WaitsBefore s u t (.loadData false))))) ∧
  (∀ p ∈ loadOps, ∀ t f s dst, CanIssue s t → guarded s t f → ggzI f = true →
     checkData s t .r (ea s t f) p.2.2.1 = .remote dst → s.chain.st ≠ .fenced →
     let line := rcacheAt s (ea s t f)
     let a := localOf (ea s t f)
     (line = true → ∀ c, copyOf s t (ea s t f) = some c → (s.thr t).sbuf = [] → leadsTo (p.1 t f) s (fun u => ∃ q,
       Issued s u t { found s t with loads := (found s t).loads ++ [q] } ∧ IsListed s t f p.2.1 p.2.2.1 p.2.2.2 none q ∧
       q.val = some (extend p.2.2.1 p.2.2.2 (leNat ((c.data.drop (a % 64)).take p.2.2.1))))) ∧
     ((line = true → copyOf s t (ea s t f) = none) →
       (heldTo s dst = true ∨ (route s dst).isSome = true → leadsTo (p.1 t f) s (fun u => ∃ q,
         Issued s u t { found s t with loads := (found s t).loads ++ [q] } ∧ IsListed s t f p.2.1 p.2.2.1 p.2.2.2 none q ∧
         q.val = none ∧ q.tag = some s.chain.nextTag ∧
         Asked s u dst pRead (BitVec.ofNat 48 (if line then a / 64 * 64 else a)) (leBytes 2 (if line then 64 else p.2.2.1))
           (.load t))) ∧
       (heldTo s dst = false → route s dst = none → leadsTo (p.1 t f) s (fun u => (u.thr t).pc = pcNext s t ∧
         (u.thr t).loads = (issuedAt (found s t) 0).loads ∧ sameMemory s u ∧
         ∃ e, (u.thr t).late = (s.thr t).late ++ [e] ∧ e.cause = xVmem ∧ e.xtval = ea s t f ∧ e.pc = (s.thr t).pc ∧
           e.inst = insWord p.2.1 f))))

/-- An access that is not a multiple of its size, and a load of 1 or 2 bytes from control space, raise XC_ALIGN with the address (R72,
00 R10); at U an access that no window grants raises XC_WINDOW with the address (R91). The trap has no effect but its entry: no
byte of memory and no register of the thread changes (R97). -/
def Obligations.DataAccessTraps : Prop :=
  ∀ t f s, CanIssue s t → CanTrap s t → guarded s t f →
    (∀ p ∈ loadOps, ggzI f = true →
      ((ea s t f).toNat % p.2.2.1 ≠ 0 ∨ (isControl s t (ea s t f) = true ∧ p.2.2.1 < 4) →
        leadsTo (p.1 t f) s (fun u => Entered s u t xAlign (ea s t f) (insWord p.2.1 f))) ∧
      ((ea s t f).toNat % p.2.2.1 = 0 → ¬(isControl s t (ea s t f) = true ∧ p.2.2.1 < 4) →
        windowOk (s.thr t) .r (ea s t f) p.2.2.1 = false →
        regCheck s t (ea s t f) p.2.2.1 = none →
        leadsTo (p.1 t f) s (fun u => Entered s u t xWindow (ea s t f) (insWord p.2.1 f)))) ∧
    (∀ p ∈ storeOps, fieldsOk .z .g .g f = true →
      ((ea s t f).toNat % p.2.2 ≠ 0 →
        leadsTo (p.1 t f) s (fun u => Entered s u t xAlign (ea s t f) (insWord p.2.1 f))) ∧
      ((ea s t f).toNat % p.2.2 = 0 → windowOk (s.thr t) .w (ea s t f) p.2.2 = false →
        leadsTo (p.1 t f) s (fun u => Entered s u t xWindow (ea s t f) (insWord p.2.1 f)))) ∧
    (∀ p ∈ amoOps, fieldsOk .g .g .g f = true →
      ((ea s t f).toNat % p.2.2.2 ≠ 0 →
        leadsTo (p.1 t f) s (fun u => Entered s u t xAlign (ea s t f) (insWord p.2.1 f))) ∧
      ((ea s t f).toNat % p.2.2.2 = 0 → windowOk (s.thr t) .rw (ea s t f) p.2.2.2 = false →
        leadsTo (p.1 t f) s (fun u => Entered s u t xWindow (ea s t f) (insWord p.2.1 f))))

/-- A store whose checks pass enters the thread's store buffer with the low bytes of s2; with eight entries in it the thread waits
instead, and memory changes in neither case (R67, R54). A store of 1 or 2 bytes to control space is dropped (00 R10). The oldest
entry of a store buffer, when its bank has room for it and serves nothing older (08 R325, R326), reaches memory: its bytes are
written at its address, every other byte stands, and the write is in flight until WRITE_COMPLETE (R54, 08 R313). An entry of another
device leaves as a WRITE of its bytes, and changes no memory here (08 R294, 11 R408). -/
def Obligations.Stores : Prop :=
  (∀ p ∈ storeOps, ∀ t f s, CanIssue s t → guarded s t f → fieldsOk .z .g .g f = true →
     let a := ea s t f
     ((checkData s t .w a p.2.2 = .ok ∧ ((∃ r, placeOf s t a = .ram r) ∨
         (∃ off, placeOf s t a = .ctl off ∧ isSelf s (chainOf a) = true ∧ 4 ≤ p.2.2 ∧ regCheck s t a p.2.2 = none ∧
           (off / 8 * 8 ≠ rMemMode ∨ (s.thr t).level ≠ .u)))) ∨
       (∃ dst, checkData s t .w a p.2.2 = .remote dst)) →
     ((s.thr t).sbuf.length < 8 → exec (p.1 t f) s = .next (moved s t { found s t with sbuf := (s.thr t).sbuf ++
       [⟨a, leBytes p.2.2 ((found s t).rg f.s2.toNat).toNat, (s.thr t).pc, insWord p.2.1 f, (s.thr t).tl⟩] } (pcNext s t))) ∧
     (8 ≤ (s.thr t).sbuf.length → exec (p.1 t f) s = .next (leaveBound (begun s t) t .storeBuffer))) ∧
  (∀ p ∈ storeOps, ∀ t f s, CanIssue s t → guarded s t f → fieldsOk .z .g .g f = true → isControl s t (ea s t f) = true → p.2.2 < 4 →
     checkData s t .w (ea s t f) p.2.2 = .ok → exec (p.1 t f) s = .next (moved s t (found s t) (pcNext s t))) ∧
  ((∀ t s e r, (s.thr t).sbuf = e :: r → clockRuns s t = true → (s.thr t).vst = none →
     (∀ a, isSelf s (chainOf e.addr) = true → placeOf s t e.addr = .ram a → memBusy s a = false →
       bankFull s t.lathe.val (bankOf s a) = false → FirstInLine s t (some (bankOf s a)) s.mem.presented a e.data.length →
       leadsTo (.storeBufferDrain t) s (fun u => (∀ k (h : k < e.data.length), byteAt u (a + k) = e.data[k]) ∧
         sameOutside s u a e.data.length ∧ (u.thr t).sbuf = r ∧
         (u.thr t).inflight = (s.thr t).inflight ++ [⟨none, some (bankOf s a)⟩] ∧ (u.thr t).loads = (s.thr t).loads ∧
         (u.thr t).g = (s.thr t).g ∧ (u.thr t).pc = (s.thr t).pc ∧ wokenOr (u.thr t).st (s.thr t).st ∧ u.ctl = s.ctl)) ∧
     (isSelf s (chainOf e.addr) = false → s.chain.st ≠ .fenced →
       (heldTo s (chainOf e.addr) = true ∨ (route s (chainOf e.addr)).isSome = true) →
       leadsTo (.storeBufferDrain t) s (fun u =>
         Asked s u (chainOf e.addr) pWrite (BitVec.ofNat 48 (localOf e.addr)) e.data (.store t e) ∧ (u.thr t).sbuf = r ∧
         (u.thr t).inflight = (s.thr t).inflight ++ [⟨some s.chain.nextTag, none⟩] ∧ (u.thr t).g = (s.thr t).g ∧
         (u.thr t).pc = (s.thr t).pc ∧ wokenOr (u.thr t).st (s.thr t).st ∧ sameMemory s u ∧ u.ctl = s.ctl))) ∧
   (∀ t s, leadsTo (.writeComplete t) s (fun u =>
     (u.thr t).inflight = (s.thr t).inflight.eraseP (fun w => w.tag.isNone) ∧
     (u.thr t).sbuf = (s.thr t).sbuf ∧ (u.thr t).g = (s.thr t).g ∧ wokenOr (u.thr t).st (s.thr t).st ∧ sameMemory s u)))

/-- An atomic issues as a load does, with its operands read; no older buffered store of the thread touches its bytes (R551, R57). One
addressed to another device leaves as an ATOMIC with its operands (08 R294, 11 R408). An atomic is performed when its data arrives,
no older request standing before it (08 R326): the old value, sign-extended where it has 4 bytes, is its value; memory holds the sum,
s2's value, or for CAS s2's value where the old one equals d's; every other byte stands (R551). -/
def Obligations.Atomics : Prop :=
  (∀ p ∈ amoOps, ∀ t f s, CanIssue s t → guarded s t f → fieldsOk .g .g .g f = true →
     (s.thr t).sbuf.all (fun e => !entryAt (begun s t) t (ea s t f) p.2.2.2 e) = true →
     let src := (found s t).rg f.s2.toNat
     let old := (found s t).rg f.d.toNat
     (∀ r, Reaches s t .rw (ea s t f) p.2.2.2 r true → leadsTo (p.1 t f) s (fun u => ∃ q,
       Issued s u t { found s t with loads := (found s t).loads ++ [q] } ∧
       IsListed s t f p.2.1 p.2.2.2 (p.2.2.2 == 4) (some (p.2.2.1, src, old)) q ∧ Waits q ∧ q.fwd = [])) ∧
     (∀ dst, checkData s t .rw (ea s t f) p.2.2.2 true = .remote dst → s.chain.st ≠ .fenced →
       (heldTo s dst = true ∨ (route s dst).isSome = true) → leadsTo (p.1 t f) s (fun u => ∃ q,
         Issued s u t { found s t with loads := (found s t).loads ++ [q] } ∧
         IsListed s t f p.2.1 p.2.2.2 (p.2.2.2 == 4) (some (p.2.2.1, src, old)) q ∧ q.val = none ∧ q.tag = some s.chain.nextTag ∧
         Asked s u dst pAtomic (BitVec.ofNat 48 (localOf (ea s t f)))
           (leBytes p.2.2.2 src.toNat ++ (if p.2.2.1 = .cas then leBytes p.2.2.2 old.toNat else [])) (.load t)))) ∧
  (∀ t slot s k p op src cmp, Arriving s t slot k p → p.amo = some (op, src, cmp) → p.signed = (p.size == 4) →
     (∀ v, p.got = some v → leadsTo (.loadDataArrival t slot) s (fun u => Arrived s u t p v ∧ sameMemory s u)) ∧
     (Served s t p → leadsTo (.loadDataArrival t slot) s (fun u =>
       let a := canon s t p.addr
       let old : BitVec (8 * p.size) := (loaded s a p.size false).setWidth (8 * p.size)
       let x : BitVec (8 * p.size) := src.setWidth (8 * p.size)
       let new : BitVec (8 * p.size) :=
         match op with
         | .add => old + x
         | .swap => x
         | .cas => if old = cmp.setWidth (8 * p.size) then x else old
       Arrived s u t p (loaded s a p.size p.signed) ∧ (loaded u a p.size false).setWidth (8 * p.size) = new ∧
       sameOutside s u a p.size)))

/-- FENCE goes on when every earlier load, store, atomic and queued operation of the thread is complete, and with imm[0] = 1 then
discards the core's instruction cache; until then the thread waits (R73). A fetch that the instruction cache does not satisfy makes
the thread wait, and the arriving line releases it; a line of an uncached region is used and not kept (R54, 08 R306). A request whose
bank queue has no room is refused and its thread waits; when the queue has room it accepts the earliest refused request of that
requester: a load or atomic then issues, a store is performed (08 R325). -/
def Obligations.FenceFetchBank : Prop :=
  (∀ t f s, CanIssue s t → guarded s t f → fieldsOk .z .z .z f = true → f.imm.toNat < 2 →
     let done := storesDone (found s t) && noneInFlight (found s t) && !hasQueued s t
     (done = true → f.imm = 0 → exec (.fence t f) s = .next (moved s t (found s t) (pcNext s t))) ∧
     (done = true → f.imm = 1 → leadsTo (.fence t f) s (fun u => (u.core t.lathe.val t.core.val).icache = [] ∧
       Issued s u t (found s t))) ∧
     (done = false → exec (.fence t f) s = .next (leaveBound (begun s t) t .fence))) ∧
  ((∀ r ∈ scalarRows, ∀ t f s, Before s t → lineThere s t = false →
     leadsTo (r.1 t f) s (fun u => WaitsBefore s u t (.fetch false))) ∧
   (∀ t s next, (s.thr t).st = .waiting (.fetch next) →
     let l := lineOf t ((s.thr t).pc + (if next then 8 else 0))
     memBusy s (l * 64) = false → clockRuns s t = true → poisonAt s (l * 64) 64 = none →
     leadsTo (.fetchFill t) s (fun u => ((ratLookup s 0 (l * 64)).uc = false → icHit (u.core t.lathe.val t.core.val) l = true) ∧
       ((ratLookup s 0 (l * 64)).uc = true → icHit (s.core t.lathe.val t.core.val) l = false → l ∈ (u.thr t).fetched ∧
         u.cores = s.cores) ∧
       ((u.thr t).st = .ready ∨ (u.thr t).st = .running) ∧ (u.thr t).pc = (s.thr t).pc ∧ (u.thr t).g = (s.thr t).g ∧
       sameMemory s u))) ∧
  ((∀ p ∈ loadOps, ∀ t f s r b, CanIssue s t → guarded s t f → ggzI f = true → checkData s t .r (ea s t f) p.2.2.1 = .ok →
     placeOf s t (ea s t f) = .ram r → memBusy s r = false → bankMet (begun s t) t r false = some b → (s.thr t).bankGrant = none →
     bankFull (begun s t) t.lathe.val b = true → s.mem.bankWait.all (fun w => w.thread != t) = true →
     leadsTo (p.1 t f) s (fun u => (u.thr t).st = .waiting .bank ∧ (u.thr t).pc = (s.thr t).pc ∧ (u.thr t).g = (found s t).g ∧
       u.mem.bankWait = s.mem.bankWait ++ [⟨b, t.lathe.val, t, false, s.mem.presented⟩] ∧ sameMemory s u)) ∧
   (∀ bank requester s b, s.mem.bankWait.find? (fun b => b.bank == bank && b.requester == requester) = some b →
     bankLoad s requester bank + bankGrants s requester bank < 8 →
     (b.store = false → (s.thr b.thread).st = .waiting .bank → leadsTo (.bankAccept bank requester) s (fun u =>
       u.mem.bankWait = s.mem.bankWait.erase b ∧ (u.thr b.thread).bankGrant = some (bank, b.age) ∧
       ((u.thr b.thread).st = .ready ∨ (u.thr b.thread).st = .running) ∧ (u.thr b.thread).pc = (s.thr b.thread).pc ∧
       sameMemory s u)) ∧
     (∀ e r a, b.store = true → (s.thr b.thread).sbuf = e :: r → isSelf s (chainOf e.addr) = true →
       placeOf s b.thread e.addr = .ram a → canon s b.thread e.addr = a → memBusy s a = false →
       FirstInLine s b.thread (some bank) b.age a e.data.length → leadsTo (.bankAccept bank requester) s (fun u =>
         u.mem.bankWait = s.mem.bankWait.erase b ∧ (u.thr b.thread).sbuf = r ∧
         (∀ k (h : k < e.data.length), byteAt u (a + k) = e.data[k]) ∧ sameOutside s u a e.data.length))))

/-! ## Scalar floating point (02 R75 to R78, 04 R549) -/

namespace Sys2Proof.Claims

open Sys2Proof.Machine

/-- FP32 and FP64 operations of two operands: the exact result with its invalid or divide-by-zero flag. -/
def fpOps : List (Form × (FVal → FVal → FVal × FFlags)) :=
  [(.fadd, FVal.add), (.fsub, fun a b => a.add b.negate), (.fmul, FVal.mul), (.fmin, FVal.pick false), (.fmax, FVal.pick true)]

/-- The value of g[n] in the format that imm[0] selects. -/
def fpReg (s : State) (t : Tid) (f : Fld) (n : Nat) : FVal :=
  (if f.imm.getLsbD 0 then fp64 else fp32).decode
    (if f.imm.getLsbD 0 then ((found s t).rg n).toNat else ((found s t).rg n).toNat % 2 ^ 32)

/-- The rounding of CORE_FPCSR.rm: 2 is toward zero, every other value nearest even (R76, 04 R163). -/
def fpMode (s : State) (t : Tid) : RMode := if ((s.thr t).fpcsr &&& 3#64) = 2#64 then .rtz else .rne

/-- A result rounded once into the format of imm[0]: its code, and the flags it adds to CORE_FPCSR[9:5]. -/
def fpOut (s : State) (t : Tid) (f : Fld) (r : FVal × FFlags) : Word × Word :=
  let c := (if f.imm.getLsbD 0 then fp64 else fp32).deliver (fpMode s t) r.1
  (BitVec.ofNat 64 c.1, ((r.2 ||| c.2).setWidth 64) <<< 5)

/-- The thread with `w` in g[d] and sticky flags `fl` added. -/
def fpWrite (x : Thread) (d : Nat) (w fl : Word) : Thread := { x.wg d w with fpcsr := x.fpcsr ||| fl }

end Sys2Proof.Claims

/-- FADD, FSUB, FMUL, FMIN, FMAX and FMA write the exact result rounded once by CORE_FPCSR.rm, set sticky flags and never trap;
FDIV and FSQRT wait with theirs (R75, R76, R78). FCVTI rounds by R76, saturates out-of-range values, returns 0 for a NaN and
sets the invalid flag then; FCVTF and FCVTW round once; a compare with a NaN is false (FCMPUN: true), and FCMPLT and FCMPLE
then set the invalid flag (R77). -/
def Obligations.FloatResults : Prop :=
  ((∀ p ∈ fpOps, ∀ t f s, CanIssue s t → guarded s t f → ggg1 f = true →
     let o := fpOut s t f (p.2 (fpReg s t f f.s1.toNat) (fpReg s t f f.s2.toNat))
     exec (p.1 t f) s = .next (moved s t (fpWrite (found s t) f.d.toNat o.1 o.2) (pcNext s t))) ∧
   (∀ t f s, CanIssue s t → guarded s t f → ggg1 f = true →
     let o := fpOut s t f ((fpReg s t f f.s1.toNat).fma (fpReg s t f f.s2.toNat) (fpReg s t f f.d.toNat))
     exec (.fma t f) s = .next (moved s t (fpWrite (found s t) f.d.toNat o.1 o.2) (pcNext s t))) ∧
   (∀ t f s, CanIssue s t → guarded s t f → ggg1 f = true →
     let o := fpOut s t f ((fpReg s t f f.s1.toNat).div (fpReg s t f f.s2.toNat))
     leadsTo (.fdiv t f) s (fun u => (u.thr t).result = some (f.d.toNat, o.1) ∧ (u.thr t).fpcsr = (s.thr t).fpcsr ||| o.2 ∧
       (u.thr t).st = .waiting .longLatency ∧ (u.thr t).pc = pcNext s t ∧ (u.thr t).g = (found s t).g ∧ sameMemory s u)) ∧
   (∀ t f s, CanIssue s t → guarded s t f → ggz1 f = true →
     let o := fpOut s t f (fpReg s t f f.s1.toNat).sqrt
     leadsTo (.fsqrt t f) s (fun u => (u.thr t).result = some (f.d.toNat, o.1) ∧ (u.thr t).fpcsr = (s.thr t).fpcsr ||| o.2 ∧
       (u.thr t).st = .waiting .longLatency ∧ (u.thr t).pc = pcNext s t ∧ (u.thr t).g = (found s t).g ∧ sameMemory s u))) ∧
  (∀ t f s, CanIssue s t → guarded s t f →
     (ggz1 f = true →
       (∃ i fl, exec (.fcvti t f) s = .next (moved s t (fpWrite (found s t) f.d.toNat i (fl <<< 5)) (pcNext s t)) ∧
         ((fpReg s t f f.s1.toNat).isNan = true → i = 0 ∧ fl = 0x10) ∧
         (∀ n, fpReg s t f f.s1.toNat = .inf n →
           i = (if n then 0x8000000000000000#64 else 0x7FFFFFFFFFFFFFFF#64) ∧ fl = 0x10) ∧
         (∀ n m e, fpReg s t f f.s1.toNat = .fin n m e →
           let r := roundInt (fpMode s t) m e
           let v : Int := if n then -(r.1 : Int) else r.1
           (v < -(2 ^ 63) → i = 0x8000000000000000#64 ∧ fl = 0x10) ∧
           (2 ^ 63 ≤ v → i = 0x7FFFFFFFFFFFFFFF#64 ∧ fl = 0x10) ∧
           (-(2 ^ 63) ≤ v → v < 2 ^ 63 → i.toInt = v ∧ fl = (if r.2 then 1 else 0)))) ∧
       (let i := ((found s t).rg f.s1.toNat).toInt
         let o := fpOut s t f (.fin (decide (i < 0)) i.natAbs 0, 0)
         exec (.fcvtf t f) s = .next (moved s t (fpWrite (found s t) f.d.toNat o.1 o.2) (pcNext s t))) ∧
       (let v := (if f.imm.getLsbD 0 then fp32 else fp64).decode
           (((found s t).rg f.s1.toNat).toNat % 2 ^ (if f.imm.getLsbD 0 then 32 else 64))
         let o := fpOut s t f (v, if v.isSig then 0x10 else 0)
         exec (.fcvtw t f) s = .next (moved s t (fpWrite (found s t) f.d.toNat o.1 o.2) (pcNext s t)))) ∧
     (pgg1 f = true →
       let a := fpReg s t f f.s1.toNat
       let b := fpReg s t f f.s2.toNat
       let ends (i : Instr) (r : Bool) (nv : Bool) : Prop := exec i s = .next (moved s t
         { (found s t).wp f.d.toNat (if r then 0xFFFF#16 else 0) with
           fpcsr := (s.thr t).fpcsr ||| (if nv then 0x200#64 else 0) } (pcNext s t))
       ends (.fcmpeq t f) (a.eq b) (a.isSig || b.isSig) ∧
       ends (.fcmplt t f) (a.lt b) (a.isNan || b.isNan) ∧
       ends (.fcmple t f) (a.lt b || a.eq b) (a.isNan || b.isNan) ∧
       ends (.fcmpun t f) (a.isNan || b.isNan) (a.isSig || b.isSig) ∧
       ((a.isNan || b.isNan) = true → a.eq b = false ∧ a.lt b = false)))

/-- A finite code of a format converts to its own value exactly: decoding a code, rounding the value into the format in either
mode and decoding again gives the code, with no flag but, for a NaN code, the canonical NaN (04 R152, Table 4-2). The fields
and the opcode of an instruction word are read as they were put there (R60, R61, Table 2-4), and so are those of a chain packet
(Table 11-3). -/
def Obligations.RoundTrips : Prop :=
  (∀ F ∈ [fp32, fp64, bf16, fp16, e4m3, e5m2, e2m1], ∀ (m : RMode) (c : Nat), (m = .rne ∨ m = .rtz) → c < 2 ^ (F.eb + F.fb + 1) →
     ((F.decode c).isNan = false → F.deliver m (F.decode c) = (c, 0)) ∧
     ((F.decode c).isNan = true → F.deliver m (F.decode c) = (F.qnan, 0))) ∧
  ((∀ (op : Nat) (f : Fld), op < 512 → wordOp (insWord op f) = op ∧ wordFld (insWord op f) = f) ∧
   (∀ w : Word, insWord (wordOp w) (wordFld w) = w)) ∧
  (∀ k : Packet, k.vc < 4 → k.payload.length < 2 ^ 16 → packetOf (packetBytes k) = k)

/-! ## CSRs, traps, interrupts (02 R86 to R105) -/

namespace Sys2Proof.Claims

open Sys2Proof.Machine

/-- CSRs whose read has no side effect, with the value each holds (Table 2-12 and its field tables). -/
def csrVals : List (Nat × (State → Tid → Word)) :=
  [(0x000, fun s t => (if (s.lathe t.lathe.val).world = .s then 0x1000000#64 else 0) +
     BitVec.ofNat 64 (t.lathe.val * 65536 + t.core.val * 256 + t.thread.val)),
   (0x002, fun s t => (s.thr t).fpcsr), (0x003, fun s t => if (s.thr t).tk16 then 1 else 0),
   (0x010, fun s t => (s.thr t).vprog.setWidth 64), (0x011, fun s t => (s.thr t).tfault),
   (0x100, fun s t => let x := s.thr t
     BitVec.ofNat 64 (levelCode x.level + (if x.ie then 4 else 0) + (if x.pie then 8 else 0) + 16 * levelCode x.ppl +
       (if x.tl then 64 else 0) + (if x.nest then 128 else 0))),
   (0x101, fun s t => (s.core t.lathe.val t.core.val).xtvec),
   (0x102, fun s t => (s.thr t).xepc), (0x103, fun s t => (s.thr t).xcause), (0x104, fun s t => (s.thr t).xtval),
   (0x105, fun s t => (s.thr t).xinst), (0x106, fun s t => (s.thr t).xscratch), (0x107, fun s t => (s.thr t).xrep),
   (0x108, fun s t => (s.thr t).xdlyc), (0x109, fun s t => (s.thr t).xdly0), (0x10A, fun s t => (s.thr t).xdly1),
   (0x10B, fun s t => 4 + (if (s.thr t).ieMbx then 2 else 0) + (if (s.thr t).ieTim then 1 else 0)),
   (0x10C, fun s t => (if (s.thr t).ipPre then 4 else 0) + (if mbxAttention s (threadId t) then 2 else 0) +
     (if timerDue s (s.thr t) then 1 else 0)),
   (0x10D, fun s t => (s.thr t).tcmp), (0x10E, fun s t => (s.thr t).coreTask)] ++
  (List.range 16).flatMap (fun k => ([(0x140 + k, fun s t => (mget (s.thr t).win k {}).base.setWidth 64 <<< 6),
    (0x150 + k, fun s t => (mget (s.thr t).win k {}).limit.setWidth 64 <<< 6 ||| 0x3F#64),
    (0x160 + k, fun s t => (mget (s.thr t).win k {}).attr.setWidth 64)] : List (Nat × (State → Tid → Word))))

/-- XDLYC after a write: a cnt field keeps its value where the written one is neither 1 nor 2 (00 R13). -/
def dlycSet (old v : Word) : Word :=
  let field (at_ : Nat) : Word := (if v >>> at_ &&& 3#64 = 1#64 ∨ v >>> at_ &&& 3#64 = 2#64 then v else old) &&& (3#64 <<< at_)
  (v &&& 0x9F9F#64) ||| field 5 ||| field 13

/-- CSRs of the thread that a CSRW writes, with what the thread then is, on a lathe of world `w` (Table 2-12, 00 R13). -/
def csrSets (w : World) : List (Nat × (Thread → Word → Thread)) :=
  [(0x002, fun x v => { x with fpcsr := (x.fpcsr &&& 0x3E0#64 &&& ~~~v) |||
      (if v &&& 3#64 = 3#64 then x.fpcsr &&& 3#64 else v &&& 3#64) }),
   (0x010, fun x v => { x with vprog := v.setWidth 5 }),
   (0x100, fun x v => { x with
      nest := v.getLsbD 7, pie := v.getLsbD 3, ie := v.getLsbD 2
      ppl := (let c := (v >>> 4 &&& 3#64).toNat
        if c = 0 then .u else if c = 1 ∧ w = .ns then .k else if c = 2 ∧ w = .s then .s else x.ppl) }),
   (0x102, fun x v => { x with xepc := v &&& 0xFFFFFFFFFFFFFFF8#64 }),
   (0x103, fun x v => { x with xcause := v }), (0x104, fun x v => { x with xtval := v }),
   (0x105, fun x v => { x with xinst := v }), (0x106, fun x v => { x with xscratch := v }),
   (0x107, fun x v => { x with xrep := (v &&& 0x8000#64) |||
      ((if (v &&& 0x1FFF#64).toNat ≤ 4096 then v else x.xrep) &&& 0x1FFF#64) }),
   (0x108, fun x v => { x with xdlyc := dlycSet x.xdlyc v }),
   (0x109, fun x v => { x with xdly0 := v }), (0x10A, fun x v => { x with xdly1 := v }),
   (0x10B, fun x v => { x with ieMbx := v.getLsbD 1, ieTim := v.getLsbD 0 }),
   (0x10C, fun x v => { x with ipPre := x.ipPre && !v.getLsbD 2 }),
   (0x10E, fun x v => { x with coreTask := v })] ++
  (List.range 16).flatMap (fun k =>
    ([(0x140 + k, fun x v => { x with win := mset x.win k { mget x.win k {} with base := (v >>> 6).setWidth 58 } }),
     (0x150 + k, fun x v => { x with win := mset x.win k { mget x.win k {} with limit := (v >>> 6).setWidth 58 } }),
     (0x160 + k, fun x v => { x with win := mset x.win k { mget x.win k {} with attr := v.setWidth 4 } })] : List (Nat × (Thread → Word → Thread))))

end Sys2Proof.Claims

/-- CSRR writes d with the CSR's value: CORE_TIME a value of DEV_TIME at most 20 ns old and never below one that the thread read
before (01 R29), every other CSR what it holds. CSRW writes the CSR's fields, reserved values leaving their field; CSRW to a
read-only CSR is dropped. An access to CORE_FPCSR waits for the thread's queued operations. At U a CSR of minimum level K raises
XC_PRIV with the CSR number, and a number that Table 2-12 lacks raises XC_ILLEGAL with it, whatever the guard (R89, Table 2-12). -/
def Obligations.CsrAccess : Prop :=
  ∀ t f s, CanIssue s t → f.imm.toNat < 2 ^ 12 →
    (guarded s t f → (s.thr t).level ≠ .u ∨ f.imm.toNat < 0x100 →
      (fieldsOk .g .z .z f = true →
        (∀ p ∈ csrVals, f.imm.toNat = p.1 → (p.1 = 2 → hasQueued s t = false) →
          exec (.csrr t f) s = .next (moved s t ((found s t).wg f.d.toNat (p.2 s t)) (pcNext s t))) ∧
        (f.imm.toNat = 1 → leadsTo (.csrr t f) s (fun u => ∃ v : Word,
          Issued s u t ((found s t).wg f.d.toNat v) ∧ s.plat.devTime.toNat ≤ v.toNat + 20 ∧
          v.toNat ≤ max s.plat.devTime.toNat (mget s.plat.lastTime (threadId t).toNat 0).toNat ∧
          (mget s.plat.lastTime (threadId t).toNat 0).toNat ≤ v.toNat)) ∧
        (f.imm.toNat = 2 → hasQueued s t = true → exec (.csrr t f) s = .next (leaveBound (begun s t) t .queues))) ∧
      (fieldsOk .z .g .z f = true →
        (∀ p ∈ csrSets (s.lathe t.lathe.val).world, f.imm.toNat = p.1 → (p.1 = 2 → hasQueued s t = false) →
          exec (.csrw t f) s = .next (moved s t (p.2 (found s t) ((found s t).rg f.s1.toNat)) (pcNext s t))) ∧
        (f.imm.toNat = 0x101 → leadsTo (.csrw t f) s (fun u => Issued s u t (found s t) ∧
          (u.core t.lathe.val t.core.val).xtvec = (found s t).rg f.s1.toNat &&& 0xFFFFFFFFFFFFF000#64)) ∧
        (f.imm.toNat ∈ [0x000, 0x001, 0x003, 0x011] → exec (.csrw t f) s = .next (moved s t (found s t) (pcNext s t))) ∧
        (f.imm.toNat = 2 → hasQueued s t = true → exec (.csrw t f) s = .next (leaveBound (begun s t) t .queues)))) ∧
    (CanTrap s t → csrListed f.imm.toNat = false →
      (fieldsOk .g .z .z f = true →
        leadsTo (.csrr t f) s (fun u => Entered s u t xIllegal (f.imm.setWidth 64) (insWord 0x0E0 f))) ∧
      (fieldsOk .z .g .z f = true →
        leadsTo (.csrw t f) s (fun u => Entered s u t xIllegal (f.imm.setWidth 64) (insWord 0x0E1 f)))) ∧
    (CanTrap s t → csrListed f.imm.toNat = true → (s.thr t).level = .u → 0x100 ≤ f.imm.toNat →
      (fieldsOk .g .z .z f = true →
        leadsTo (.csrr t f) s (fun u => Entered s u t xPriv (f.imm.setWidth 64) (insWord 0x0E0 f))) ∧
      (fieldsOk .z .g .z f = true →
        leadsTo (.csrw t f) s (fun u => Entered s u t xPriv (f.imm.setWidth 64) (insWord 0x0E1 f))))

/-- XRET returns to the saved level, interrupt enable and XEPC, with the loads that XDLYC names pending again, and resumes the repeat
that XREP holds, behind it when no repetition is left; it waits for the data of pending loads, and at U raises XC_PRIV (R89, R100,
R87). YIELD passes the issue slot on (R55); BRK raises XC_BREAK with its immediate (R66); a reserved opcode raises XC_RESERVED
whatever its guard and fields (R64). A trap entry saves the pending loads in XDLY0, XDLY1 and XDLYC, older first, and leaves their
destination registers as they were (R97, R98). -/
def Obligations.SystemInstructions : Prop :=
  (∀ t f s, CanIssue s t →
     (guarded s t f → fieldsOk .z .z .z f = true → f.imm = 0 → (s.thr t).level ≠ .u →
       ((found s t).loads = [] → (s.thr t).preemptAt = none ∨ (s.thr t).xcause ≠ 0x8000000000000003#64 →
         let valid := (s.thr t).xrep.getLsbD 15
         let left := ((s.thr t).xrep &&& 0x1FFF#64).toNat
         leadsTo (.xret t f) s (fun u => (u.thr t).pc = (if valid && left == 0 then (s.thr t).xepc + 16 else (s.thr t).xepc) ∧
           (u.thr t).resume = (if valid && left != 0 then some left else none) ∧ (u.thr t).xrep.getLsbD 15 = false ∧
           (u.thr t).level = (s.thr t).ppl ∧ (u.thr t).ie = (s.thr t).pie ∧ (u.thr t).tl = false ∧ (u.thr t).nest = false ∧
           (u.thr t).g = (found s t).g ∧ (u.thr t).p = (s.thr t).p ∧ (u.thr t).v = (s.thr t).v ∧
           (u.thr t).loads.map (fun p => (p.dst, p.cnt, p.val)) =
             (if (s.thr t).xdlyc.getLsbD 7 then
               [(((s.thr t).xdlyc &&& 31#64).toNat, ((s.thr t).xdlyc >>> 5 &&& 3#64).toNat, some (s.thr t).xdly0)] else []) ++
             (if (s.thr t).xdlyc.getLsbD 15 then
               [(((s.thr t).xdlyc >>> 8 &&& 31#64).toNat, ((s.thr t).xdlyc >>> 13 &&& 3#64).toNat, some (s.thr t).xdly1)] else []) ∧
           sameMemory s u)) ∧
       (allArrived (found s t) = false → exec (.xret t f) s = .next (leaveBound (begun s t) t (.loadData true)))) ∧
     (CanTrap s t → fieldsOk .z .z .z f = true → f.imm = 0 → (s.thr t).level = .u →
       leadsTo (.xret t f) s (fun u => Entered s u t xPriv 0 (insWord 0x0E2 f))) ∧
     (guarded s t f → fieldsOk .z .z .z f = true → f.imm = 0 →
       exec (.yieldOp t f) s = .next (leave (moved s t (found s t) (pcNext s t)) t .ready)) ∧
     (CanTrap s t → guarded s t f → fieldsOk .z .z .z f = true →
       leadsTo (.brk t f) s (fun u => Entered s u t xBreak (f.imm.setWidth 64) (insWord 0x0E4 f))) ∧
     (∀ op : BitVec 9, opAssigned op.toNat = false → CanTrap s t →
       leadsTo (.reservedOpcode t op f) s (fun u => Entered s u t xReserved 0 (insWord op.toNat f)))) ∧
  (∀ t f s p q, CanIssue s t → guarded s t f → fieldsOk .z .z .z f = true → CanTrap s t → (found s t).loads = [p, q] →
     p.dst ≠ 0 → q.dst ≠ 0 → p.dst < 32 → q.dst < 32 → 1 ≤ p.cnt → p.cnt ≤ 2 → 1 ≤ q.cnt → q.cnt ≤ 2 →
     leadsTo (.brk t f) s (fun u => p.val = some (u.thr t).xdly0 ∧ q.val = some (u.thr t).xdly1 ∧
       ((u.thr t).xdlyc &&& 31#64).toNat = p.dst ∧ ((u.thr t).xdlyc >>> 5 &&& 3#64).toNat = p.cnt ∧
       (u.thr t).xdlyc.getLsbD 7 = true ∧ ((u.thr t).xdlyc >>> 8 &&& 31#64).toNat = q.dst ∧
       ((u.thr t).xdlyc >>> 13 &&& 3#64).toNat = q.cnt ∧ (u.thr t).xdlyc.getLsbD 15 = true ∧
       (u.thr t).loads = [] ∧ (u.thr t).g = (found s t).g))

/-- CORE_TCMP_WRITE replaces the compare value; the timer is pending from the moment DEV_TIME has reached it. A running thread
with interrupts enabled takes the highest-priority pending and enabled one at a boundary: preempt, then timer, then mailbox; one in
an interruptible wait takes it there, and XEPC holds its waiting instruction, which has had no effect (R94 to R97, Table 2-10). -/
def Obligations.TimerAndInterrupts : Prop :=
  (∀ t f s, CanIssue s t → guarded s t f → fieldsOk .z .g .z f = true → f.imm = 0x10D#32 → (s.thr t).level ≠ .u →
    exec (.coreTcmpWrite t f) s = .next (moved s t { found s t with
      tcmp := (found s t).rg f.s1.toNat
      ipTim := decide (((found s t).rg f.s1.toNat).toNat ≤ s.plat.devTime.toNat) } (pcNext s t))) ∧
  (∀ t s, exec (.timerExpiry t) s = .next (if (s.thr t).tcmp.toNat ≤ s.plat.devTime.toNat then
    s.setThr t { s.thr t with ipTim := true } else s)) ∧
  (∀ t s, ((s.thr t).st = .running ∧ lateDue (s.thr t) = none) ∨ (∃ w, (s.thr t).st = .waiting w ∧ interruptible w = true) →
    clockRuns s t = true → (s.lathe t.lathe.val).svc ≠ .fenced → (s.thr t).rep = none → (s.thr t).resume = none →
    (s.thr t).bound = false → allArrived (s.thr t) = true → (s.thr t).ie = true →
    let timer := ((s.thr t).ipTim || decide ((s.thr t).tcmp.toNat ≤ s.plat.devTime.toNat)) && (s.thr t).ieTim
    let takes (n : Nat) : Prop := leadsTo (.takeInterrupt t) s (fun u =>
      (u.thr t).xcause = 0x8000000000000000#64 + BitVec.ofNat 64 n ∧
      (u.thr t).pc = (s.core t.lathe.val t.core.val).xtvec + 0x800#64 + BitVec.ofNat 64 (0x40 * n) ∧
      (u.thr t).xepc = (s.thr t).pc ∧ (u.thr t).xtval = 0 ∧ (u.thr t).xinst = 0 ∧ (u.thr t).ppl = (s.thr t).level ∧
      (u.thr t).pie = true ∧ (u.thr t).ie = false ∧ (u.thr t).tl = true ∧ (u.thr t).nest = false ∧
      ((u.thr t).st = .running ∨ (u.thr t).st = .ready) ∧
      (u.thr t).level = runtimeLevel (s.lathe t.lathe.val).world ∧ (u.thr t).g = (found s t).g ∧ sameMemory s u)
    ((s.thr t).ipPre = true → takes 3) ∧
    ((s.thr t).ipPre = false → timer = true → takes 1) ∧
    ((s.thr t).ipPre = false → timer = false → (s.thr t).ieMbx = true → mbxAttention s (threadId t) = true → takes 2))

/-! ## Repeats (02 R82 to R87) -/

namespace Sys2Proof.Claims

open Sys2Proof.Machine

/-- Repeatable instructions that write at most one register and go on at once (R84). -/
def repeatRows : List (Form × Nat × (Fld → Bool)) := rowsA.take 11 ++ (rowsA.drop 15 ++ (rowsB ++ rowsC.take 7))

/-- The state in which the repeated instruction of `r` would issue as itself. -/
def asItself (s : State) (t : Tid) (r : Rep) : State := s.setThr t { s.thr t with rep := none, pc := r.a + 8 }

end Sys2Proof.Claims

/-- A REP with a legal prefix and repeated word begins with the count it names; with guard 0 or count 0 execution goes on at the
REP's address + 16; a field outside Table 2-8, a count over its limit and a word that may not be repeated raise XC_ILLEGAL (R82,
R83, R84). A repetition of an instruction that writes a register executes it under its own guard, then applies the step, after the
write of the repetition; the last one continues at A + 16, and one whose result was awaited only steps (R84, R85). -/
def Obligations.Repeats : Prop :=
  (∀ (intr : Bool) t f word s, CanIssue s t → (s.thr t).resume = none →
     let i : Instr := if intr then .repI t f word else .repN t f word
     let n := if f.imm.getLsbD 12 then ((found s t).rg f.s1.toNat).toNat
       else (f.imm &&& (if intr then 0xFFF#32 else 0x3F#32)).toNat + 1
     let most := if intr then 4096 else 64
     let illegal : Prop := leadsTo i s (fun u => Entered s u t xIllegal 0 (insWord (if intr then 0x0F0 else 0x0F1) f))
     (repFields intr f = false → CanTrap s t → illegal) ∧
     (repFields intr f = true → most < n → CanTrap s t → illegal) ∧
     (repFields intr f = true → n ≤ most → fetchCheck s t (pcNext s t) = .ok →
       (icHit ((begun s t).core t.lathe.val t.core.val) (lineOf t (pcNext s t)) ||
         (s.thr t).fetched.contains (lineOf t (pcNext s t))) = true →
       (repLegal intr t f word = false → CanTrap s t → illegal) ∧
       (repLegal intr t f word = true →
         (guarded s t f → 0 < n → leadsTo i s (fun u => u.thr t = { found s t with
           resume := none
           bound := false
           rep := some { a := (s.thr t).pc, intr := intr, step := f.d.toNat, stride := (f.imm >>> 16).setWidth 16, n := n
                         word := word } } ∧ sameMemory s u)) ∧
         ((¬guarded s t f ∨ n = 0) → leadsTo i s (fun u => u.thr t = { found s t with
           pc := (s.thr t).pc + 16, bankGrant := none, bound := false, fetched := [] } ∧ sameMemory s u))))) ∧
  (∀ p ∈ repeatRows, ∀ t s r v, (s.thr t).rep = some r → r.held = false → r.word = insWord p.2.1 (wordFld r.word) →
     p.2.2 (wordFld r.word) = true → CanIssue (asItself s t r) t → (s.thr t).loads = [] →
     exec (p.1 t (wordFld r.word)) (asItself s t r) = .next v →
     leadsTo (.repetition t) s (fun u =>
       let z := (v.thr t).wg r.step ((v.thr t).rg r.step + r.stride.signExtend 64)
       (u.thr t).g = z.g ∧ (u.thr t).p = (v.thr t).p ∧ sameMemory s u ∧
       (r.n ≤ 1 → (u.thr t).rep = none ∧ (u.thr t).pc = r.a + 16) ∧
       (1 < r.n → (u.thr t).rep = some { r with n := r.n - 1 } ∧ (u.thr t).pc = (s.thr t).pc))) ∧
  (∀ t s r, (s.thr t).rep = some r → r.held = true → (s.thr t).st = .running → clockRuns s t = true →
     leadsTo (.repetition t) s (fun u => (u.thr t).g = ((s.thr t).wg r.step ((s.thr t).rg r.step + r.stride.signExtend 64)).g ∧
       (u.thr t).p = (s.thr t).p ∧ sameMemory s u ∧
       (r.n ≤ 1 → (u.thr t).rep = none ∧ (u.thr t).pc = r.a + 16) ∧
       (1 < r.n → (u.thr t).rep = some { r with n := r.n - 1, held := false })))

/-! ## Short vectors (03 R107 to R133) -/

namespace Sys2Proof.Claims

open Sys2Proof.Machine

/-- Element `i` of width `w` of a short-vector register (R108). -/
def lane (x : BitVec 128) (w i : Nat) : BitVec w := x.extractLsb' (w * i) w

/-- Element width and count that ew selects (R109). -/
def laneW (f : Fld) : Nat := 8 * 2 ^ (f.imm >>> 30).toNat
def laneN (f : Fld) : Nat := 128 / laneW f

/-- Lane `i` is active: p[gp][i], inverted when gi = 1 (R63). -/
def laneOn (s : State) (t : Tid) (f : Fld) (i : Nat) : Bool :=
  xor (((s.thr t).rp f.gp.toNat).getLsbD i) (f.gi && decide (i < 16))

/-- The integer operations on elements of `w` bits (R115, Table 3-2). -/
def svOps : List (Form × ((w : Nat) → BitVec w → BitVec w → BitVec w)) :=
  [(.vadd, fun _ a b => a + b), (.vsub, fun _ a b => a - b), (.vmul, fun _ a b => a * b), (.vand, fun _ a b => a &&& b),
   (.vor, fun _ a b => a ||| b), (.vxor, fun _ a b => a ^^^ b), (.vshl, fun w a b => a <<< (b.toNat % w)),
   (.vshr, fun w a b => a >>> (b.toNat % w)), (.vsra, fun w a b => a.sshiftRight (b.toNat % w)),
   (.vmin, fun _ a b => if a.toInt < b.toInt then a else b), (.vmax, fun _ a b => if a.toInt < b.toInt then b else a),
   (.vminu, fun _ a b => if a.toNat < b.toNat then a else b), (.vmaxu, fun _ a b => if a.toNat < b.toNat then b else a)]

/-- The floating-point operations of three elements: s1, s2, d. -/
def svfOps : List (Form × (FVal → FVal → FVal → FVal × FFlags)) :=
  [(.vfadd, fun a b _ => a.add b), (.vfsub, fun a b _ => a.add b.negate), (.vfmul, fun a b _ => a.mul b),
   (.vfma, fun a b d => a.fma b d), (.vfmin, fun a b _ => FVal.pick false a b), (.vfmax, fun a b _ => FVal.pick true a b)]

/-- Formats of the floating-point operations: format, fmt code, ew code. -/
def svfFmts : List (FFmt × BitVec 32 × BitVec 32) := [(fp32, 0, 2), (bf16, 1, 1), (fp16, 2, 1)]

/-- The rounding that the RM field selects: 0 nearest even, 2 toward zero, 3 CORE_FPCSR.rm; stochastic is nearest even. -/
def svRound (s : State) (t : Tid) (f : Fld) : RMode :=
  let rm := f.imm >>> 24 &&& 3#32
  if rm = 2#32 ∨ (rm = 3#32 ∧ (s.thr t).fpcsr &&& 3#64 = 2#64) then .rtz else .rne

/-- After an instruction that writes v[d] only: its other registers, CSRs and memory are as the instruction found them. -/
structure OnlyV (s u : State) (t : Tid) (d : Nat) : Prop where
  vectors : ∀ n, n ≠ d → (u.thr t).rv n = (s.thr t).rv n
  general : (u.thr t).g = (found s t).g
  predicates : (u.thr t).p = (s.thr t).p
  level : (u.thr t).level = (s.thr t).level
  vprog : (u.thr t).vprog = (s.thr t).vprog
  pc : (u.thr t).pc = pcNext s t
  memory : sameMemory s u
  others : ∀ x : Tid, x ≠ t → u.thr x = s.thr x

/-- The sticky flags that the active lanes below `n` add, bit by bit. -/
def flagsOf (s u : State) (t : Tid) (on : Nat → Bool) (n : Nat) (fl : Nat → FFlags) : Prop :=
  ∀ b, (u.thr t).fpcsr.getLsbD b =
    ((s.thr t).fpcsr.getLsbD b || (decide (5 ≤ b) && (List.range n).any (fun i => on i && (fl i).getLsbD (b - 5))))

/-- Active element addresses of a run at g[s1] + sx(imm[15:0]) (R124). -/
def runAddr (s : State) (t : Tid) (f : Fld) (i : Nat) : Word :=
  (found s t).rg f.s1.toNat + (f.imm.setWidth 16).signExtend 64 + BitVec.ofNat 64 (i * (laneW f / 8))

/-- Element addresses of a gather or scatter (R127). -/
def indexAddr (s : State) (t : Tid) (f : Fld) (i : Nat) : Word :=
  (found s t).rg f.s1.toNat +
    ((lane ((s.thr t).rv (f.s2.toNat + i / 4)) 32 (i % 4)).setWidth 64 <<< (f.imm >>> 16 &&& 3#32).toNat)

/-- Every active element from `first` on reaches memory of this device at `r i` and waits for nothing: its checks pass, its row is
not being copied, its bank takes the request and serves nothing older (08 R325, R326), no buffered store of the thread touches its
bytes (R126). `home`: a store. -/
structure VecReaches (s : State) (t : Tid) (p : Perm) (f : Fld) (addr : Nat → Word) (first : Nat) (r : Nat → Nat) (home : Bool) :
    Prop where
  checked : ∀ i, first ≤ i → i < laneN f → laneOn s t f i = true → checkData s t p (addr i) (laneW f / 8) true = .ok
  lies : ∀ i, first ≤ i → i < laneN f → laneOn s t f i = true → isSelf s (chainOf (addr i)) = true ∧
    placeOf s t (addr i) = .ram (r i) ∧ canon s t (addr i) = r i ∧ memBusy s (r i) = false
  clean : ∀ i, first ≤ i → i < laneN f → laneOn s t f i = true → poisonAt s (r i) (laneW f / 8) = none
  taken : ∀ i, first ≤ i → i < laneN f → laneOn s t f i = true → elemRefused (begun s t) t home (r i) = none
  first_ : ∀ i, first ≤ i → i < laneN f → laneOn s t f i = true →
    FirstInLine s t (some (bankOf s (r i))) s.mem.presented (r i) (laneW f / 8) ∧
    FirstInLine s t (some (t.lathe.val * 32 + r i / 64 % 32)) s.mem.presented (r i) (laneW f / 8)
  noStores : ∀ i, first ≤ i → i < laneN f → laneOn s t f i = true → ∀ e ∈ (s.thr t).sbuf,
    overlaps (canon s t e.addr) e.data.length (r i) (laneW f / 8) = false
  some_ : ∃ i, first ≤ i ∧ i < laneN f ∧ laneOn s t f i = true

/-- No lane from `first` on is active. -/
def noneOn (s : State) (t : Tid) (f : Fld) (first : Nat) : Prop := ∀ i, first ≤ i → i < laneN f → laneOn s t f i = false

/-- Every active element's bytes lie in memory, the higher-numbered element's where two overlap, and every other byte stands. -/
def storedLanes (s u : State) (t : Tid) (f : Fld) (first : Nat) (r : Nat → Nat) : Prop :=
  (∀ i, first ≤ i → i < laneN f → laneOn s t f i = true → ∀ k, k < laneW f / 8 →
    (∀ j, i < j → j < laneN f → laneOn s t f j = true → r i + k < r j ∨ r j + laneW f / 8 ≤ r i + k) →
    byteAt u (r i + k) = ((s.thr t).rv f.d.toNat).extractLsb' (laneW f * i + 8 * k) 8) ∧
  (∀ c, (∀ i, first ≤ i → i < laneN f → laneOn s t f i = true → c < r i ∨ r i + laneW f / 8 ≤ c) → byteAt u c = byteAt s c)

/-- The elements of a vector load that waits: the active ones from `first` on, each with the value of its bytes in memory. -/
def loadsLanes (s : State) (t : Tid) (f : Fld) (first : Nat) (r : Nat → Nat) (v : VecLoad) : Prop :=
  v.d = f.d.toNat ∧ v.w = laneW f ∧
  ∀ i x, (∃ q ∈ v.parts, q.elem = i ∧ q.val = some x ∧ q.err = none) ↔
    (first ≤ i ∧ i < laneN f ∧ laneOn s t f i = true ∧
      x = leNat ((List.range (laneW f / 8)).map (fun k => byteAt s (r i + k))))

/-- Flags of the active lanes below `n`, together. -/
def laneFlags (on : Nat → Bool) (n : Nat) (fl : Nat → FFlags) : FFlags :=
  ((List.range n).filter on).foldl (fun a i => a ||| fl i) 0

/-- The instruction has left v[d] as `x` with sticky flags `fl` added, and nothing else but the PC has changed. -/
def wroteV (s : State) (t : Tid) (d : Nat) (x : BitVec 128) (fl : FFlags) : State :=
  moved s t (((found s t).wv d x).raise fl) (pcNext s t)

/-- The code in field `fmt`. -/
def fmtCode (f : Fld) : Nat := (f.imm >>> 26 &&& 15#32).toNat

/-- An element's two factors: their exact product, and the invalid flag of a NaN factor or of infinity times zero. -/
def dotTerm (c : Nat) (a b : Nat) : FVal × FFlags :=
  let p := (elemVal c a).mul (elemVal c b)
  (p.1, p.2 ||| (if (elemVal c a).isNan || (elemVal c b).isNan then fNv else 0))

/-- The exact sum of two terms, with the flags of both and of the addition. -/
def dotPlus (a b : FVal × FFlags) : FVal × FFlags := ((a.1.add b.1).1, a.2 ||| b.2 ||| (a.1.add b.1).2)

/-- Rows whose `fmt` names a format: form, opcode, legal fields whatever `fmt` holds, and the lanes that count. -/
def fmtRows : List (Form × Nat × (Fld → Prop) × (Fld → Nat)) :=
  let vf (f : Fld) : Prop := fieldsOk .v .v .v f = true ∧ f.imm &&& 0x00FFFFFF#32 = 0 ∧ (laneW f = 16 ∨ laneW f = 32)
  [(.vfadd, 0x110, vf, laneN), (.vfsub, 0x111, vf, laneN), (.vfmul, 0x112, vf, laneN), (.vfma, 0x113, vf, laneN),
   (.vfmin, 0x114, vf, laneN), (.vfmax, 0x115, vf, laneN),
   (.vfcmp, 0x121, fun f => fieldsOk .p .v .v f = true ∧ f.imm &&& 0x00CFFFFF#32 = 0 ∧ (laneW f = 16 ∨ laneW f = 32), laneN),
   (.vwmul, 0x128, fun f => fieldsOk .v .v .v f = true ∧ f.imm &&& 0x00CFFFFF#32 = 0 ∧ laneW f ≤ 16, fun f => laneN f / 2),
   (.vdot, 0x12A, fun f => fieldsOk .v .v .v f = true ∧ f.imm &&& 0x00FFFFFF#32 = 0 ∧ laneW f = 32, fun _ => 4)]

end Sys2Proof.Claims

/-- Integer short-vector instructions act on each active element of v[d] modulo 2^w; inactive elements keep their values (R110,
R115). VCMP and VFCMP write bit i of their predicate with the relation of element i in an active lane below the element count,
and 0 elsewhere (R118); p0 discards. -/
def Obligations.ShortVectorInteger : Prop :=
  (∀ p ∈ svOps, ∀ t f s, CanIssue s t → fieldsOk .v .v .v f = true → f.imm &&& 0x3FFFFFFF#32 = 0 →
     leadsTo (p.1 t f) s (fun u => OnlyV s u t f.d.toNat ∧ (u.thr t).fpcsr = (s.thr t).fpcsr ∧
       ∀ i, i < laneN f → lane ((u.thr t).rv f.d.toNat) (laneW f) i =
         if laneOn s t f i then p.2 (laneW f) (lane ((s.thr t).rv f.s1.toNat) (laneW f) i)
           (lane ((s.thr t).rv f.s2.toNat) (laneW f) i)
         else lane ((s.thr t).rv f.d.toNat) (laneW f) i)) ∧
  (∀ t f s, CanIssue s t → fieldsOk .p .v .v f = true →
     (f.imm &&& 0x3F0FFFFF#32 = 0 → (f.imm >>> 20 &&& 15#32).toNat < 6 →
       let a (i : Nat) := lane ((s.thr t).rv f.s1.toNat) (laneW f) i
       let b (i : Nat) := lane ((s.thr t).rv f.s2.toNat) (laneW f) i
       let rel (i : Nat) : Bool := match (f.imm >>> 20 &&& 15#32).toNat with
         | 0 => a i == b i
         | 1 => a i != b i
         | 2 => (a i).slt (b i)
         | 3 => (a i).sle (b i)
         | 4 => (a i).ult (b i)
         | _ => (a i).ule (b i)
       leadsTo (.vcmp t f) s (fun u => (u.thr t).rp 0 = (s.thr t).rp 0 ∧ (∀ i, i < 16 → f.d ≠ 0 →
           ((u.thr t).rp f.d.toNat).getLsbD i = (decide (i < laneN f) && (laneOn s t f i && rel i))) ∧
         (∀ n, n ≠ f.d.toNat → (u.thr t).rp n = (s.thr t).rp n) ∧ (u.thr t).v = (s.thr t).v ∧ (u.thr t).g = (found s t).g ∧
         (u.thr t).fpcsr = (s.thr t).fpcsr ∧ (u.thr t).pc = pcNext s t ∧ sameMemory s u)) ∧
     (∀ F ∈ svfFmts, f.imm = (F.2.2 <<< 30) ||| (F.2.1 <<< 26) ||| (f.imm &&& 0x03300000#32) →
       let w := F.1.eb + F.1.fb + 1
       let e (n i : Nat) : FVal := F.1.decode (lane ((s.thr t).rv n) w i).toNat
       let rel (i : Nat) : Bool × FFlags := fRel (f.imm >>> 20 &&& 15#32).toNat (e f.s1.toNat i) (e f.s2.toNat i)
       leadsTo (.vfcmp t f) s (fun u => (u.thr t).rp 0 = (s.thr t).rp 0 ∧ (∀ i, i < 16 → f.d ≠ 0 →
           ((u.thr t).rp f.d.toNat).getLsbD i = (decide (i < 128 / w) && (laneOn s t f i && (rel i).1))) ∧
         flagsOf s u t (laneOn s t f) (128 / w) (fun i => (rel i).2) ∧
         (∀ n, n ≠ f.d.toNat → (u.thr t).rp n = (s.thr t).rp n) ∧ (u.thr t).v = (s.thr t).v ∧ (u.thr t).g = (found s t).g ∧
         (u.thr t).pc = pcNext s t ∧ sameMemory s u)))

/-- Floating-point short-vector instructions: each active element is the exact result rounded once, and only active elements set
flags (R116, R117, R110). -/
def Obligations.ShortVectorFloat : Prop :=
  ∀ p ∈ svfOps, ∀ F ∈ svfFmts, ∀ t f s, CanIssue s t → fieldsOk .v .v .v f = true →
    f.imm = (F.2.2 <<< 30) ||| (F.2.1 <<< 26) ||| (f.imm &&& 0x03000000#32) →
    let w := F.1.eb + F.1.fb + 1
    let e (n i : Nat) : FVal := F.1.decode (lane ((s.thr t).rv n) w i).toNat
    let v (i : Nat) : FVal × FFlags := p.2 (e f.s1.toNat i) (e f.s2.toNat i) (e f.d.toNat i)
    let c (i : Nat) : Nat × FFlags := F.1.deliver (svRound s t f) (v i).1
    leadsTo (p.1 t f) s (fun u => OnlyV s u t f.d.toNat ∧ flagsOf s u t (laneOn s t f) (128 / w) (fun i => (v i).2 ||| (c i).2) ∧
      ∀ i, i < 128 / w → lane ((u.thr t).rv f.d.toNat) w i =
        if laneOn s t f i then BitVec.ofNat w (c i).1 else lane ((s.thr t).rv f.d.toNat) w i)

/-- VCVT converts each active element of its group between the formats of sub and fmt, in every pair of widths, with the flags of
the conversions in CORE_FPCSR and FU_CVTSTAT; elements outside the group keep their values (R120). VWMUL multiplies the lower or
upper half: integers exactly, signed or unsigned, BF16 and FP16 into FP32 with one rounding (R121). VDOT adds the exact products of
INT8, E4M3 or BF16 to each 32-bit lane, the float forms with one rounding (R122). VBCAST, VINS and VEXT move elements (R119).
Inactive elements keep their values, and nothing else changes (R110). A reserved code in fmt of a float instruction, of VWMUL, VDOT
or VCVT, or in sub of VCVT raises XC_FORMAT with the code when a lane is active, for VCVT any of mask bits 0 to 15, the code in
fmt first; with no active lane nothing changes (R114), but for the predicate that VFCMP clears (R118). VADD, which takes no format, does so by the model's reading of R114
(notes/assumptions/57.md). -/
def Obligations.ShortVectorOther : Prop :=
  (∀ t f s, CanIssue s t → cvtLegal f = true → fmtReserved (svFmt f) = false → fmtReserved (svSub f) = false →
    let ws := fmtBits (svSub f)
    let wd := fmtBits (svFmt f)
    let n := 128 / max ws wd
    let shift := (f.imm >>> 16 &&& 3#32).toNat * n
    let src (i : Nat) : Nat := if ws < wd then i + shift else i
    let dst (i : Nat) : Nat := if wd < ws then i + shift else i
    let c (i : Nat) : Cvt := convert (svFmt f) (svRound s t f) (elemVal (svSub f) (lane ((s.thr t).rv f.s1.toNat) ws (src i)).toNat)
    ∃ x, exec (.vcvt t f) s = .next (cvtStat (wroteV s t f.d.toNat x (laneFlags (laneOn s t f) n (fun i => (c i).fl)))
        t.lathe.val (((List.range n).filter (laneOn s t f)).foldl (fun a i => a ||| (c i).stat) 0)) ∧
      ∀ j, j < 128 / wd → lane x wd j =
        match (List.range n).find? (fun i => laneOn s t f i && dst i == j) with
        | some i => BitVec.ofNat wd (c i).code
        | none => lane ((s.thr t).rv f.d.toNat) wd j) ∧
  (∀ t f s, CanIssue s t → fieldsOk .v .v .v f = true → laneW f ≤ 16 →
    let w := laneW f
    let k (i : Nat) : Nat := if f.imm.getLsbD 21 then i + laneN f / 2 else i
    let a (i : Nat) : BitVec w := lane ((s.thr t).rv f.s1.toNat) w (k i)
    let b (i : Nat) : BitVec w := lane ((s.thr t).rv f.s2.toNat) w (k i)
    (f.imm &&& 0x3FCFFFFF#32 = 0 →
      let up (x : BitVec w) : BitVec (2 * w) := if f.imm.getLsbD 20 then x.setWidth (2 * w) else x.signExtend (2 * w)
      ∃ x, exec (.vwmul t f) s = .next (wroteV s t f.d.toNat x 0) ∧ ∀ i, i < laneN f / 2 →
        lane x (2 * w) i = if laneOn s t f i then up (a i) * up (b i) else lane ((s.thr t).rv f.d.toNat) (2 * w) i) ∧
    (∀ F, (F = bf16 ∧ fmtCode f = 1 ∨ F = fp16 ∧ fmtCode f = 2) → w = 16 → f.imm &&& 0x00DFFFFF#32 = 0 →
      let p (i : Nat) : FVal × FFlags := (F.decode (a i).toNat).mul (F.decode (b i).toNat)
      let c (i : Nat) : Nat × FFlags := fp32.deliver (svRound s t f) (p i).1
      ∃ x, exec (.vwmul t f) s = .next (wroteV s t f.d.toNat x (laneFlags (laneOn s t f) 4 (fun i => (p i).2 ||| (c i).2))) ∧
        ∀ i, i < 4 → lane x 32 i = if laneOn s t f i then BitVec.ofNat 32 (c i).1 else lane ((s.thr t).rv f.d.toNat) 32 i)) ∧
  (∀ t f s, CanIssue s t → fieldsOk .v .v .v f = true → laneW f = 32 → f.imm &&& 0x00FFFFFF#32 = 0 →
    (fmtCode f = 5 → ∃ x, exec (.vdot t f) s = .next (wroteV s t f.d.toNat x 0) ∧ ∀ i, i < 4 →
      let pr (j : Nat) : BitVec 32 := (lane ((s.thr t).rv f.s1.toNat) 8 (4 * i + j)).signExtend 32 *
        (lane ((s.thr t).rv f.s2.toNat) 8 (4 * i + j)).signExtend 32
      lane x 32 i = if laneOn s t f i then lane ((s.thr t).rv f.d.toNat) 32 i + pr 0 + pr 1 + pr 2 + pr 3
        else lane ((s.thr t).rv f.d.toNat) 32 i) ∧
    ((fmtCode f = 1 ∨ fmtCode f = 3) →
      let w := fmtBits (fmtCode f)
      let pr (i j : Nat) : FVal × FFlags := dotTerm (fmtCode f) (lane ((s.thr t).rv f.s1.toNat) w (32 / w * i + j)).toNat
        (lane ((s.thr t).rv f.s2.toNat) w (32 / w * i + j)).toNat
      let sum (i : Nat) : FVal × FFlags :=
        if fmtCode f = 1 then dotPlus (pr i 0) (pr i 1) else dotPlus (dotPlus (dotPlus (pr i 0) (pr i 1)) (pr i 2)) (pr i 3)
      let q (i : Nat) : FVal × FFlags := (fp32.decode (lane ((s.thr t).rv f.d.toNat) 32 i).toNat).add (sum i).1
      let c (i : Nat) : Nat × FFlags := fp32.deliver (svRound s t f) (q i).1
      ∃ x, exec (.vdot t f) s = .next (wroteV s t f.d.toNat x
          (laneFlags (laneOn s t f) 4 (fun i => (sum i).2 ||| ((q i).2 ||| (c i).2)))) ∧
        ∀ i, i < 4 → lane x 32 i = if laneOn s t f i then BitVec.ofNat 32 (c i).1 else lane ((s.thr t).rv f.d.toNat) 32 i)) ∧
  (∀ t f s, CanIssue s t →
    (fieldsOk .v .g .z f = true → f.imm &&& 0x3FFFFFFF#32 = 0 →
      ∃ x, exec (.vbcast t f) s = .next (wroteV s t f.d.toNat x 0) ∧ ∀ i, i < laneN f →
        lane x (laneW f) i = if laneOn s t f i then ((found s t).rg f.s1.toNat).setWidth (laneW f)
          else lane ((s.thr t).rv f.d.toNat) (laneW f) i) ∧
    (fieldsOk .v .g .z f = true → f.imm &&& 0x3FFF0000#32 = 0 → (f.imm &&& 0xFFFF#32).toNat < laneN f →
      let k := (f.imm &&& 0xFFFF#32).toNat
      (laneOn s t f k = false → exec (.vins t f) s = .next (moved s t (found s t) (pcNext s t))) ∧
      (laneOn s t f k = true → ∃ x, exec (.vins t f) s = .next (wroteV s t f.d.toNat x 0) ∧ ∀ i, i < laneN f →
        lane x (laneW f) i = if i = k then ((found s t).rg f.s1.toNat).setWidth (laneW f)
          else lane ((s.thr t).rv f.d.toNat) (laneW f) i)) ∧
    (fieldsOk .g .v .z f = true → f.imm &&& 0x3FEF0000#32 = 0 → (f.imm &&& 0xFFFF#32).toNat < laneN f →
      let k := (f.imm &&& 0xFFFF#32).toNat
      let e := lane ((s.thr t).rv f.s1.toNat) (laneW f) k
      exec (.vext t f) s = .next (moved s t (if laneOn s t f k then
        (found s t).wg f.d.toNat (if f.imm.getLsbD 20 then e.signExtend 64 else e.setWidth 64) else found s t) (pcNext s t)))) ∧
  (∀ t f s, CanIssue s t →
    (∀ r ∈ fmtRows, r.2.2.1 f → fmtReserved (fmtCode f) = true →
      ((∃ i, i < r.2.2.2 f ∧ laneOn s t f i = true) → CanTrap s t →
        leadsTo (r.1 t f) s (fun u => Entered s u t xFormat (BitVec.ofNat 64 (fmtCode f)) (insWord r.2.1 f))) ∧
      ((∀ i, i < r.2.2.2 f → laneOn s t f i = false) → leadsTo (r.1 t f) s (fun u =>
        (∀ n, (u.thr t).rv n = (s.thr t).rv n) ∧
        (∀ n, (u.thr t).rp n = if r.2.1 = 0x121 ∧ n = f.d.toNat ∧ n ≠ 0 then 0 else (s.thr t).rp n) ∧
        (u.thr t).g = (found s t).g ∧ (u.thr t).fpcsr = (s.thr t).fpcsr ∧ (u.thr t).vprog = (s.thr t).vprog ∧
        (u.thr t).pc = pcNext s t ∧ sameMemory s u))) ∧
    (cvtLegal f = true → fmtReserved (svFmt f) || fmtReserved (svSub f) →
      ((∃ i, i < 16 ∧ laneOn s t f i = true) → CanTrap s t → leadsTo (.vcvt t f) s (fun u =>
        Entered s u t xFormat (BitVec.ofNat 64 (if fmtReserved (svFmt f) then svFmt f else svSub f)) (insWord 0x118 f))) ∧
      ((∀ i, i < 16 → laneOn s t f i = false) → exec (.vcvt t f) s = .next (moved s t (found s t) (pcNext s t)))) ∧
    (fieldsOk .v .v .v f = true → f.imm &&& 0x00FFFFFF#32 = 0 → fmtReserved (fmtCode f) = true → CanTrap s t →
      (∃ i, i < laneN f ∧ laneOn s t f i = true) →
      leadsTo (.vadd t f) s (fun u => Entered s u t xFormat (BitVec.ofNat 64 (fmtCode f)) (insWord 0x100 f))))

/-- VLD and VGATHER whose active elements lie in memory of this device wait with the elements' values, and no register changes
before every one has arrived (R124, R125, R127, R128). VECTOR_LOAD_ARRIVAL then writes them, in place, at once, the other elements
and registers keeping their values; a gather clears VPROG; the thread goes on, its repetition done where a repeat is in progress
(R125, R132). VST and VSCATTER store the active elements of v[d], each at its own address, the higher-numbered where two
overlap, and no other byte; a scatter then clears VPROG (R124, R127, R131). With no active element nothing is accessed, and a gather
or scatter clears VPROG (R110, R132). When an active element of VLD or VST fails its checks, the trap of the lowest-numbered one is
taken, no element is loaded or stored, and nothing else changes (R124). -/
def Obligations.ShortVectorMemory : Prop :=
  ((∀ t f s r, CanIssue s t → fieldsOk .v .g .z f = true → f.imm &&& 0x3FFF0000#32 = 0 →
     VecReaches s t .r f (runAddr s t f) 0 r false →
     leadsTo (.vld t f) s (fun u => (u.thr t).st = .waiting .vecLoad ∧ (u.thr t).pc = (s.thr t).pc ∧ (u.thr t).v = (s.thr t).v ∧
       sameMemory s u ∧ ∃ v, (u.thr t).vld = some v ∧ v.gather = false ∧ loadsLanes s t f 0 r v)) ∧
   (∀ t f s r, CanIssue s t → indexLegal true f = true → f.imm &&& 0x3C000000#32 = 0 →
     VecReaches s t .r f (indexAddr s t f) (s.thr t).vprog.toNat r false →
     leadsTo (.vgather t f) s (fun u => (u.thr t).st = .waiting .vecLoad ∧ (u.thr t).pc = (s.thr t).pc ∧ (u.thr t).v = (s.thr t).v ∧
       sameMemory s u ∧ ∃ v, (u.thr t).vld = some v ∧ v.gather = true ∧ loadsLanes s t f (s.thr t).vprog.toNat r v)) ∧
   (∀ t s v, (s.thr t).vld = some v → (s.thr t).st = .waiting .vecLoad → clockRuns s t = true →
     (∀ q ∈ v.parts, q.val.isSome ∧ q.err = none) → (v.w = 8 ∨ v.w = 16 ∨ v.w = 32 ∨ v.w = 64) →
     (v.parts.map (fun q => q.elem)).Nodup → (∀ q ∈ v.parts, v.w * q.elem + v.w ≤ 128) →
     leadsTo (.vectorLoadArrival t) s (fun u =>
       (∀ q ∈ v.parts, lane ((u.thr t).rv v.d) v.w q.elem = BitVec.ofNat v.w (q.val.getD 0)) ∧
       (∀ i, v.w * i + v.w ≤ 128 → (∀ q ∈ v.parts, q.elem ≠ i) →
         lane ((u.thr t).rv v.d) v.w i = lane ((s.thr t).rv v.d) v.w i) ∧
       (∀ n, n ≠ v.d → (u.thr t).rv n = (s.thr t).rv n) ∧
       (u.thr t).vprog = (if v.gather then 0 else (s.thr t).vprog) ∧ (u.thr t).vld = none ∧
       GoesOn s u t ∧ (u.thr t).g = (s.thr t).g ∧ (u.thr t).p = (s.thr t).p ∧
       sameMemory s u ∧ u.ctl = s.ctl))) ∧
  (∀ t f s, CanIssue s t →
     (fieldsOk .v .g .z f = true → f.imm &&& 0x3FFF0000#32 = 0 →
       (∀ r, VecReaches s t .w f (runAddr s t f) 0 r true →
         leadsTo (.vst t f) s (fun u => storedLanes s u t f 0 r ∧ (u.thr t).v = (s.thr t).v ∧ (u.thr t).g = (found s t).g ∧
           (u.thr t).p = (s.thr t).p ∧ (u.thr t).vprog = (s.thr t).vprog ∧ (u.thr t).pc = pcNext s t ∧ u.ctl = s.ctl)) ∧
       (noneOn s t f 0 → exec (.vld t f) s = .next (moved s t (found s t) (pcNext s t)) ∧
         exec (.vst t f) s = .next (moved s t (found s t) (pcNext s t)))) ∧
     (indexLegal false f = true → f.imm &&& 0x3C000000#32 = 0 →
       (∀ r, VecReaches s t .w f (indexAddr s t f) (s.thr t).vprog.toNat r true →
         leadsTo (.vscatter t f) s (fun u => storedLanes s u t f (s.thr t).vprog.toNat r ∧ (u.thr t).v = (s.thr t).v ∧
           (u.thr t).g = (found s t).g ∧ (u.thr t).p = (s.thr t).p ∧ (u.thr t).vprog = 0 ∧ (u.thr t).pc = pcNext s t ∧
           u.ctl = s.ctl)) ∧
       (noneOn s t f (s.thr t).vprog.toNat →
         exec (.vscatter t f) s = .next (moved s t { found s t with vprog := 0 } (pcNext s t)) ∧
         (indexLegal true f = true → exec (.vgather t f) s = .next (moved s t { found s t with vprog := 0 } (pcNext s t)))))) ∧
  (∀ t f s k c w, CanIssue s t → CanTrap s t → fieldsOk .v .g .z f = true → f.imm &&& 0x3FFF0000#32 = 0 → c ≠ xWorld → k < laneN f →
     laneOn s t f k = true →
     (checkData s t .r (runAddr s t f k) (laneW f / 8) true = .trap c w →
       (∀ i, i < k → laneOn s t f i = true → ∀ d x, checkData s t .r (runAddr s t f i) (laneW f / 8) true ≠ .trap d x) →
       leadsTo (.vld t f) s (fun u => Entered s u t c w (insWord 0x130 f))) ∧
     (checkData s t .w (runAddr s t f k) (laneW f / 8) true = .trap c w →
       (∀ i, i < k → laneOn s t f i = true → ∀ d x, checkData s t .w (runAddr s t f i) (laneW f / 8) true ≠ .trap d x) →
       leadsTo (.vst t f) s (fun u => Entered s u t c w (insWord 0x131 f))))

/-! ## Long vectors (03 R134 to R149) -/

namespace Sys2Proof.Claims

open Sys2Proof.Machine

/-- Thread `t` owns its core's context (05 R190). -/
def owns (s : State) (t : Tid) : Prop := (s.ctx t).owner = some t.thread.val

/-- The thread has issued its instruction, and only the queues of its core have changed. -/
structure OnlyQueued (s u : State) (t : Tid) : Prop where
  thread : u.thr t = issuedAt (found s t) (pcNext s t)
  lv : (u.ctx t).lv = (s.ctx t).lv
  lm : (u.ctx t).lm = (s.ctx t).lm
  tiles : (u.ctx t).tiles = (s.ctx t).tiles
  owner : (u.ctx t).owner = (s.ctx t).owner
  memory : sameMemory s u
  registers : u.ctl = s.ctl

/-- Lane `i` of a long-vector register, FP32; mask bit `i`. -/
def lvLane (c : Core) (r i : Nat) : F32 := (mget c.lv r []).getD i 0
def lmBit (c : Core) (r i : Nat) : Bool := (mget c.lm r 0).getLsbD i

/-- Lane `i` is active: me = 0, or bit i of the mask mk (R140). -/
def lvOn (c : Core) (me : Bool) (mk i : Nat) : Bool := !me || lmBit c mk i

/-- One rounding to FP32 by the queued rounding field: 2 toward zero, else nearest even (R141). -/
def lvRnd (rm : BitVec 2) (v : FVal) : F32 := BitVec.ofNat 32 (fp32.deliver (if rm = 2 then .rtz else .rne) v).1

/-- LV.ALU, by sub (Table 3-6): d, s1, s2 of a lane. -/
def lvFn (sub : Nat) (rm : BitVec 2) (d a b : F32) : F32 :=
  let x := fp32.decode a.toNat
  let y := fp32.decode b.toNat
  match sub with
  | 0 => lvRnd rm (x.add y).1
  | 1 => lvRnd rm (x.add y.negate).1
  | 2 => lvRnd rm (x.mul y).1
  | 3 => lvRnd rm (x.fma y (fp32.decode d.toNat)).1
  | 4 => lvRnd rm (x.div y).1
  | 5 => lvRnd rm (FVal.pick false x y).1
  | 6 => lvRnd rm (FVal.pick true x y).1
  | 7 => lvRnd rm x.sqrt.1
  | 8 => lvRnd rm x.rsqrt.1
  | 9 => lvRnd rm ((FVal.fin false 1 0).div x).1
  | 10 => a &&& 0x7FFFFFFF#32
  | 11 => a ^^^ 0x80000000#32
  | _ => a

/-- The fixed tree of RSUM: `2 ^ k` lanes, neighbours first (R144). -/
def treeSum : Nat → (Nat → F32) → F32
  | 0, x => x 0
  | k + 1, x => treeSum k (fun i => fadd32 (x (2 * i)) (x (2 * i + 1)))

/-- The head of the finishing queue can complete now. -/
structure FinHead (s : State) (t : Tid) (o : FinOp) (r : List FinOp) : Prop where
  head : (s.ctx t).finQ = o :: r
  thread : o.thread = t.thread.val
  noDrain : (s.ctx t).drainEnd = none
  order : behindTile (s.ctx t) o = false
  free : o.hold = []
  clock : clockRuns s t = true

def cidOf (t : Tid) : Cid := ⟨t.lathe, t.core⟩

end Sys2Proof.Claims

/-- LV.ALU, LV.CMP and LV.MASK enter the queue of 8 with their operands and the thread goes on; when the queue is full, or
another thread owns the context, the thread waits; a free context is taken with every lane and mask zero (R135, R136, R147, 05
R190). LONG_VECTOR_OP_COMPLETE: the oldest queued LV.ALU, LV.CMP or LV.MASK takes effect on its active lanes and leaves the
queue; inactive lanes keep their values, and inactive bits of a compare are 0 (R140 to R143, R148). LV.RED waits with its
result, once the thread's queued operations are complete: RSUM by the fixed tree over the active lanes, +0.0 elsewhere; RMAX, RMIN
and RMAXABS give the greatest, least or greatest absolute value of the active lanes that are no NaN, the canonical NaN when all are,
and -inf, +inf and +0.0 over no active lane (R144, R147). LVLD and LVST whose elements lie in memory of this device wait for their
access once their checks have passed; a reserved format raises XC_FORMAT (R145, R146, R139). When every element has completed, an
LVLD has the elements' FP32 values in its active lanes, and an LVST without amax has the converted lanes in memory and no other byte
changed; the thread goes on (R145, R146). -/
def Obligations.LongVectorQueue : Prop :=
  (((∀ p ∈ ([(.lvAlu, .alu, lvAluLegal), (.lvCmp, .cmp, fun f => lvFmt f == 0 && nbits f.imm.toNat 0 16 == 0 && !lvSb f &&
         decide (lvSub f ≤ 3) && lmReg f.d && lvReg f.s1 && lvReg f.s2), (.lvMask, .mask, lvMaskLegal)] :
         List (Form × FinKind × (Fld → Bool))),
       ∀ t f s, CanIssue s t → guarded s t f → p.2.2 f = true →
         (owns s t → ((s.ctx t).finQ.filter (fun o => o.kind.isLv)).length < 8 → leadsTo (p.1 t f) s (fun u =>
           OnlyQueued s u t ∧ ∃ o, (u.ctx t).finQ = (s.ctx t).finQ ++ [o] ∧ o.kind = p.2.1 ∧ o.thread = t.thread.val ∧
             o.d = f.d.toNat ∧ o.s1 = f.s1.toNat ∧ o.s2 = f.s2.toNat ∧ o.sub = lvSub f ∧ o.me = lvMe f ∧
             (o.me = true → o.mreg = lvMk f) ∧
             o.scalar = (if lvSb f then some (((found s t).rg f.s2.toNat).setWidth 32) else none))) ∧
         (owns s t → 8 ≤ ((s.ctx t).finQ.filter (fun o => o.kind.isLv)).length →
           exec (p.1 t f) s = .next (leaveBound (begun s t) t .lvQueue)) ∧
         (∀ k, (s.ctx t).owner = some k → k ≠ t.thread.val →
           exec (p.1 t f) s = .next (leaveBound (begun s t) t .tileContext)) ∧
         ((s.ctx t).owner = none → (s.ctx t).finQ = [] → leadsTo (p.1 t f) s (fun u => owns u t ∧
           (∀ r i, lvLane (u.ctx t) r i = 0 ∧ lmBit (u.ctx t) r i = false) ∧ (u.ctx t).finQ.length = 1))) ∧
    (∀ t s o r, FinHead s t o r → o.drain = none →
       (o.kind = .alu → o.sub ≤ 12 → leadsTo (.longVectorOpComplete (cidOf t)) s (fun u => (u.ctx t).finQ = r ∧
         (∀ i, i < 512 → lvLane (u.ctx t) o.d i = if lvOn (s.ctx t) o.me o.mreg i then
           (let b := (o.scalar.getD (lvLane (s.ctx t) o.s2 i))
             if o.sub = 12 then o.scalar.getD (lvLane (s.ctx t) o.s1 i)
             else lvFn o.sub o.rm (lvLane (s.ctx t) o.d i) (lvLane (s.ctx t) o.s1 i) b)
           else lvLane (s.ctx t) o.d i) ∧
         (∀ n i, n ≠ o.d → lvLane (u.ctx t) n i = lvLane (s.ctx t) n i) ∧ (u.ctx t).lm = (s.ctx t).lm ∧
         (u.ctx t).tiles = (s.ctx t).tiles ∧ (u.thr t).g = (s.thr t).g ∧ sameMemory s u)) ∧
       (o.kind = .cmp → o.sub ≤ 3 → leadsTo (.longVectorOpComplete (cidOf t)) s (fun u => (u.ctx t).finQ = r ∧
         (∀ i, i < 512 → lmBit (u.ctx t) o.d i = (lvOn (s.ctx t) o.me o.mreg i &&
           (fRel o.sub (fp32.decode (lvLane (s.ctx t) o.s1 i).toNat) (fp32.decode (lvLane (s.ctx t) o.s2 i).toNat)).1)) ∧
         (∀ n i, n ≠ o.d → lmBit (u.ctx t) n i = lmBit (s.ctx t) n i) ∧ (u.ctx t).lv = (s.ctx t).lv ∧ sameMemory s u)) ∧
       (o.kind = .mask → o.sub ≤ 6 → leadsTo (.longVectorOpComplete (cidOf t)) s (fun u => (u.ctx t).finQ = r ∧
         (∀ i, i < 512 → lmBit (u.ctx t) o.d i =
           (let a := lmBit (s.ctx t) o.s1 i
             let b := lmBit (s.ctx t) o.s2 i
             match o.sub with
             | 0 => a && b
             | 1 => a || b
             | 2 => xor a b
             | 3 => a && !b
             | 4 => !a
             | 5 => true
             | _ => false)) ∧
         (∀ n i, n ≠ o.d → lmBit (u.ctx t) n i = lmBit (s.ctx t) n i) ∧ (u.ctx t).lv = (s.ctx t).lv ∧ sameMemory s u)))) ∧
   (∀ t f s, CanIssue s t → guarded s t f → owns s t → lvFmt f = 0 → nbits f.imm.toNat 0 16 = 0 →
      lvSb f = false → f.d.toNat < 32 → f.s1.toNat < 16 → f.s2 = 0 → lvSub f ≤ 3 →
      let on := lvOn (s.ctx t) (lvMe f) (lvMk f)
      let x := lvLane (s.ctx t) f.s1.toNat
      let num (i : Nat) : Prop := i < 512 ∧ on i = true ∧ (f32v (x i)).isNan = false
      let mag (i : Nat) : F32 := x i &&& 0x7FFFFFFF#32
      let gives (v : F32) : Prop := leadsTo (.lvRed t f) s (fun u => (u.thr t).result = some (f.d.toNat, v.setWidth 64) ∧
        (u.thr t).st = .waiting .longLatency ∧ (u.thr t).pc = pcNext s t ∧ (u.ctx t).lv = (s.ctx t).lv ∧ sameMemory s u)
      (hasQueued s t = true → exec (.lvRed t f) s = .next (leaveBound (begun s t) t .queues)) ∧
      (hasQueued s t = false →
        (lvSub f = 0 → gives (treeSum 9 (fun i => if on i then x i else 0))) ∧
        (lvSub f = 1 → (∃ i, num i) → ∃ i, num i ∧ gives (x i) ∧ ∀ j, num j → (f32v (x i)).lt (f32v (x j)) = false) ∧
        (lvSub f = 2 → (∃ i, num i) → ∃ i, num i ∧ gives (x i) ∧ ∀ j, num j → (f32v (x j)).lt (f32v (x i)) = false) ∧
        (lvSub f = 3 → (∃ i, num i) → ∃ i, num i ∧ gives (mag i) ∧ ∀ j, num j → (f32v (mag i)).lt (f32v (mag j)) = false) ∧
        (lvSub f = 1 → (∀ i, i < 512 → on i = false) → gives 0xFF800000#32) ∧
        (lvSub f = 2 → (∀ i, i < 512 → on i = false) → gives 0x7F800000#32) ∧
        (lvSub f = 3 → (∀ i, i < 512 → on i = false) → gives 0) ∧
        (1 ≤ lvSub f → (∃ i, i < 512 ∧ on i = true) → (∀ i, i < 512 → on i = true → (f32v (x i)).isNan = true) →
          gives 0x7FC00000#32)))) ∧
  ((∀ p ∈ ([(.lvld, 0x1C0, false), (.lvst, 0x1C1, true)] : List (Form × Nat × Bool)), ∀ t f s, CanIssue s t → guarded s t f →
     owns s t → lvMemLegal p.2.2 f = true →
     (fmtReserved (lvFmt f) = true → CanTrap s t →
       leadsTo (p.1 t f) s (fun u => Entered s u t xFormat (BitVec.ofNat 64 (lvFmt f)) (insWord p.2.1 f))) ∧
     (∀ r : Nat → Nat, lvFmt f ≤ 5 → hasQueued s t = false → (s.thr t).sbuf = [] →
       (p.2.2 = true → keyAmax ((found s t).rg f.d.toNat) = true →
         mayMerge s (s.lathe t.lathe.val).world (keyTensor ((found s t).rg f.d.toNat)) = true) →
       (∀ e ∈ lvElems (s.ctx t) ((found s t).rg f.s1.toNat) (lvStride f) (lvFmt f) (lvMe f) (lvMk f),
         checkData s t (if p.2.2 then .w else .r) e.2 (fmtBits (lvFmt f) / 8) true = .ok ∧ isSelf s (chainOf e.2) = true ∧
           placeOf s t e.2 = .ram (r e.1) ∧ memBusy s (canon s t e.2) = false ∧
           elemRefused (begun s t) t true (canon s t e.2) = none) →
       leadsTo (p.1 t f) s (fun u => (u.thr t).st = .waiting .lvAccess ∧ (u.thr t).pc = (s.thr t).pc ∧ sameMemory s u ∧
         (u.ctx t).lv = (s.ctx t).lv ∧ ∃ a, (u.ctx t).lvAccess = some a ∧ a.store = p.2.2 ∧ a.thread = t.thread.val ∧
           a.d = f.d.toNat ∧ a.src = f.s2.toNat ∧ a.addr = (found s t).rg f.s1.toNat ∧ a.stride = lvStride f ∧
           a.fmt.toNat = lvFmt f ∧ a.me = lvMe f ∧ a.mreg = lvMk f ∧ a.lines = [] ∧
           (p.2.2 = true → a.key = (found s t).rg f.d.toNat)))) ∧
   (∀ t s a (r : Nat → Nat), (s.ctx t).lvAccess = some a → a.thread = t.thread.val → (s.thr t).st = .waiting .lvAccess →
     clockRuns s t = true → a.fmt.toNat ≤ 5 → a.lines = [] →
     let m := fmtBits a.fmt.toNat / 8
     let on := lvOn (s.ctx t) a.me a.mreg
     (∀ e ∈ lvElems (s.ctx t) a.addr a.stride a.fmt.toNat a.me a.mreg, isSelf s (chainOf e.2) = true ∧ e.2.toNat % m = 0 ∧
       canon s t e.2 = r e.1 ∧ poisonAt s (r e.1) m = none ∧ memBusy s (r e.1) = false ∧
       FirstInLine s t (some (bankOf s (r e.1))) s.mem.presented (r e.1) m) →
     (a.store = false → leadsTo (.longVectorAccessComplete t []) s (fun u =>
       (∀ i, i < 512 → lvLane (u.ctx t) a.d i = if on i then
         elemF32 a.fmt.toNat (leNat ((List.range m).map (fun k => byteAt s (r i + k)))) else lvLane (s.ctx t) a.d i) ∧
       (∀ n i, n ≠ a.d → lvLane (u.ctx t) n i = lvLane (s.ctx t) n i) ∧ (u.ctx t).lvAccess = none ∧ GoesOn s u t ∧
       sameMemory s u)) ∧
     (a.store = true → keyAmax a.key = false →
       (∀ i j, i < j → j < 512 → on i = true → on j = true → r i + m ≤ r j ∨ r j + m ≤ r i) →
       leadsTo (.longVectorAccessComplete t []) s (fun u =>
         (∀ i, i < 512 → on i = true → ∀ k, k < m →
           byteAt u (r i + k) = (leBytes m (lvConvert a (lvLane (s.ctx t) a.src i) i).code).getD k 0) ∧
         (∀ c, (∀ i, i < 512 → on i = true → c < r i ∨ r i + m ≤ c) → byteAt u c = byteAt s c) ∧
         (u.ctx t).lv = (s.ctx t).lv ∧ (u.ctx t).lvAccess = none ∧ GoesOn s u t))))

/-! ## Tile registers (05) -/

namespace Sys2Proof.Claims

open Sys2Proof.Machine

/-- `n` bytes at `a` of this device's memory that the instruction reads at issue: `d`. -/
structure Readable (s : State) (t : Tid) (a : Word) (n : Nat) (d : List Byte) : Prop where
  checked : recordCheck (begun s t) t a n = .ok
  here : isSelf s (chainOf a) = true
  inside : localOf a + n ≤ 2 ^ 48
  free : runBusy s (canon s t a) n = false
  quiet : Quiet s t (canon s t a) n
  clean : poisonAt s (canon s t a) n = none
  bytes : d = (List.range n).map (fun k => byteAt s (canon s t a + k))

/-- A tile with no contents in a shape. -/
def isShape (x : Tile) (rows cols fmt : Nat) : Prop :=
  x.rows = rows ∧ x.cols = cols ∧ x.fmt.toNat = fmt ∧ x.loaded = false

/-- The granules of a context in the tile file or in the accumulator store that a list of shapes adds. -/
def adds (s : State) (t : Tid) (acc : Bool) (ch : List Shape) : Int := need (s.ctx t) acc ch

/-- The tile operation at the head of the queue can complete now. -/
structure TileHead (s : State) (t : Tid) (o : TileOp) (r : List TileOp) : Prop where
  head : (s.ctx t).tileQ = o :: r
  thread : o.thread = t.thread.val
  order : behindFin (s.ctx t) o = false
  clock : clockRuns s t = true

/-- The value of a tile element, FP32. -/
def tileVal (s : State) (t : Tid) (k i : Nat) : F32 := ((s.ctx t).tile k).elem i

end Sys2Proof.Claims

/-- TCFG with an all-zero mask does nothing. A record with a reserved format raises XC_FORMAT, and one with a failing shape
XC_TILE_SHAPE with TFAULT naming it (R199). A record whose checks pass changes only the tiles whose shape differs: at once
when it needs no storage and no queued operation touches them, else the thread waits, in the FIFO of the lathe when it needs
storage; more than the lathe has raises XC_TILE_CAPACITY (R199 to R204). TCFG_GRANT grants the head of the FIFO when both parts
fit; a lone waiter that can never be granted raises XC_TILE_CAPACITY there (R204). TCFG_APPLY records the shapes of a granted TCFG
and takes the storage, and the thread goes on; so does one whose interlock is over and that needs no storage, and one that needs
some enters the FIFO (R201 to R203). -/
def Obligations.TileConfigure : Prop :=
  (∀ t f s, CanIssue s t → guarded s t f → owns s t → fieldsOk .z .g .z f = true → f.imm.toNat < 2 ^ 10 →
     (f.imm = 0 → exec (.tcfg t f) s = .next (moved s t (found s t) (pcNext s t))) ∧
     (∀ b, f.imm ≠ 0 → (s.thr t).sbuf = [] → Readable s t ((found s t).rg f.s1.toNat) 128 b →
       let es := ((List.range 10).filter (fun e => f.imm.getLsbD e)).map (cfgEntry b)
       let ch := es.filter (fun x => !(((s.ctx t).tile x.1).rows == x.2.1 && ((s.ctx t).tile x.1).cols == x.2.2.1 &&
         ((s.ctx t).tile x.1).fmt.toNat == x.2.2.2))
       (∀ c, cfgBad es = some (.inl c) → CanTrap s t →
         leadsTo (.tcfg t f) s (fun u => Entered s u t xFormat (BitVec.ofNat 64 c) (insWord 0x180 f))) ∧
       (∀ q, cfgBad es = some (.inr q) → CanTrap s t →
         leadsTo (.tcfg t f) s (fun u => Entered s u t xShape 0 (insWord 0x180 f) ∧ (u.thr t).tfault = q.word)) ∧
       (cfgBad es = none →
         (ch = [] → leadsTo (.tcfg t f) s (fun u => u.thr t = issuedAt (found s t) (pcNext s t) ∧ (u.ctx t).tiles = (s.ctx t).tiles ∧
           sameMemory s u ∧ u.ctl = s.ctl)) ∧
         (ch ≠ [] → tooMuch (s.ctx t) ch = true → CanTrap s t →
           leadsTo (.tcfg t f) s (fun u => Entered s u t xCapacity 0 (insWord 0x180 f))) ∧
         (ch ≠ [] → tooMuch (s.ctx t) ch = false → tilesBusy (s.ctx t) (ch.map (fun x => x.1)) = true →
           leadsTo (.tcfg t f) s (fun u => (u.thr t).st = .waiting (.tcfg (insWord 0x180 f) ch true) ∧
             (u.ctx t).tiles = (s.ctx t).tiles ∧ (u.thr t).pc = (s.thr t).pc)) ∧
         (ch ≠ [] → tooMuch (s.ctx t) ch = false → tilesBusy (s.ctx t) (ch.map (fun x => x.1)) = false →
           (0 < adds s t false ch ∨ 0 < adds s t true ch) →
           leadsTo (.tcfg t f) s (fun u => (u.thr t).st = .waiting (.tcfg (insWord 0x180 f) ch false) ∧
             (u.lathe t.lathe.val).tcfgQ = (s.lathe t.lathe.val).tcfgQ ++ [(t.core.val, t.thread.val)] ∧
             (u.ctx t).tiles = (s.ctx t).tiles ∧ (u.thr t).pc = (s.thr t).pc)) ∧
         (ch ≠ [] → tooMuch (s.ctx t) ch = false → tilesBusy (s.ctx t) (ch.map (fun x => x.1)) = false →
           adds s t false ch ≤ 0 → adds s t true ch ≤ 0 →
           leadsTo (.tcfg t f) s (fun u => (∀ x ∈ ch, isShape ((u.ctx t).tile x.1) x.2.1 x.2.2.1 (x.2.2.2 % 16)) ∧
             (∀ k, (∀ x ∈ ch, x.1 ≠ k) → (u.ctx t).tile k = (s.ctx t).tile k) ∧
             ((u.lathe t.lathe.val).tileFree : Int) = (s.lathe t.lathe.val).tileFree - adds s t false ch ∧
             u.thr t = issuedAt (found s t) (pcNext s t) ∧ sameMemory s u))))) ∧
  ((∀ (l : Fin 68) s t i ch, cfgHead s l.val = some (t, i, ch) → t.lathe = l → clockRuns s t = true →
     adds s t false ch ≤ (s.lathe l.val).tileFree → adds s t true ch ≤ (s.lathe l.val).accFree →
     leadsTo (.tcfgGrant l) s (fun u => (u.thr t).st = .waiting (.tcfg i ch true) ∧ (u.ctx t).tiles = (s.ctx t).tiles ∧
       sameMemory s u)) ∧
   (∀ (l : Fin 68) s t i ch, cfgHead s l.val = some (t, i, ch) → t.lathe = l → clockRuns s t = true → owns s t →
     (s.lathe l.val).tcfgQ = [(t.core.val, t.thread.val)] →
     (((s.lathe l.val).tileFree : Int) < adds s t false ch ∨ ((s.lathe l.val).accFree : Int) < adds s t true ch) →
     (∀ c, c < 68 → c ≠ t.core.val → fileGranules (s.core l.val c) = 0 ∧ accGranules (s.core l.val c) = 0) →
     allArrived (s.thr t) = true → ((s.thr t).tl = false ∨ (s.thr t).nest = true) →
     leadsTo (.tcfgGrant l) s (fun u => (u.thr t).xcause = BitVec.ofNat 64 xCapacity ∧ (u.thr t).xepc = (s.thr t).pc ∧
       (u.thr t).xtval = 0 ∧ (u.thr t).xinst = i ∧ (u.thr t).tl = true ∧ ((u.thr t).st = .ready ∨ (u.thr t).st = .running) ∧
       (u.lathe l.val).tcfgQ = [] ∧ (u.ctx t).tiles = (s.ctx t).tiles ∧ sameMemory s u))) ∧
  (∀ s t i ch g, (s.thr t).st = .waiting (.tcfg i ch g) → clockRuns s t = true → (ch.map (fun x => x.1)).Nodup →
     let mine := (s.lathe t.lathe.val).tcfgQ.contains (t.core.val, t.thread.val)
     let applied : Prop := leadsTo (.tcfgApply t) s (fun u =>
       (∀ x ∈ ch, isShape ((u.ctx t).tile x.1) x.2.1 x.2.2.1 (x.2.2.2 % 16)) ∧
       (∀ k, (∀ x ∈ ch, x.1 ≠ k) → (u.ctx t).tile k = (s.ctx t).tile k) ∧
       ((u.lathe t.lathe.val).tileFree : Int) = (s.lathe t.lathe.val).tileFree - adds s t false ch ∧
       ((u.lathe t.lathe.val).accFree : Int) = (s.lathe t.lathe.val).accFree - adds s t true ch ∧
       (u.lathe t.lathe.val).tcfgQ.contains (t.core.val, t.thread.val) = false ∧ GoesOn s u t ∧ sameMemory s u)
     (g = true → mine = true → adds s t false ch ≤ (s.lathe t.lathe.val).tileFree →
       adds s t true ch ≤ (s.lathe t.lathe.val).accFree → applied) ∧
     (mine = false → tilesBusy (s.ctx t) (ch.map (fun x => x.1)) = false → adds s t false ch ≤ 0 → adds s t true ch ≤ 0 → applied) ∧
     ((s.lathe t.lathe.val).tcfgQ = [] → tilesBusy (s.ctx t) (ch.map (fun x => x.1)) = false →
       (0 < adds s t false ch ∨ 0 < adds s t true ch) → adds s t false ch ≤ (s.lathe t.lathe.val).tileFree →
       adds s t true ch ≤ (s.lathe t.lathe.val).accFree →
       leadsTo (.tcfgApply t) s (fun u => (u.thr t).st = .waiting (.tcfg i ch false) ∧
         (u.lathe t.lathe.val).tcfgQ = [(t.core.val, t.thread.val)] ∧ (u.ctx t).tiles = (s.ctx t).tiles ∧ sameMemory s u)))

/-- TREL waits while a queued operation touches a named tile; else the named tiles become unconfigured and the others stand. With
no tile left the context is released, at once when the thread has nothing queued, else by TILE_CONTEXT_RELEASE (R206, R207, R192). -/
def Obligations.TileRelease : Prop :=
  (∀ t f s, CanIssue s t → guarded s t f → owns s t → fieldsOk .z .z .z f = true → f.imm.toNat < 2 ^ 10 →
    let ks := (List.range 10).filter (fun k => f.imm.getLsbD k)
    let last : Prop := ∀ k, k < 10 → k ∈ ks ∨ ((s.ctx t).tile k).conf = false
    (tilesBusy (s.ctx t) ks = true →
      exec (.trel t f) s = .next (leaveBound (begun s t) t (.trel (f.imm.setWidth 10)))) ∧
    (tilesBusy (s.ctx t) ks = false → ¬last →
      leadsTo (.trel t f) s (fun u => (∀ k ∈ ks, ((u.ctx t).tile k).conf = false) ∧
        (∀ k, k ∉ ks → (u.ctx t).tile k = (s.ctx t).tile k) ∧ owns u t ∧
        u.thr t = issuedAt (found s t) (pcNext s t) ∧ sameMemory s u)) ∧
    (tilesBusy (s.ctx t) ks = false → last → hasQueued s t = false →
      leadsTo (.trel t f) s (fun u => (u.ctx t).owner = none ∧ (∀ k, k < 10 → ((u.ctx t).tile k).conf = false) ∧
        (u.thr t).pc = pcNext s t ∧ (u.thr t).g = (found s t).g ∧ sameMemory s u)) ∧
    (tilesBusy (s.ctx t) ks = false → last → hasQueued s t = true →
      leadsTo (.trel t f) s (fun u => (u.thr t).st = .waiting (.trel 0) ∧ (∀ k, k < 10 → ((u.ctx t).tile k).conf = false) ∧
        owns u t ∧ (u.thr t).pc = (s.thr t).pc ∧ sameMemory s u))) ∧
  (∀ t s, owns s t → (s.thr t).st = .waiting (.trel 0) → (∀ k, k < 10 → ((s.ctx t).tile k).conf = false) →
    hasQueued s t = false → clockRuns s t = true →
    leadsTo (.tileContextRelease (cidOf t)) s (fun u => (u.ctx t).owner = none ∧ GoesOn s u t ∧ sameMemory s u))

/-- TLD, TST, TZERO and TMMA enter the tile queue of 8 with the operands they read; a full queue makes the thread wait (R209, R213,
R214, R219, R224). A TMMA with K = 0 starts no pass and leaves everything as it was (R220). A descriptor that names a reserved
format or is otherwise bad raises XC_FORMAT; a failing check of Table 5-6 or 5-8, whatever K is, and TZERO of an unconfigured
accumulator raise XC_TILE_SHAPE with TFAULT naming the first (R219, R223). -/
def Obligations.TileIssue : Prop :=
  (∀ t f s, CanIssue s t → guarded s t f → owns s t →
     let queues (i : Instr) (P : TileOp → Prop) : Prop := leadsTo i s (fun u => OnlyQueued s u t ∧
       ∃ o, (u.ctx t).tileQ = (s.ctx t).tileQ ++ [o] ∧ o.thread = t.thread.val ∧ o.seq = (s.ctx t).nextSeq ∧ P o)
     let full := decide (8 ≤ (s.ctx t).tileQ.length)
     let waits (i : Instr) : Prop := exec i s = .next (leaveBound (begun s t) t .tileQueue)
     let misfit (i : Instr) (op : Nat) (q : TFault) : Prop := leadsTo i s (fun u => Entered s u t xShape 0 (insWord op f) ∧
       (u.thr t).tfault = q.word ∧ (u.ctx t).tileQ = (s.ctx t).tileQ ∧ (u.ctx t).tiles = (s.ctx t).tiles)
     (∀ store, moveLegal store f = true →
       let i : Instr := if store then .tst t f else .tld t f
       let op : Nat := if store then 0x183 else 0x182
       (full = true → waits i) ∧
       (∀ b, full = false → (s.thr t).sbuf = [] → Readable s t ((found s t).rg f.s1.toNat) 64 b →
         let d := tdescOf ((found s t).rg f.s1.toNat) b
         let x := (s.ctx t).tile f.d.toNat
         let r0 := ((found s t).rg f.s2.toNat &&& 0xFFFFFFFF#64).toNat
         let c0 := ((found s t).rg f.s2.toNat >>> 32).toNat
         let tr := f.imm.getLsbD 0
         let conv := f.imm.getLsbD 1
         let checks := moveChecks x f.d.toNat d c0 tr conv
         let ps := spansOf (if store then .w else .r) d (windowRuns d r0 c0 (winRows x tr) (winCols x tr)) ++
           (if store then descSpan d else [])
         (d.bad = true → CanTrap s t → leadsTo i s (fun u => Entered s u t xFormat (BitVec.ofNat 64 d.fmt.toNat) (insWord op f))) ∧
         (∀ q, d.bad = false → firstBad checks = some q → CanTrap s t → misfit i op q) ∧
         (d.bad = false → firstBad checks = none → checkSpans (begun s t) t ps = .ok →
           spansBusy (begun s t) t (ps.map Span.run) = false →
           (store = true → mayMerge s (s.lathe t.lathe.val).world d.tensor = true) →
           queues i (fun o => o.kind = (if store then .tst else .tld) ∧ o.d = f.d.toNat ∧ o.desc = some d ∧ o.r0 = r0 ∧
             o.c0 = c0 ∧ o.tr = tr ∧ o.conv = conv)))) ∧
     (f.d.toNat < 2 → f.s1 = 0 → f.s2 = 0 → f.imm = 0 →
       (((s.ctx t).tile (8 + f.d.toNat)).conf = true →
         (full = false → queues (.tzero t f) (fun o => o.kind = .tzero ∧ o.d = f.d.toNat)) ∧ (full = true → waits (.tzero t f))) ∧
       (((s.ctx t).tile (8 + f.d.toNat)).conf = false → CanTrap s t →
         misfit (.tzero t f) 0x184 ⟨0, 1, dRows, 0, 8 + f.d.toNat⟩)) ∧
     (f.d.toNat < 2 → f.s1.toNat < 8 → f.s2.toNat < 8 → f.imm.toNat < 2 ^ 8 →
       let K := ((found s t).rg (f.imm &&& 31#32).toNat).toNat
       let sh := (ctlGet s (rArrShape t.lathe.val)).getLsbD 0
       let checks := mmaChecks (s.ctx t) sh f.d.toNat f.s1.toNat f.s2.toNat K
       (∀ q, firstBad checks = some q → CanTrap s t → misfit (.tmma t f) 0x185 q) ∧
       (firstBad checks = none →
         (K = 0 → exec (.tmma t f) s = .next (moved s t (found s t) (pcNext s t))) ∧
         (K ≠ 0 → full = true → waits (.tmma t f)) ∧
         (K ≠ 0 → full = false → queues (.tmma t f) (fun o => o.kind = .tmma ∧ o.d = f.d.toNat ∧
           o.s1 = f.s1.toNat ∧ o.s2 = f.s2.toNat ∧ o.k = K ∧ o.shallow = sh ∧ o.granted = false)))))

/-- TILE_OP_COMPLETE: a TZERO leaves +0.0 in every element of its accumulator; a TLD from this device's memory of a whole-byte element format without
conversion leaves the codes of its window, +0.0 beyond the tensor; a TST of such a format writes its in-bounds codes at their
addresses and changes no other byte but the tensor's scale-table entry; the operation leaves the queue (R209, R211, R213, R214,
R225). -/
def Obligations.TileOpComplete : Prop :=
  ∀ t s o r, TileHead s t o r →
    (o.kind = .tzero → leadsTo (.tileOpComplete (cidOf t) none) s (fun u => (u.ctx t).tileQ = r ∧
      (∀ i, tileVal u t (8 + o.d) i = 0 ∨ ((s.ctx t).tile (8 + o.d)).fmt ≠ 0) ∧
      (∀ k, k ≠ 8 + o.d → (u.ctx t).tile k = (s.ctx t).tile k) ∧ sameMemory s u)) ∧
    (∀ d m p, o.desc = some d → o.conv = false → o.tr = false → (m = 1 ∨ m = 2 ∨ m = 4) → fmtBits d.c = 8 * m →
      fmtBlock d.c = false → ((s.ctx t).tile o.d).fmt = d.fmt →
      (∀ k, isSelf s (chainOf (dataAt d k)) = true ∧ canon s t (dataAt d k) = p + k ∧ localOf (dataAt d k) = localOf d.data + k ∨
        m * d.rows * d.cols ≤ k) → localOf d.data + m * d.rows * d.cols ≤ 2 ^ 48 →
      Quiet s t p (m * d.rows * d.cols) → (∀ a n, poisonAt s a n = none) →
      let x := (s.ctx t).tile o.d
      let idx (i j : Nat) : Nat := (o.r0 + i) * d.cols + (o.c0 + j)
      (o.kind = .tld → leadsTo (.tileOpComplete (cidOf t) none) s (fun u => (u.ctx t).tileQ = r ∧
        ((u.ctx t).tile o.d).rows = x.rows ∧ ((u.ctx t).tile o.d).cols = x.cols ∧
        (∀ i j, i < x.rows → j < x.cols → ((u.ctx t).tile o.d).code (i * x.cols + j) =
          if o.r0 + i < d.rows ∧ o.c0 + j < d.cols then leNat ((List.range m).map (fun k => byteAt s (p + m * idx i j + k)))
          else 0) ∧
        (∀ k, k ≠ o.d → (u.ctx t).tile k = (s.ctx t).tile k) ∧ sameMemory s u)) ∧
      (o.kind = .tst → (∀ c, c < m * d.rows * d.cols → p + c < scaleAt s d.tensor ∨ scaleAt s d.tensor + 128 ≤ p + c) →
        leadsTo (.tileOpComplete (cidOf t) none) s (fun u => (u.ctx t).tileQ = r ∧ (u.ctx t).tiles = (s.ctx t).tiles ∧
          (∀ i j, i < x.rows → j < x.cols → o.r0 + i < d.rows → o.c0 + j < d.cols → ∀ k, k < m →
            byteAt u (p + m * idx i j + k) = (leBytes m (x.code (i * x.cols + j))).getD k 0) ∧
          (∀ c, (c < scaleAt s d.tensor ∨ scaleAt s d.tensor + 128 ≤ c) →
            (∀ i j, i < x.rows → j < x.cols → o.r0 + i < d.rows → o.c0 + j < d.cols →
              c < p + m * idx i j ∨ p + m * idx i j + m ≤ c) → byteAt u c = byteAt s c))))

/-! ## Arrays (06) -/

namespace Sys2Proof.Claims

open Sys2Proof.Machine

/-- A fault has been detected: it has the next sequence number and, when no handling stood before it, its own (14 R456). -/
structure Detected (s u : State) (cause : BitVec 16) (kind : Byte) (index : Nat) : Prop where
  seq : ctlGet u rFltSeq = ctlGet s rFltSeq + 1
  first : s.flt.cur = none → s.flt.queue = [] → ∃ h, u.flt.queue = [h] ∧ u.flt.cur = none ∧ h.ev.cause = cause ∧
    h.ev.kind = kind ∧ h.ev.index = BitVec.ofNat 16 index ∧ h.seq = ctlGet s rFltSeq ∧ h.time = s.plat.devTime

/-- A register access of `n` bytes at offset `o` of control space reaches its register. -/
def reachesReg (s : State) (a : Agent) (o n : Nat) : Prop :=
  (a = .host → hostReaches s o = true ∧ s.pwr.standby = false ∧ clockOn s (.hostComplex 0) = true) ∧ regGate s (agentWorld s a) o n = none

def arr (s : State) (l : Fin 68) : ArrayUnit := (s.lathe l.val).arr

/-- The array works, pass `p` of band `b` is in it, and its TMMA `o` stands at the head of its core's queue. -/
structure InArray (s : State) (l : Fin 68) (b : Nat) (p : Pass) (o : TileOp) : Prop where
  runs : arrayRuns s l.val = true
  pass : mget? (arr s l).passes b = some p
  head : (s.core l.val p.core).tileQ.head? = some o

/-- A check of the pass fails: one that is made meets faulty hardware, or the tolerance of sound hardware is exceeded (R258,
R259). -/
def fails (p : Pass) (hwFail : Bool) : Bool := (hwFail && p.checked) || !p.inTol

/-- The open handling of the array's catch ends with a cause, and with no other class (14 R472, 06 R261). -/
def Ended (s u : State) (l : Fin 68) (cause : BitVec 16) : Prop :=
  ∀ h, s.flt.cur = none → s.flt.queue = [h] → h.catching = true → h.unit = (0, l.val) → ∃ g, u.flt.queue = [g] ∧
    u.flt.cur = none ∧ g.ev.cause = cause ∧ g.catching = false ∧ g.seq = h.seq ∧ g.cls = h.cls

/-- The open handling of the array's catch becomes that of the lathe's retirement (Table 6-5, step 9). -/
def Retiring (s u : State) (l : Fin 68) : Prop :=
  ∀ h, s.flt.cur = none → s.flt.queue = [h] → h.catching = true → h.unit = (0, l.val) → ∃ g, u.flt.queue = [g] ∧
    u.flt.cur = none ∧ g.ev.cause = cCatchRetire ∧ g.ev.kind = 0 ∧ g.ev.index = h.ev.index ∧ g.catching = false ∧
    g.seq = h.seq ∧ 3 ≤ g.cls

/-- The pass has committed: its result stands in the accumulator and its TMMA has left the queue. -/
def committed (s u : State) (l : Fin 68) (b : Nat) (p : Pass) : Prop :=
  (u.core l.val p.core).tile (8 + p.acc) = p.result ∧
    (∀ k, k ≠ 8 + p.acc → (u.core l.val p.core).tile k = (s.core l.val p.core).tile k) ∧
    (u.core l.val p.core).tileQ = (s.core l.val p.core).tileQ.drop 1 ∧ mget? (arr u l).passes b = none ∧ sameMemory s u

/-- The catch of a band is being handled, at a stage. -/
def caughtAt (s : State) (l : Fin 68) (b : Nat) (st : CatchStage) (m : Option (Nat × Nat)) : Prop :=
  (arr s l).caught = some ⟨b, st, m⟩ ∧ (arr s l).catchQ = []

end Sys2Proof.Claims

/-- PASS_GRANT: a free band grants the TMMA of the one ready context; its latches name the pass's weights, its results are computed
and its accumulator keeps what it holds until the pass commits. INT8: each element is the exact sum, rounded once, added to the
accumulator; 16-bit formats: the sum of products in order of k, one rounding a step, added once (R230, R239 to R245, R252). PASS_CHECK
commits a pass whose checks hold; it catches one of which a check fails, clears the latches and opens a handling; an array with no
pass stops (R253, R258 to R260). Catch handling: a retry that holds commits and ends the handling; one that fails leads to
localisation, whose marked cells remove a physical row or column, or lead to a self-test, or to the lathe's retirement; a self-test
that fails does the same; the last retry commits or retires (R261 to R266, Table 6-5, Table 6-6). An ARR_SHAPE write that changes the
shape waits, and the first that waits applies once the array is empty and no TMMA issued before it is queued (R251). -/
def Obligations.ArrayPass : Prop :=
  ((∀ (l : Fin 68) (band : Fin 4) s c o r, c < 68 → arrayRuns s l.val = true → mayGrant (arr s l) band.val = true →
     (s.core l.val c).tileQ = o :: r → o.kind = .tmma → o.granted = false → o.shallow = (arr s l).shallow → o.band = band.val →
     o.gen = (arr s l).gen → behindFin (s.core l.val c) o = false →
     (∀ c', c' ≠ c → readyMma (s.core l.val c') (arr s l) band.val = none) → 0 < o.k →
     let x := s.core l.val c
     leadsTo (.passGrant l band) s (fun u => (u.core l.val c).tileQ = { o with granted := true } :: r ∧
       (u.core l.val c).tiles = x.tiles ∧ (arr u l).running = true ∧ sameMemory s u ∧
       mget? (arr u l).latch band.val = some ⟨c, o.s2, (x.tile o.s2).version, o.k⟩ ∧
       (arr u l).rowLatch = some ⟨c, o.s1, (x.tile o.s1).version, 0⟩ ∧
       ∃ p, mget? (arr u l).passes band.val = some p ∧ p.core = c ∧ p.acc = o.d ∧ p.held = x.tile (8 + o.d) ∧
         p.result.rows = p.held.rows ∧ p.result.cols = p.held.cols ∧ p.result.fmt = p.held.fmt ∧
         (∀ m n, m < p.held.rows → n < p.held.cols → p.held.fmt = 0 →
           let at_ (y : Tile) (i j : Nat) : Nat := y.code (i * y.cols + j)
           let old := p.held.elem (m * p.held.cols + n)
           let new := p.result.elem (m * p.held.cols + n)
           ((x.tile o.s1).fmt = 5 → (x.tile o.s2).fmt = 5 →
             let z : Int := (List.range o.k).foldl (fun z k =>
               z + signedOf 8 (at_ (x.tile o.s1) m k) * signedOf 8 (at_ (x.tile o.s2) k n)) 0
             new = fadd32 old (BitVec.ofNat 32 (fp32.deliver .rne (.fin (decide (z < 0)) z.natAbs 0)).1)) ∧
           (∀ q ∈ [(1, bf16), (2, fp16)], (x.tile o.s1).fmt.toNat = q.1 → (x.tile o.s2).fmt.toNat = q.1 →
             new = fadd32 old ((List.range o.k).foldl (fun (z : F32) k => BitVec.ofNat 32 (fp32.deliver .rne
               ((q.2.decode (at_ (x.tile o.s1) m k)).fma (q.2.decode (at_ (x.tile o.s2) k n)) (fp32.decode z.toNat)).1).1) 0))))) ∧
   (∀ (l : Fin 68) (band : Fin 4) s p o (hwFail : Bool), InArray s l band.val p o → (arr s l).catchQ = [] → (arr s l).caught = none →
     (fails p hwFail = false → leadsTo (.passCheck l band hwFail) s (fun u => committed s u l band.val p)) ∧
     (fails p hwFail = true → leadsTo (.passCheck l band hwFail) s (fun u =>
       caughtAt u l band.val .retry none ∧ (arr u l).latch = [] ∧ (arr u l).rowLatch = none ∧
       (∀ c, (u.core l.val c).tiles = (s.core l.val c).tiles) ∧ mget? (arr u l).passes band.val = some p ∧
       Detected s u cCatchRetry 2 l.val ∧ sameMemory s u))) ∧
   (∀ (l : Fin 68) s, (arr s l).running = true → (arr s l).passes = [] → (arr s l).caught = none →
     leadsTo (.arrayStop l) s (fun u => arr u l = { arr s l with running := false } ∧ u.mem = s.mem ∧ u.threads = s.threads ∧
       u.cores = s.cores))) ∧
  ((∀ (l : Fin 68) s b p o (hwFail : Bool), InArray s l b p o →
     (caughtAt s l b .retry none →
       (fails p hwFail = false → leadsTo (.catchRetry l hwFail) s (fun u => committed s u l b p ∧ Ended s u l cCatchRetry ∧
         (arr u l).caught = none ∧
         mget? (arr u l).latch b = some ⟨p.core, o.s2, ((s.core l.val p.core).tile o.s2).version, o.k⟩)) ∧
       (fails p hwFail = true → leadsTo (.catchRetry l hwFail) s (fun u => caughtAt u l b .localise none ∧ (arr u l).latch = [] ∧
         u.cores = s.cores ∧ sameMemory s u))) ∧
     (∀ m, caughtAt s l b .last m →
       (fails p hwFail = false → leadsTo (.catchRetry l hwFail) s (fun u => committed s u l b p ∧
         Ended s u l (if m = none then cCatchRetry else cCatchRemap) ∧ (arr u l).caught = none)) ∧
       (fails p hwFail = true → leadsTo (.catchRetry l hwFail) s (fun u => caughtAt u l b .dead m ∧ Retiring s u l ∧
         mget? (arr u l).passes b = some p)))) ∧
   (∀ (l : Fin 68) s b p o marks, InArray s l b p o → caughtAt s l b .localise none → (∀ q ∈ (arr s l).passes, q.1 = b) →
     let x := s.core l.val p.core
     let own := if p.exact then [] else ownMarks (arr s l) p.ulps (x.tile o.s1) (x.tile o.s2) p.k b
     let found_ := classify (markable (arr s l) p.pack p.k (x.tile o.s2).cols b (marks ++ own))
     let rows := (arr s l).removedRows
     let cols := (arr s l).removedCols
     let act (rs cs : List Nat) (m : Option (Nat × Nat)) : Prop := leadsTo (.localisationPass l marks) s (fun u =>
       caughtAt u l b .selfTest m ∧ (arr u l).removedRows = rs ∧ (arr u l).removedCols = cs ∧ u.cores = s.cores)
     let dead : Prop := leadsTo (.localisationPass l marks) s (fun u => caughtAt u l b .dead none ∧ Retiring s u l ∧
       (arr u l).removedRows = rows ∧ (arr u l).removedCols = cols)
     match found_ with
     | .none_ => act rows cols none
     | .cell r c => if rows.length < 2 then act (rows ++ [r]) cols (some (r, c))
         else if cols = [] then act rows [c] (some (r, c)) else dead
     | .row r => if rows.length < 2 then act (rows ++ [r]) cols (some (r, 0xFFFF)) else dead
     | .col c => if cols = [] then act rows [c] (some (0xFFFF, c)) else dead
     | .uncoverable => dead) ∧
   (∀ (l : Fin 68) s b p o m, InArray s l b p o → caughtAt s l b .selfTest m →
     ((p.exact = true ∨ m ≠ none) → leadsTo (.selfTestTile l true) s (fun u => caughtAt u l b .last m ∧ u.cores = s.cores)) ∧
     (p.exact = false → m = none → leadsTo (.selfTestTile l true) s (fun u => committed s u l b p ∧ Ended s u l cCatchTol)) ∧
     leadsTo (.selfTestTile l false) s (fun u => caughtAt u l b .dead m ∧ Retiring s u l ∧ mget? (arr u l).passes b = some p)) ∧
   (∀ (l : Fin 68) s a v, reachesReg s a (rArrShape l.val) 8 → (s.lathe l.val).power = 0 →
     let old := ctlGet s (rArrShape l.val)
     leadsTo (.arrShapeWrite a l v) s (fun u => u.threads = s.threads ∧ u.cores = s.cores ∧
       (v.getLsbD 0 = old.getLsbD 0 → ctlGet u (rArrShape l.val) = old ∧ arr u l = arr s l) ∧
       (v.getLsbD 0 ≠ old.getLsbD 0 → (ctlGet u (rArrShape l.val)).getLsbD 0 = v.getLsbD 0 ∧
         (ctlGet u (rArrShape l.val)).getLsbD 1 = true ∧
         arr u l = { arr s l with shapeQ := (arr s l).shapeQ ++ [v.getLsbD 0] }))) ∧
   (∀ (l : Fin 68) s sh r, (arr s l).shapeQ = sh :: r → (arr s l).running = false → (arr s l).passes = [] → (arr s l).caught = none →
     arrayRuns s l.val = true → (∀ c, ∀ o ∈ (s.core l.val c).tileQ, o.kind = .tmma → o.gen ≠ (arr s l).gen) →
     leadsTo (.shapeChangeApply l) s (fun u => (arr u l).shallow = sh ∧ (arr u l).latch = [] ∧ (arr u l).shapeQ = r ∧
       (arr u l).gen = (arr s l).gen + 1 ∧
       (ctlGet u (rArrShape l.val)).getLsbD 1 = (decide (r ≠ []) && (ctlGet s (rArrShape l.val)).getLsbD 1) ∧
       u.threads = s.threads ∧ u.cores = s.cores ∧ sameMemory s u)))

/-! ## Finishing (07) -/

namespace Sys2Proof.Claims

open Sys2Proof.Machine

/-- The value of a piece of a function table at x (R282): its segment's quadratic, each step rounded once. -/
def quadratic (T : FTable) (x : F32) : F32 :=
  let u := fmul32 (fadd32 x (fneg32 T.lo)) T.scale
  let i := segOf u
  let t := fadd32 u (fneg32 (toF32 .rne (ofInt false i 0)))
  let c := T.coef.getD i (0, 0, 0)
  fma32 (fma32 c.2.2 t c.2.1) t c.1

def infinite : FVal → Bool
  | .inf _ => true
  | _ => false

end Sys2Proof.Claims

/-- FTAB: at U a slot of 12 or more raises XC_PRIV, and an image address that is not a multiple of 64 XC_ALIGN; else the thread waits
once its checks have passed, and FTAB_LOAD, once earlier operations that name the slot are complete, loads both tables of the image,
or leaves the slot empty with slot_err set when a table is not valid (R281, R283, R285). FAPPLY and FDERIV, over a long-vector
register or a tile, enter the finishing queue; a shape that does not fit raises XC_TILE_SHAPE (R287, R288, Table 7-6). At their
completion each active lane of d, or each element of tile d in its format, has f of the slot at s1, or the gradient s2 times f', or f'
alone, with NaN canonical, the tails linear, and an empty slot the identity with derivative 1.0 (R282, R284, R287, R288). TAMAX, once
the thread's queued operations are complete, waits with the largest magnitude of its active elements that are no NaN, 0 with none; a merge
changes no memory but the entry of its tensor (R289). -/
def Obligations.FunctionUnit : Prop :=
  ((∀ t f s, CanIssue s t → guarded s t f → fieldsOk .z .g .z f = true → f.imm.toNat < 16 →
     let a := (found s t).rg f.s1.toNat
     (12 ≤ f.imm.toNat → (s.thr t).level = .u → CanTrap s t →
       leadsTo (.ftab t f) s (fun u => Entered s u t xPriv 0 (insWord 0x198 f))) ∧
     ((f.imm.toNat < 12 ∨ (s.thr t).level ≠ .u) →
       (a.toNat % 64 ≠ 0 → CanTrap s t → leadsTo (.ftab t f) s (fun u => Entered s u t xAlign a (insWord 0x198 f))) ∧
       (a.toNat % 64 = 0 → checkRun (begun s t) t .r a 6272 = .ok → (s.thr t).sbuf = [] →
         exec (.ftab t f) s = .next (leaveBound (begun s t) t (.ftab f.imm.toNat a))))) ∧
   (∀ t s k a b, (s.thr t).st = .waiting (.ftab k a) → k < 16 → slotFree s t k = true → clockRuns s t = true →
     isSelf s (chainOf a) = true → localOf a + 6272 ≤ 2 ^ 48 → poisonAt s (canon s t a) 6272 = none →
     Quiet s t (canon s t a) 6272 → b = (List.range 6272).map (fun i => byteAt s (canon s t a + i)) →
     leadsTo (.ftabLoad t) s (fun u => GoesOn s u t ∧ sameMemory s u ∧
       (∀ j, j ≠ k → mget? (u.lathe t.lathe.val).slots j = mget? (s.lathe t.lathe.val).slots j) ∧
       ((tableOf b).valid = true → (tableOf (b.drop 0xC40)).valid = true →
         mget? (u.lathe t.lathe.val).slots k = some ⟨BitVec.ofNat 32 (leNat (b.take 4)), tableOf b, tableOf (b.drop 0xC40)⟩ ∧
         u.ctl = s.ctl) ∧
       ((tableOf b).valid = false ∨ (tableOf (b.drop 0xC40)).valid = false → mget? (u.lathe t.lathe.val).slots k = none ∧
         (ctlGet u (rFnstat t.lathe.val)).getLsbD 1 = true ∧ wbits (ctlGet u (rFnstat t.lathe.val)) 8 4 = k)))) ∧
  ((∀ p ∈ ([(.fapply, 0x199, .fapply, fun f => kindReg (f.imm.getLsbD 4) f.d && kindReg (f.imm.getLsbD 4) f.s1 && f.s2 == 0 &&
         immBelow f 10 && kindOk f),
       (.fderiv, 0x19A, .fderiv, fun f => kindReg (f.imm.getLsbD 4) f.d && kindReg (f.imm.getLsbD 4) f.s1 &&
         (if f.imm.getLsbD 10 then f.s2 == 0 else kindReg (f.imm.getLsbD 4) f.s2) && immBelow f 11 && kindOk f)] :
         List (Form × Nat × FinKind × (Fld → Bool))),
     ∀ t f s, CanIssue s t → guarded s t f → owns s t → p.2.2.2 f = true →
       let tile := f.imm.getLsbD 4
       let bare := p.2.2.1 == .fapply || f.imm.getLsbD 10
       let checks := if tile then fnChecks (s.ctx t) f.d.toNat f.s1.toNat f.s2.toNat (!bare) else []
       (∀ q, firstBad checks = some q → CanTrap s t → leadsTo (p.1 t f) s (fun u => Entered s u t xShape 0 (insWord p.2.1 f) ∧
         (u.thr t).tfault = q.word ∧ (u.ctx t).finQ = (s.ctx t).finQ)) ∧
       (firstBad checks = none → leadsTo (p.1 t f) s (fun u => OnlyQueued s u t ∧
         ∃ o, (u.ctx t).finQ = (s.ctx t).finQ ++ [o] ∧ o.kind = p.2.2.1 ∧
           o.thread = t.thread.val ∧ o.d = f.d.toNat ∧ o.s1 = f.s1.toNat ∧ o.s2 = f.s2.toNat ∧ o.slot = (f.imm &&& 15#32).toNat ∧
           o.tile = tile ∧ o.bare = bare ∧ o.me = f.imm.getLsbD 7 ∧ o.mreg = (f.imm >>> 8 &&& 3#32).toNat))) ∧
   (∀ t s o r, FinHead s t o r → o.drain = none → (o.kind = .fapply ∨ o.kind = .fderiv) →
     let val (x g : F32) : F32 := if o.kind = .fapply then slotF s t.lathe.val o.slot x
       else if o.bare then slotD s t.lathe.val o.slot x else fmul32 g (slotD s t.lathe.val o.slot x)
     (o.tile = false → leadsTo (.longVectorOpComplete (cidOf t)) s (fun u => (u.ctx t).finQ = r ∧
       (∀ i, i < 512 → lvLane (u.ctx t) o.d i = if lvOn (s.ctx t) o.me o.mreg i then
         val (lvLane (s.ctx t) o.s1 i) (lvLane (s.ctx t) o.s2 i) else lvLane (s.ctx t) o.d i) ∧
       (∀ n i, n ≠ o.d → lvLane (u.ctx t) n i = lvLane (s.ctx t) n i) ∧ (u.ctx t).lm = (s.ctx t).lm ∧
       (u.ctx t).tiles = (s.ctx t).tiles ∧ sameMemory s u)) ∧
     (o.tile = true → leadsTo (.longVectorOpComplete (cidOf t)) s (fun u => (u.ctx t).finQ = r ∧
       (let x := (s.ctx t).tile o.s1
         let g := (s.ctx t).tile o.s2
         (u.ctx t).tile o.d = (((s.ctx t).tile o.d).fill o.rm.toNat
           ((List.range (x.rows * x.cols)).map (fun i => val (x.elem i) (g.elem i)))).1) ∧
       (∀ k, k ≠ o.d → (u.ctx t).tile k = (s.ctx t).tile k) ∧ (u.ctx t).lv = (s.ctx t).lv ∧ sameMemory s u))) ∧
   (∀ (T : FTable) (x : F32), T.valid = true →
     let v := fp32.decode x.toNat
     let tail (a b : F32) : F32 := if infinite v && (fp32.decode b.toNat).isZero then a else fma32 b x a
     (v.isNan = true → T.eval x = 0x7FC00000#32) ∧
     (v.isNan = false → v.lt (fp32.decode T.lo.toNat) = true → T.eval x = tail T.la T.lb) ∧
     (v.isNan = false → v.lt (fp32.decode T.lo.toNat) = false → v.lt (fp32.decode T.hi.toNat) = false →
       T.eval x = tail T.ra T.rb) ∧
     (v.isNan = false → v.lt (fp32.decode T.lo.toNat) = false → v.lt (fp32.decode T.hi.toNat) = true →
       T.eval x = quadratic T x)) ∧
   (∀ s l k x, mget? (s.lathe l).slots k = none → slotF s l k x = x ∧ slotD s l k x = 0x3F800000#32)) ∧
  (∀ t f s, CanIssue s t → guarded s t f → owns s t → amaxLegal f = true →
     let tile := f.imm.getLsbD 0
     let merge := f.imm.getLsbD 1
     let src := (s.ctx t).tile f.s1.toNat
     let n := if tile then src.rows * src.cols else 512
     let x (i : Nat) : F32 := if tile then src.elem i else lvLane (s.ctx t) f.s1.toNat i
     let on (i : Nat) : Prop := i < n ∧ (tile = true ∨ lvOn (s.ctx t) (f.imm.getLsbD 2) (f.imm >>> 3 &&& 3#32).toNat i = true) ∧
       (fp32.decode (x i).toNat).isNan = false
     let T : BitVec 16 := ((found s t).rg f.s2.toNat).setWidth 16
     (tile = true → src.conf = false → CanTrap s t → leadsTo (.tamax t f) s (fun u => Entered s u t xShape 0 (insWord 0x191 f))) ∧
     ((tile = true → src.conf = true) →
       (hasQueued s t = true → exec (.tamax t f) s = .next (leaveBound (begun s t) t .queues)) ∧
       (hasQueued s t = false → (merge = true → mayMerge s (s.lathe t.lathe.val).world T = true) →
         leadsTo (.tamax t f) s (fun u => ∃ a : F32, (u.thr t).result = some (f.d.toNat, a.setWidth 64) ∧
           (u.thr t).st = .waiting .longLatency ∧ (u.thr t).pc = pcNext s t ∧ (u.ctx t).lv = (s.ctx t).lv ∧
           (u.ctx t).tiles = (s.ctx t).tiles ∧ a.getLsbD 31 = false ∧ (∀ i, on i → (x i &&& 0x7FFFFFFF#32).toNat ≤ a.toNat) ∧
           (a = 0 ∨ ∃ i, on i ∧ x i &&& 0x7FFFFFFF#32 = a) ∧ (merge = false → sameMemory s u) ∧
           (merge = true → sameOutside s u (scaleAt s T) 128)))))

/-- TDRAIN enters the finishing queue with the record and the descriptors it read, once its checks have passed; a shape that does not
fit raises XC_TILE_SHAPE (R271, R278, Table 7-3). When it completes with its output to a tile, each element of the accumulator is
scaled by alpha, by cscale[n] where given, and bias[n] added, each step rounded once, put through the slot's function if asked, and
converted into the output tile, transposed if asked; z empties the accumulator (R272 to R274, R276). TDRAIN_END then merges what was
gathered, changes no other memory, and lets the next operation go (R275). -/
def Obligations.Drain : Prop :=
  (∀ t f s b ob sb, CanIssue s t → guarded s t f → owns s t → f.d.toNat < 2 → f.s1.toNat < 32 → f.s2.toNat < 32 → f.imm.toNat < 8 →
    (s.thr t).sbuf = [] → Readable s t ((found s t).rg f.s1.toNat) 64 b →
    let a := (found s t).rg f.s1.toNat
    let r := drainRecOf b
    let r0 := ((found s t).rg f.s2.toNat &&& 0xFFFFFFFF#64).toNat
    let c0 := ((found s t).rg f.s2.toNat >>> 32).toNat
    let saved := r.saveEn && r.saveTile.isNone
    let out : Option TDesc := if r.outTile.isNone then some (tdescOf r.out ob) else none
    let save : Option TDesc := if saved then some (tdescOf r.save sb) else none
    let acc := (s.ctx t).tile (8 + f.d.toNat)
    let checks := drainChecks (s.ctx t) f.d.toNat r c0 out save
    let ps := drainSpans acc r r0 c0 out save
    (r.outTile.isNone = true → Readable s t r.out 64 ob) → (saved = true → Readable s t r.save 64 sb) →
    (∀ d, (out = some d ∨ save = some d) → d.bad = false) →
    (∀ q, firstBad checks = some q → CanTrap s t → leadsTo (.tdrain t f) s (fun u => Entered s u t xShape 0 (insWord 0x190 f) ∧
      (u.thr t).tfault = q.word ∧ (u.ctx t).finQ = (s.ctx t).finQ)) ∧
    (firstBad checks = none → checkSpans (begun s t) t ps = .ok → spansBusy (begun s t) t (ps.map Span.run) = false →
      (∀ m, (mergeOf out r.outMerge r.ttensor a = some m ∨ (r.saveEn = true ∧ mergeOf save r.saveMerge r.stensor a = some m)) →
        mayMerge s (s.lathe t.lathe.val).world m.1 = true) →
      leadsTo (.tdrain t f) s (fun u => OnlyQueued s u t ∧ ∃ o, (u.ctx t).finQ = (s.ctx t).finQ ++ [o] ∧ o.kind = .tdrain ∧
        o.thread = t.thread.val ∧ o.d = f.d.toNat ∧ o.slot = r.slot ∧ o.r0 = r0 ∧ o.c0 = c0 ∧ ∃ d, o.drain = some d ∧ d.out = out ∧
        d.save = save ∧ d.outTile = r.outTile ∧ d.saveTile = r.saveTile ∧ d.outTr = r.outT ∧ d.saveTr = r.saveT ∧
        d.alpha = r.alpha ∧ d.bias = r.bias ∧ d.cscale = r.cscale ∧ d.fnEn = r.fnEn ∧ d.saveEn = r.saveEn ∧
        d.z = f.imm.getLsbD 2))) ∧
  (∀ t s o q d k, FinHead s t o q → o.kind = .tdrain → o.drain = some d → d.outTile = some k → d.saveEn = false →
    d.out = none → d.save = none → k < 8 →
    let acc := (s.ctx t).tile (8 + o.d)
    let vec (a : Word) : Prop := a ≠ 0 → isSelf s (chainOf a) = true ∧ localOf a + 4 * acc.cols ≤ 2 ^ 48 ∧
      poisonAt s (canon s t a) (4 * acc.cols) = none ∧ Quiet s t (canon s t a) (4 * acc.cols)
    let at_ (a : Word) (n : Nat) : F32 := BitVec.ofNat 32 (leNat ((List.range 4).map (fun j => byteAt s (canon s t a + 4 * n + j))))
    let z (i j : Nat) : F32 :=
      let x := fmul32 (acc.elem (i * acc.cols + j)) d.alpha
      let y := if d.cscale = 0 then x else fmul32 x (at_ d.cscale j)
      if d.bias = 0 then y else fadd32 y (at_ d.bias j)
    let y (i j : Nat) : F32 := if d.fnEn then slotF s t.lathe.val o.slot (z i j) else z i j
    vec d.cscale → vec d.bias →
    leadsTo (.longVectorOpComplete (cidOf t)) s (fun u => (u.ctx t).finQ = q ∧ (u.ctx t).drainEnd.isSome = true ∧
      (u.ctx t).tile k = (((s.ctx t).tile k).fill o.rm.toNat ((List.range (acc.rows * acc.cols)).map (fun i =>
        if d.outTr then y (i % acc.rows) (i / acc.rows) else y (i / acc.cols) (i % acc.cols)))).1 ∧
      (d.z = true → ((u.ctx t).tile (8 + o.d)).loaded = true ∧ ((u.ctx t).tile (8 + o.d)).data = []) ∧
      (∀ n, n ≠ k → n ≠ 8 + o.d → (u.ctx t).tile n = (s.ctx t).tile n) ∧ sameMemory s u)) ∧
  (∀ t s e, (s.ctx t).drainEnd = some e →
    leadsTo (.tdrainEnd (cidOf t)) s (fun u => (u.ctx t).drainEnd = none ∧ (u.ctx t).tiles = (s.ctx t).tiles ∧
      (∀ c, (∀ m, (e.out = some m ∨ e.save = some m) → c < scaleAt s m.1 ∨ scaleAt s m.1 + 128 ≤ c) → byteAt u c = byteAt s c) ∧
      (e.out = none → e.save = none → u.ctl = s.ctl)))

/-! ## Tasks and tokens (09) -/

namespace Sys2Proof.Claims

open Sys2Proof.Machine

/-- Every byte outside the 128 bytes of the descriptor at `d` is as before. -/
def onlyDesc (s u : State) (d : Nat) : Prop := ∀ c, c < d ∨ d + 128 ≤ c → byteAt u c = byteAt s c

/-- The task queued in `u` and not in `s`: at the tail of its FIFO on a lathe it may run on, or in the overflow list. -/
def queuedTask (s u : State) (q : Queued) : Prop :=
  (∃ l, l < 68 ∧ eligible s (if q.snap.flags.getLsbD 0 then .s else .ns) q.snap.affinity l = true ∧
    mget (u.lathe l).queue ((q.snap.flags.toNat / 16) % 4) [] = mget (s.lathe l).queue ((q.snap.flags.toNat / 16) % 4) [] ++ [q]) ∨
  u.overflow = s.overflow ++ [q]

/-- The world of a task's descriptor by its flags. -/
def flagWorld (s : State) (d : Nat) : World := if dGet s d dFlags 1 % 2 = 1 then .s else .ns

/-- The descriptor at `d` of `s` has fired in `u`: it is QUEUED, and its snapshot is in a queue (R337 to R340). -/
def fired (s u : State) (d : Nat) : Prop :=
  dGet u d dState 1 = 2 ∧ onlyDesc s u d ∧ ∃ q, queuedTask s u q ∧ q.replay = false ∧ q.snap.desc = BitVec.ofNat 64 d ∧
    q.snap.entry = BitVec.ofNat 64 (dGet s d dEntry 8) ∧ q.snap.arg0 = BitVec.ofNat 64 (dGet s d dArg0 8) ∧
    q.snap.arg1 = BitVec.ofNat 64 (dGet s d dArg1 8) ∧ q.snap.affinity = BitVec.ofNat 128 (dGet s d dAffinity 16) ∧
    q.snap.step = BitVec.ofNat 32 (dGet s d dStep 4) ∧ q.snap.firedAt = s.plat.devTime

end Sys2Proof.Claims

/-- A signal token counts a WAITING descriptor down and fires it at 0, and is counted early by one QUEUED or RUNNING; an arm
token sets a descriptor that is not in use WAITING with its need; a firing that fails its checks is FAULTED with status 2; a
token that fails its own checks has no effect on memory (R332, R334, R337, R338). TOKEN stages a token of its thread once its queued
operations, then its stores, are complete, and waits until then; a full list drops it (R333, R226). A write of DEV_TASKDB is a token of
the writer's world, bit 0 saying arm; a refused one sets tok_dropped, but for an S agent's at an S descriptor (R335, R336). An
overflowed task enters the first eligible queue with room (R340). -/
def Obligations.Tokens : Prop :=
  (∀ (w : World) (a : Word) s, s.fer.handoffs = [] →
     let d := localOf a
     let st := dGet s d dState 1
     let need := dGet s d dNeed 2
     let runnable := ∃ l, l < 68 ∧ eligible s (flagWorld s d) (BitVec.ofNat 128 (dGet s d dAffinity 16)) l = true
     (∀ c v, tokenCheck s ⟨w, none⟩ a = .trap c v → leadsTo (.signalToken w a) s (fun u => sameMemory s u ∧ u.lathes = s.lathes) ∧
       leadsTo (.armToken w a) s (fun u => sameMemory s u ∧ u.lathes = s.lathes)) ∧
     (tokenCheck s ⟨w, none⟩ a = .ok →
       (st = 1 → dGet s d dCount 2 ≠ 1 → leadsTo (.signalToken w a) s (fun u => dGet u d dState 1 = 1 ∧
         dGet u d dCount 2 = (dGet s d dCount 2 + 65535) % 65536 ∧ onlyDesc s u d ∧ u.lathes = s.lathes)) ∧
       (st = 1 → dGet s d dCount 2 = 1 → fireChecks s d = true → runnable →
         leadsTo (.signalToken w a) s (fun u => fired s u d)) ∧
       (st = 1 → dGet s d dCount 2 = 1 → fireChecks s d = false →
         leadsTo (.signalToken w a) s (fun u => dGet u d dState 1 = 5 ∧ dGet u d dStatus 1 = 2 ∧ onlyDesc s u d ∧
           u.overflow = s.overflow)) ∧
       ((st = 2 ∨ st = 3) → dGet s d dEarly 2 < 65535 → leadsTo (.signalToken w a) s (fun u => dGet u d dState 1 = st ∧
         dGet u d dEarly 2 = dGet s d dEarly 2 + 1 ∧ dGet u d dCount 2 = dGet s d dCount 2 ∧ onlyDesc s u d ∧ u.lathes = s.lathes)) ∧
       ((st = 0 ∨ 4 ≤ st) → leadsTo (.signalToken w a) s (fun u => sameMemory s u ∧ u.lathes = s.lathes ∧
         (descWorld s d = .ns → (ctlGet u rTaskstat).getLsbD 2 = true))) ∧
       ((st = 0 ∨ 4 ≤ st) → need ≠ 0 → leadsTo (.armToken w a) s (fun u => dGet u d dState 1 = 1 ∧ dGet u d dCount 2 = need ∧
         dGet u d dEarly 2 = 0 ∧ dGet u d dStatus 1 = 0 ∧
         dGet u d dCompletions 4 = (if st = 4 ∨ st = 5 then dGet s d dCompletions 4 else 0) ∧ onlyDesc s u d ∧
         u.lathes = s.lathes)) ∧
       ((st = 0 ∨ 4 ≤ st) → need = 0 → fireChecks s d = true → runnable → leadsTo (.armToken w a) s (fun u => fired s u d)) ∧
       ((1 ≤ st ∧ st ≤ 3) → leadsTo (.armToken w a) s (fun u => sameMemory s u ∧ u.lathes = s.lathes ∧
         (descWorld s d = .ns → (ctlGet u rTaskstat).getLsbD 3 = true))))) ∧
  ((∀ t f s r, CanIssue s t → guarded s t f → fieldsOk .z .g .z f = true → f.imm.toNat < 2 →
     let a := (found s t).rg f.s1.toNat
     a.toNat % 128 = 0 → windowOk (s.thr t) .rw (a + 0x2C) 4 = true → tokenCheck (begun s t) (reqOf s t) a = .ok →
     (s.thr t).task = some r →
     (hasQueued s t = true → exec (.tokenOp t f) s = .next (leaveBound (begun s t) t .queues)) ∧
     (hasQueued s t = false → storesDone (found s t) = false → exec (.tokenOp t f) s = .next (leaveBound (begun s t) t .stores)) ∧
     (hasQueued s t = false → storesDone (found s t) = true → leadsTo (.tokenOp t f) s (fun u => sameMemory s u ∧
       (r.staged.length < 64 → u.ctl = s.ctl ∧ u.thr t =
         issuedAt { found s t with task := some { r with staged := r.staged ++ [(a, f.imm.getLsbD 0)] } } (pcNext s t)) ∧
       (64 ≤ r.staged.length → u.thr t = issuedAt (found s t) (pcNext s t) ∧
         (snapWorld r.snap = .ns → (ctlGet u rTaskstat).getLsbD 4 = true))))) ∧
   (∀ a v s, reachesReg s a rTaskdb 8 →
     let w := agentWorld s a
     let d : Word := v &&& ~~~1#64
     ((∀ c x, tokenCheck s ⟨w, none⟩ d ≠ .trap c x) →
       exec (.devTaskdbWrite a v) s = exec (if v.getLsbD 0 then .armToken w d else .signalToken w d) s) ∧
     (∀ c x, s.fer.handoffs = [] → tokenCheck s ⟨w, none⟩ d = .trap c x → leadsTo (.devTaskdbWrite a v) s (fun u =>
       sameMemory s u ∧ u.lathes = s.lathes ∧ (namesSecure s w v = false → (ctlGet u rTaskstat).getLsbD 2 = true) ∧
       (namesSecure s w v = true → u.ctl = s.ctl)))) ∧
   (∀ s q r l, s.overflow = q :: r → q.replay = false → chooseLathe s q.snap = some l →
     leadsTo .overflowPlacement s (fun u => u.overflow = r ∧
       mget (u.lathe l).queue ((q.snap.flags.toNat / 16) % 4) [] =
         mget (s.lathe l).queue ((q.snap.flags.toNat / 16) % 4) [] ++ [q] ∧ sameMemory s u ∧ u.threads = s.threads)))

/-- TASK_START gives an IDLE thread the head of its lathe's queue: PC, g1 to g5, every other register 0, level U, interrupts
enabled, its windows; the descriptor is RUNNING (R341). DONE waits for the thread's queued operations, then for its stores; then the
thread waits for TASK_COMPLETION (R342, R226), which frees the thread and its mailbox locks, and its tile context. A normal run that
sends no tokens leaves the descriptor DONE with its elapsed time and one completion more, or WAITING again when it rearms and fewer
early tokens came than it needs; a run whose status is set leaves it FAULTED and sends nothing (R342 to R344, 05 R192). -/
def Obligations.Tasks : Prop :=
  (∀ t s p q r, queueHead (s.lathe t.lathe.val) = some (p, q, r) → canStart s t.lathe.val = true →
     firstIdle s t.lathe.val t.core.val t.thread.val q = true →
     let n := q.snap
     let d := localOf n.desc
     leadsTo (.taskStart t) s (fun u => ((u.thr t).st = .ready ∨ (u.thr t).st = .running) ∧ (u.thr t).pc = n.entry ∧
       (u.thr t).rg 1 = n.arg0 ∧ (u.thr t).rg 2 = n.arg1 ∧
       (∀ v, n.seq = some v → (u.thr t).rg 3 = v.1 ∧ (u.thr t).rg 4 = v.2.1 ∧ (u.thr t).rg 5 = v.2.2) ∧
       (n.seq = none → ∀ k, 3 ≤ k → k ≤ 5 → (u.thr t).rg k = 0) ∧ (∀ k, 6 ≤ k → (u.thr t).rg k = 0) ∧
       (∀ k, k ≠ 0 → (u.thr t).rp k = 0) ∧ (∀ k, (u.thr t).rv k = 0) ∧ (u.thr t).level = .u ∧ (u.thr t).ie = true ∧
       (∀ k (w : Word × Word × BitVec 4), n.win[k]? = some w → mget? (u.thr t).win k =
         some { base := (w.1 >>> 6).setWidth 58, limit := (w.2.1 >>> 6).setWidth 58, attr := w.2.2 }) ∧
       (u.thr t).coreTask = n.desc ∧ (u.thr t).loads = [] ∧ (u.thr t).sbuf = [] ∧
       (∃ x, (u.thr t).task = some x ∧ x.snap = n ∧ x.staged = []) ∧
       mget (u.lathe t.lathe.val).queue p [] = r ∧ dGet u d dState 1 = 3 ∧
       (∀ c, c ≠ d + dState → byteAt u c = byteAt s c))) ∧
  (∀ t f s, CanIssue s t → guarded s t f → fieldsOk .z .z .z f = true → f.imm = 0 →
     (hasQueued s t = true → exec (.doneTask t f) s = .next (leaveBound (begun s t) t .queues)) ∧
     (hasQueued s t = false → storesDone (found s t) = false → exec (.doneTask t f) s = .next (leaveBound (begun s t) t .stores)) ∧
     (hasQueued s t = false → storesDone (found s t) = true → leadsTo (.doneTask t f) s (fun u =>
       u.thr t = { issuedAt (found s t) (pcNext s t) with st := .waiting .completing } ∧ sameMemory s u ∧ u.ctl = s.ctl))) ∧
  (∀ t s r, (s.thr t).st = .waiting .completing → (s.thr t).task = some r → hasQueued s t = false → storesDone (s.thr t) = true →
     s.fer.handoffs = [] →
     let d := localOf r.snap.desc
     let need := dGet s d dNeed 2
     let early := dGet s d dEarly 2
     let freed (u : State) : Prop := (u.thr t).st = .idle ∧ (u.thr t).task = none ∧ (u.ctx t).owner ≠ some t.thread.val ∧
       (∀ m, (u.box m).owner ≠ threadId t)
     leadsTo (.taskCompletion t) s freed ∧
     (dGet s d dStatus 1 ≠ 1 → dGet s d dOuts 8 = 0 → r.staged = [] →
       (dGet s d dFlags 1 / 4 % 2 = 0 → leadsTo (.taskCompletion t) s (fun u => freed u ∧
         dGet u d dState 1 = 4 ∧ dGet u d dElapsed 8 = (s.plat.devTime - r.snap.firedAt).toNat ∧
         dGet u d dCompletions 4 = (dGet s d dCompletions 4 + 1) % 2 ^ 32 ∧ dGet u d dEarly 2 = 0 ∧ onlyDesc s u d)) ∧
       (dGet s d dFlags 1 / 4 % 2 = 1 → early < need → leadsTo (.taskCompletion t) s (fun u => freed u ∧
         dGet u d dState 1 = 1 ∧ dGet u d dCount 2 = need - early ∧ dGet u d dEarly 2 = 0 ∧
         dGet u d dCompletions 4 = (dGet s d dCompletions 4 + 1) % 2 ^ 32 ∧
         dGet u d dStep 4 = (if dGet s d dFlags 1 / 8 % 2 = 1 then (dGet s d dStep 4 + 1) % 2 ^ 32 else dGet s d dStep 4) ∧
         onlyDesc s u d))) ∧
     (dGet s d dStatus 1 = 1 → leadsTo (.taskCompletion t) s (fun u => freed u ∧ dGet u d dState 1 = 5 ∧
       dGet u d dCompletions 4 = dGet s d dCompletions 4 ∧ onlyDesc s u d)))

/-! ## Mailboxes (09) -/

namespace Sys2Proof.Claims

open Sys2Proof.Machine

/-- A message of an agent: the header, with the sender and the count, then its payload (R352). -/
def message (id : BitVec 16) (payload : List (BitVec 32)) : List (BitVec 32) :=
  (id.setWidth 32 <<< 16 ||| BitVec.ofNat 32 payload.length) :: payload

/-- The other end of the mailbox, and every other mailbox, are as before. -/
def onlyEnd (s u : State) (m e : Nat) : Prop :=
  (u.box m).at (1 - e) = (s.box m).at (1 - e) ∧ (u.box m).world = (s.box m).world ∧ ∀ k, k ≠ m → u.box k = s.box k

/-- The mailbox instruction of thread `t` reaches mailbox `m`. -/
structure AtMailbox (s : State) (t : Tid) (m : Nat) : Prop where
  world : (s.box m).world = (s.lathe t.lathe.val).world
  fresh : staleLathe s (some t.lathe.val) = false
  on_ : boxOff s m = false

/-- The lock of mailbox `m` is nobody's or the thread's own. -/
def unlocked (s : State) (t : Tid) (m : Nat) : Prop := (s.box m).owner = 0 ∨ (s.box m).owner = threadId t

end Sys2Proof.Claims

/-- MBXSEND, once the thread's stores are complete, enqueues one whole message toward its end; toward an end in reset it sends nothing
and sets aborted. MBXRECV takes the oldest message into g[d] and on. Each waits while it lacks room or a message, or while another
agent holds the lock, and MAILBOX_WAIT_RELEASE lets it issue again (R352 to R354, R358, R360). A mailbox that is not operational raises
XC_MBX_ERR with its number (R359). -/
def Obligations.MailboxInstructions : Prop :=
  (∀ t f s, CanIssue s t → guarded s t f →
    let m := (f.imm &&& 63#32).toNat
    let e := if f.imm.getLsbD 6 then 1 else 0
    (fieldsOk .z .g .z f = true → f.imm.toNat < 2 ^ 12 → f.imm.getLsbD 7 = false →
      let n := (f.imm >>> 8).toNat
      f.s1.toNat + (n + 1) / 2 ≤ 32 →
      ((s.box m).world = (s.lathe t.lathe.val).world → staleLathe s (some t.lathe.val) = false → boxOff s m = true → CanTrap s t →
        leadsTo (.mbxsend t f) s (fun u => Entered s u t xMbxErr (BitVec.ofNat 64 m) (insWord 0x0E7 f))) ∧
      (AtMailbox s t m →
        (storesDone (found s t) = false → exec (.mbxsend t f) s = .next (leaveBound (begun s t) t .stores)) ∧
        (storesDone (found s t) = true → endState s m e = 1 → leadsTo (.mbxsend t f) s (fun u =>
          (u.box m).at e = { (s.box m).at e with aborted := true } ∧ onlyEnd s u m e ∧
          u.thr t = issuedAt (found s t) (pcNext s t) ∧ sameMemory s u)) ∧
        (storesDone (found s t) = true → endState s m e ≠ 1 → unlocked s t m → ((s.box m).at e).words + 1 + n ≤ 16 →
          leadsTo (.mbxsend t f) s (fun u =>
            ((u.box m).at e).msgs = ((s.box m).at e).msgs ++ [message (threadId t) ((List.range n).map (fun k =>
              if k % 2 = 0 then ((found s t).rg (f.s1.toNat + k / 2)).setWidth 32
              else ((found s t).rg (f.s1.toNat + k / 2) >>> 32).setWidth 32))] ∧
            u.thr t = issuedAt (found s t) (pcNext s t) ∧ onlyEnd s u m e ∧ sameMemory s u)) ∧
        (storesDone (found s t) = true → endState s m e ≠ 1 → (¬unlocked s t m ∨ 16 < ((s.box m).at e).words + 1 + n) →
          exec (.mbxsend t f) s = .next (leaveBound (begun s t) t (.mbx m e true n))))) ∧
    (fieldsOk .g .z .z f = true → f.imm.toNat < 2 ^ 7 → 1 ≤ f.d.toNat → f.d.toNat ≤ 23 →
      ((s.box m).world = (s.lathe t.lathe.val).world → staleLathe s (some t.lathe.val) = false → boxOff s m = true → CanTrap s t →
        leadsTo (.mbxrecv t f) s (fun u => Entered s u t xMbxErr (BitVec.ofNat 64 m) (insWord 0x0E8 f))) ∧
      (AtMailbox s t m →
        (∀ q r, unlocked s t m → ((s.box m).at e).msgs = q :: r → leadsTo (.mbxrecv t f) s (fun u => ((u.box m).at e).msgs = r ∧
          (u.thr t).rg f.d.toNat = (q.getD 0 0).setWidth 64 ∧
          (∀ k, k < 8 → (u.thr t).rg (f.d.toNat + 1 + k) = q.getD (2 * k + 2) 0 ++ q.getD (2 * k + 1) 0) ∧
          (∀ k, k < f.d.toNat ∨ f.d.toNat + 8 < k → (u.thr t).rg k = (found s t).rg k) ∧ (u.thr t).pc = pcNext s t ∧
          onlyEnd s u m e ∧ sameMemory s u ∧ u.ctl = s.ctl)) ∧
        ((¬unlocked s t m ∨ ((s.box m).at e).msgs = []) →
          exec (.mbxrecv t f) s = .next (leaveBound (begun s t) t (.mbx m e false 0)))))) ∧
  (∀ t s m e send n, (s.thr t).st = .waiting (.mbx m e send n) →
    (boxOff s m = true ∨ (unlocked s t m ∧
      ((send = true ∧ (((s.box m).at e).words + 1 + n ≤ 16 ∨ endState s m e = 1)) ∨ (send = false ∧ ((s.box m).at e).msgs ≠ [])))) →
    leadsTo (.mailboxWaitRelease t) s (fun u => ((u.thr t).st = .ready ∨ (u.thr t).st = .running) ∧
      (u.thr t).pc = (s.thr t).pc ∧ (u.thr t).g = (s.thr t).g ∧ u.mbx = s.mbx ∧ sameMemory s u))

/-- Mailbox registers: a read of a free lock takes it; the owner's writes stage words, its commit enqueues them as one message and
its reads take words in order, the words of a message before the next message; a word or a message that does not fit sets full, a
commit toward an end in reset sets aborted, a read with nothing to take sets underrun; an access by another agent only sets lock_viol;
writing the owner's ID frees the lock and discards what of a message is not read (R355, R356, R358). -/
def Obligations.MailboxRegisters : Prop :=
  ∀ (a : Agent) (m : Fin 64) (e : Fin 2) s,
    let x := s.box m.val
    let y := x.at e.val
    let id := agentId a
    (reachesReg s a (rMbx m.val + 0x10) 8 →
      leadsTo (.mbxLockRead a m) s (fun u => u.out = s.out ++ [.readData a (x.owner.setWidth 64)] ∧
        (u.box m.val).owner = (if x.owner = 0 then id else x.owner) ∧ (u.box m.val).at e.val = y ∧ sameMemory s u) ∧
      (∀ v, leadsTo (.mbxLockWrite a m v) s (fun u => (u.box m.val).owner = (if v.setWidth 16 = x.owner then 0 else x.owner) ∧
        ((u.box m.val).at e.val).msgs = y.msgs ∧
        (x.owner ≠ 0 → v.setWidth 16 = x.owner → ((u.box m.val).at e.val).part = []) ∧
        (v.setWidth 16 ≠ x.owner → u.box m.val = x) ∧ sameMemory s u))) ∧
    (∀ v, reachesReg s a (rMbx m.val + 0x20 + 8 * e.val) 4 →
      (x.owner = id → y.staged.length < 15 → leadsTo (.mbxSendReg a m e v) s (fun u =>
        ((u.box m.val).at e.val).staged = y.staged ++ [v] ∧ ((u.box m.val).at e.val).msgs = y.msgs ∧ onlyEnd s u m.val e.val)) ∧
      (x.owner = id → 15 ≤ y.staged.length → leadsTo (.mbxSendReg a m e v) s (fun u =>
        ((u.box m.val).at e.val) = { y with full := true } ∧ onlyEnd s u m.val e.val)) ∧
      (x.owner ≠ id → leadsTo (.mbxSendReg a m e v) s (fun u => u.box m.val = { x with lockViol := true } ∧ sameMemory s u))) ∧
    (reachesReg s a (rMbx m.val + 0x30 + 8 * e.val) 4 →
      (x.owner = id → endState s m.val e.val ≠ 1 → y.words + 1 + y.staged.length ≤ 16 → leadsTo (.mbxCommit a m e) s (fun u =>
        ((u.box m.val).at e.val).msgs = y.msgs ++ [message id y.staged] ∧ ((u.box m.val).at e.val).staged = [] ∧
        onlyEnd s u m.val e.val ∧ sameMemory s u)) ∧
      (x.owner = id → endState s m.val e.val = 1 → leadsTo (.mbxCommit a m e) s (fun u =>
        ((u.box m.val).at e.val) = { y with aborted := true } ∧ onlyEnd s u m.val e.val ∧ sameMemory s u)) ∧
      (x.owner = id → endState s m.val e.val ≠ 1 → 16 < y.words + 1 + y.staged.length → leadsTo (.mbxCommit a m e) s (fun u =>
        ((u.box m.val).at e.val) = { y with full := true } ∧ onlyEnd s u m.val e.val ∧ sameMemory s u)) ∧
      (x.owner ≠ id → leadsTo (.mbxCommit a m e) s (fun u => u.box m.val = { x with lockViol := true }))) ∧
    (reachesReg s a (rMbx m.val + 0x40 + 8 * e.val) 4 →
      (∀ w r q, x.owner = id → y.part = [] → y.msgs = (w :: r) :: q → leadsTo (.mbxRecvReg a m e) s (fun u =>
        u.out = s.out ++ [.readData a (w.setWidth 64)] ∧ ((u.box m.val).at e.val).part = r ∧
        ((u.box m.val).at e.val).msgs = q ∧ onlyEnd s u m.val e.val)) ∧
      (∀ w r, x.owner = id → y.part = w :: r → leadsTo (.mbxRecvReg a m e) s (fun u =>
        u.out = s.out ++ [.readData a (w.setWidth 64)] ∧ ((u.box m.val).at e.val).part = r ∧
        ((u.box m.val).at e.val).msgs = y.msgs ∧ onlyEnd s u m.val e.val)) ∧
      (x.owner = id → y.part = [] → y.msgs = [] → leadsTo (.mbxRecvReg a m e) s (fun u =>
        u.out = s.out ++ [.readData a 0] ∧ u.box m.val = { x with underrun := true })) ∧
      (x.owner ≠ id → leadsTo (.mbxRecvReg a m e) s (fun u => u.out = s.out ++ [.readData a 0] ∧
        u.box m.val = { x with lockViol := true })))

/-! ## Host link, registers, queues and KCP commands (10, 15) -/

namespace Sys2Proof.Claims

open Sys2Proof.Machine

/-- Nothing of the device but its control registers and outputs has changed. -/
def onlyRegisters (s u : State) : Prop :=
  u.mem = s.mem ∧ u.threads = s.threads ∧ u.cores = s.cores ∧ u.lathes = s.lathes ∧ u.mbx = s.mbx ∧ u.host = s.host ∧
    u.plat = s.plat ∧ u.sec = s.sec

/-- Command `c`, packet `n` of queue `q`, starts with opcode `op` in world `w` (R381, R382); its host complex has its clock. -/
structure Starts (s : State) (op q n : Nat) (c : Cmd) (w : World) : Prop where
  listed : s.cmd? q n = some c
  opcode : c.op = op
  first : startable s c = true
  awake : s.pwr.standby = false
  clock : complexRuns s q = true
  header : headerFail s c = none
  allowed : fencedFail s c = false
  world : ∃ x, s.queue? c.q = some x ∧ x.world = w

/-- Parameters of a packet: `len` bytes at `off`, little-endian. -/
def arg (c : Cmd) (off len : Nat) : Nat := leNat ((c.packet.drop off).take len)

/-- The command has ended: its record, with this status, result and aux, is due. -/
def ended (u : State) (q n : Nat) (c : Cmd) (st : Byte) (result : BitVec 32) (aux : Word) : Prop :=
  u.cmd? q n = some { c with status := st, result := result, aux := aux, wait := .done }

/-- No older request stands in a bank queue before an access of an engine or of the host to `n` bytes at `a` (08 R326). -/
def QuietBus (s : State) (a n : Nat) : Prop :=
  ∀ l ∈ runLines a n, ∀ u q, q ∈ (s.thr u).loads → ahead s none (some (bankOf s l)) s.mem.presented a n u q = false

/-- A range of local memory of this device that a command of world `w` may use now: with no poison in it, no row of it being copied
and no older request before it. -/
structure LocalRange (s : State) (w : World) (a : Word) (n : Nat) : Prop where
  here : isSelf s (chainOf a) = true
  direct : chainOf a ≠ 0xFFFE#16
  inside : localOf a + n ≤ 2 ^ 48
  memory : ∀ g ∈ granules (localOf a) n, (devPlace s g).isSome = true
  world : ∀ g ∈ granules (localOf a) n, addrWorld s none g = w
  clean : poisonAt s (localOf a) n = none
  free : runBusy s (localOf a) n = false
  quiet : QuietBus s (localOf a) n

/-- No byte of memory has changed outside the violation log's next entry (15 R489). -/
def sameButLog (s u : State) : Prop :=
  sameOutside s u ((ctlGet s rVbase).toNat + 32 * s.sec.vlog.length) 32

/-- The host's accesses reach the device: its link is up, it is not in A4, and its complex 0 has its clock. -/
structure HostIn (s : State) : Prop where
  link : s.host.linkUp = true
  awake : s.pwr.standby = false
  clock : clockOn s (.hostComplex 0) = true

/-- A host access lies within BAR4, and none waits before it. -/
structure InBar4 (s : State) (off n : Nat) : Prop where
  host : HostIn s
  bytes : 0 < n
  inside : off + n ≤ 2 ^ s.host.bar4Log2 * gib
  first : s.pwr.posted = []

/-- A range of another device that a command of world `w` may name: Table 8-2 gives it memory there, the RAT NS (R381). -/
structure FarRange (s : State) (w : World) (a : Word) (n : Nat) : Prop where
  there : isSelf s (chainOf a) = false
  direct : chainOf a ≠ 0xFFFE#16
  memory : ∀ g ∈ granules (localOf a) n, tableMemory g = true
  world : w = .ns ∧ ∀ g ∈ granules (localOf a) n, (ratLookup s 1 g).world = .ns

/-- The copy of `len` bytes of host memory to `b`, of which `d` arrived: whole, or in whole lines of the destination (R387). -/
def fromHost (s : State) (i : Instr) (q n : Nat) (c : Cmd) (b : Word) (len : Nat) (d : List Byte) : Prop :=
  (len ≤ d.length → leadsTo i s (fun u => ended u q n c stOk 0 (BitVec.ofNat 64 len) ∧
    (∀ k, k < len → byteAt u (localOf b + k) = d.getD k 0) ∧ sameOutside s u (localOf b) len)) ∧
  (d.length < len → leadsTo i s (fun u => ∃ k, k ≤ d.length ∧ d.length < k + 64 ∧ (k = 0 ∨ (b.toNat + k) % 64 = 0) ∧
    ended u q n c stAborted 0 (BitVec.ofNat 64 k) ∧ (∀ i, i < k → byteAt u (localOf b + i) = d.getD i 0) ∧
    sameOutside s u (localOf b) k))

/-- The outcome of an entry of a list of tokens, as an order to send it. -/
def sendEntry (w : World) (s : State) (e : Word) : State :=
  match exec (if e.getLsbD 0 then .armToken w (e &&& ~~~1#64) else .signalToken w (e &&& ~~~1#64)) s with
  | .next u => u
  | _ => s

/-- Arm entries that found their descriptor in use. -/
def busyArms (w : World) : List Word → State → Nat
  | [], _ => 0
  | e :: r, s =>
    let st := dGet s (localOf (e &&& ~~~1#64)) dState 1
    (if e.getLsbD 0 = true ∧ 1 ≤ st ∧ st ≤ 3 then 1 else 0) + busyArms w r (sendEntry w s e)

/-- An entry whose token its checks let pass. -/
def goodEntry (s : State) (w : World) (e : Word) : Bool :=
  wbits e 1 6 == 0 &&
    match tokenCheck s ⟨w, none⟩ (e &&& ~~~1#64) with
    | .ok => true
    | .wake _ => true
    | _ => false

end Sys2Proof.Claims

/-- HOST_LINK_UP records the rate and the width, two lanes training as one. HOST_LINK_RESET takes the link down, empties the MSI-X
table and sets HIF_APCTL and the BAR4 size to their reset values, clears HIF_Q0_CFG.en, puts queue 0 and the NS queues with a ring in
host memory into destruction and takes the host from their commands, and leaves the other queues (R396). Within BAR4 a read whose
bytes all lie in NS memory answers with them, a write changes them and no other byte; poison is a completer abort; bytes without
memory, then those of world S, get the outcomes of Table 10-4; an access to a row that is being copied waits. Before DEV_READY a
read answers 0 and a write does nothing, but in a recovery boot, which serves the staging memory (R362, R367, 08 R323, 17 R530). A
resize takes 1 GiB to 512 GiB and sets HIF_APCTL to 0. -/
def Obligations.HostLink : Prop :=
  ((∀ rate width s, mayLink s = true → 1 ≤ rate → rate ≤ 7 → width ∈ [1, 2, 4, 8] →
     exec (.hostLinkUp rate width) s = .next { s with host := { s.host with
       linkUp := true, rate := rate, width := if width = 2 then 1 else width } }) ∧
   (∀ s, s.host.linkUp = true →
     let lost (q : Nat) (x : Queue) : Prop := q = 0 ∨ (x.world = .ns ∧ (x.cmdHost = true ∨ x.cplHost = true))
     leadsTo .hostLinkReset s (fun u => u.host.linkUp = false ∧ u.host.rate = 0 ∧ u.host.width = 0 ∧ u.host.msix = [] ∧
       u.host.pba = [] ∧ u.host.aer = 0 ∧ u.host.bar4Log2 = 6 ∧ ctlGet u rApctl = 0 ∧ (ctlGet u rQ0Cfg).getLsbD 16 = false ∧
       (∀ r, r ≠ rApctl → r ≠ rQ0Cfg → ctlGet u r = ctlGet s r) ∧ sameMemory s u ∧
       (∀ q x, (q, x) ∈ s.host.queues → lost q x → u.queue? q = none ∨ ∃ y, u.queue? q = some y ∧ y.st = .destroying) ∧
       (∀ q x, (q, x) ∈ s.host.queues → lost q x → ∀ c ∈ u.host.cmds, c.q = q → c.discard = true ∧ c.linkLost = true) ∧
       (∀ q, (∀ x, (q, x) ∈ s.host.queues → ¬lost q x) → u.queue? q = s.queue? q))) ∧
   (∀ k s, s.host.linkUp = true → k ≤ 9 → k ≠ s.host.bar4Log2 → leadsTo (.bar4Resize k) s (fun u =>
     u.host.bar4Log2 = k ∧ ctlGet u rApctl = 0 ∧ (∀ r, r ≠ rApctl → ctlGet u r = ctlGet s r) ∧ u.mem = s.mem))) ∧
  (∀ off n s, InBar4 s off n →
     (s.plat.recovery = true → s.plat.ready = false → leadsTo (.bar4Read off n) s (fun u => sameMemory s u ∧ u.out = s.out ++
       [.readBytes ((List.range n).map (fun k => if off + k < 0x4080000 then byteAt s (off + k) else 0))])) ∧
     (s.plat.recovery = false → s.plat.ready = false → leadsTo (.bar4Read off n) s (fun u =>
       u.out = s.out ++ [.readBytes (List.replicate n 0)] ∧ sameMemory s u))) ∧
  (∀ off n s, InBar4 s off n → s.plat.recovery = false → s.plat.ready = true →
     let a := (ctlGet s rApctl).toNat + off
     let memory := (granules a n).all (fun g => (devPlace s g).isSome)
     let secure := (granules a n).any (fun g => addrWorld s none g == .s)
     (runBusy s a n = true → leadsTo (.bar4Read off n) s (fun u =>
       u.pwr.posted = [.memRead off n] ∧ u.out = s.out ∧ sameMemory s u)) ∧
     (runBusy s a n = false →
       (memory = false → leadsTo (.bar4Read off n) s (fun u => u.out = s.out ++ [.ur] ∧ sameMemory s u)) ∧
       (memory = true → secure = true → leadsTo (.bar4Read off n) s (fun u => sameButLog s u ∧
         (∃ o, u.out = s.out ++ o ++ [.ur]) ∧
         (s.sec.vlog.length < 4096 → ∃ e, u.sec.vlog = s.sec.vlog ++ [e] ∧ e.addr = BitVec.ofNat 64 a ∧ e.agent = 1 ∧ e.kind = 0))) ∧
       (memory = true → secure = false → ∀ p, poisonAt s a n = some p → leadsTo (.bar4Read off n) s (fun u =>
         (∃ o, u.out = s.out ++ o ++ [.completerAbort]) ∧ sameMemory s u)) ∧
       (memory = true → secure = false → poisonAt s a n = none → QuietBus s a n → leadsTo (.bar4Read off n) s (fun u =>
         u.out = s.out ++ [.readBytes ((List.range n).map (fun k => byteAt s (a + k)))] ∧ sameMemory s u)))) ∧
  (∀ off d s, InBar4 s off d.length →
     let n := d.length
     let a := (ctlGet s rApctl).toNat + off
     let memory := (granules a n).all (fun g => (devPlace s g).isSome)
     let secure := (granules a n).any (fun g => addrWorld s none g == .s)
     (s.plat.recovery = true → s.plat.ready = false → leadsTo (.bar4Write off d) s (fun u => u.out = s.out ∧
       (∀ k (h : k < n), off + k < 0x4080000 → byteAt u (off + k) = d[k]) ∧ sameOutside s u off (min n (0x4080000 - off)))) ∧
     (s.plat.recovery = false → s.plat.ready = false → exec (.bar4Write off d) s = .next s) ∧
     (s.plat.recovery = false → s.plat.ready = true →
       (runBusy s a n = true → leadsTo (.bar4Write off d) s (fun u =>
         u.pwr.posted = [.memWrite off d] ∧ u.out = s.out ∧ sameMemory s u)) ∧
       (runBusy s a n = false →
         (memory = false → leadsTo (.bar4Write off d) s (fun u => sameMemory s u ∧ u.host.aer.getLsbD 20 = true)) ∧
         (memory = true → secure = true → leadsTo (.bar4Write off d) s (fun u => sameButLog s u ∧
           (s.sec.vlog.length < 4096 → ∃ e, u.sec.vlog = s.sec.vlog ++ [e] ∧ e.addr = BitVec.ofNat 64 a ∧ e.agent = 1 ∧
             e.kind = 1))) ∧
         (memory = true → secure = false → QuietBus s a n → leadsTo (.bar4Write off d) s (fun u =>
           (∀ k (h : k < n), byteAt u (a + k) = d[k]) ∧ sameOutside s u a n ∧ u.ctl = s.ctl ∧ u.out = s.out)))))

/-- Registers: a read answers with the register's value, with the half that it covers for 32 bits; DEV_ID is 0x48A101; a write of a
DEV_SEED of the NS half replaces the bits that it covers, one of the S half only for an S agent; an access to an S block by an NS
agent has no effect but its entry in the violation log (00 R9 to R13, R168, R366, R489). Through BAR2 the host reads and writes the
MSI-X table in words; a write that unmasks a pending vector sends its message (R363, R395). -/
def Obligations.RegisterAccess : Prop :=
  ((∀ o n s, reachesReg s .host o n → o / 8 * 8 ≠ rDevTime → (o < 0x400000 ∨ rMbx 64 ≤ o) →
     let v := regPeek s .ns (o / 8 * 8)
     leadsTo (.bar0Read false o n) s (fun u => sameMemory s u ∧ u.threads = s.threads ∧ u.ctl = s.ctl ∧
       (n = 8 → u.out = s.out ++ [.readData .host v]) ∧
       (n = 4 → u.out = s.out ++ [.readData .host (v >>> (8 * (o % 8)) &&& 0xFFFFFFFF#64)]))) ∧
   (∀ s, ctlGet s rDevId = 0x48A101#64 → regPeek s .ns rDevId = 0x48A101#64) ∧
   (∀ a k v s, k < 256 → reachesReg s a (rSeed k) 8 → s.fer.handoffs = [] → (k < 128 ∨ agentWorld s a = .s) →
     leadsTo (.registerWrite a false (rSeed k) 8 v) s (fun u => ctlGet u (rSeed k) = v ∧
       (∀ r, r ≠ rSeed k → ctlGet u r = ctlGet s r) ∧ onlyRegisters s u ∧ u.out = s.out)) ∧
   (∀ a k v s, k < 256 → s.fer.handoffs = [] → (k < 128 ∨ agentWorld s a = .s) →
     (reachesReg s a (rSeed k) 4 → leadsTo (.registerWrite a false (rSeed k) 4 v) s (fun u =>
       ctlGet u (rSeed k) = (ctlGet s (rSeed k) &&& 0xFFFFFFFF00000000#64) ||| (v &&& 0xFFFFFFFF#64) ∧ onlyRegisters s u)) ∧
     (reachesReg s a (rSeed k + 4) 4 → leadsTo (.registerWrite a false (rSeed k + 4) 4 v) s (fun u =>
       ctlGet u (rSeed k) = (ctlGet s (rSeed k) &&& 0xFFFFFFFF#64) ||| v <<< 32 ∧ onlyRegisters s u))) ∧
   (∀ a k v s, 128 ≤ k → k < 256 → reachesReg s a (rSeed k) 8 → s.fer.handoffs = [] → agentWorld s a = .ns →
     leadsTo (.registerWrite a false (rSeed k) 8 v) s (fun u => ctlGet u (rSeed k) = ctlGet s (rSeed k))) ∧
   (∀ a o n v s, regGate s .ns o n = some .world → agentWorld s a = .ns → (a = .host → HostIn s ∧ hostReaches s o = true) →
     s.fer.handoffs = [] →
     leadsTo (.registerWrite a false o n v) s (fun u => (∀ r, r ≠ rVstat → ctlGet u r = ctlGet s r) ∧
       u.threads = s.threads ∧ u.sec.pend = s.sec.pend ∧
       (s.sec.vlog.length < 4096 → ∃ e, u.sec.vlog = s.sec.vlog ++ [e] ∧ e.addr = BitVec.ofNat 64 (0x300000000000 + o) ∧
         e.agent = agentId a ∧ e.kind = 1 ∧ e.info = BitVec.ofNat 8 n ∧ e.time = s.plat.devTime)))) ∧
  ((∀ o s, HostIn s → o % 4 = 0 →
     leadsTo (.bar0Read true o 4) s (fun u => onlyRegisters s u ∧ u.ctl = s.ctl ∧
       u.out = s.out ++ [.readData .host (if s.plat.ready then (bar2Word s o).setWidth 64 else 0)])) ∧
   (∀ k j v s, k < 2048 → j < 4 → HostIn s → s.plat.ready = true → s.fer.handoffs = [] →
     let at_ := 0x10000 + 16 * k + 4 * j
     leadsTo (.registerWrite .host true at_ 4 v) s (fun u =>
       bar2Word u at_ = (if j = 0 then v.setWidth 32 &&& ~~~3#32 else if j = 3 then v.setWidth 32 &&& 1#32 else v.setWidth 32) ∧
       (∀ o, o % 4 = 0 → o ≠ at_ → 0x10000 ≤ o → o < 0x18000 → bar2Word u o = bar2Word s o) ∧ u.ctl = s.ctl ∧ sameMemory s u ∧
       (j = 3 → v.getLsbD 0 = false → k ∈ s.host.pba → u.out = s.out ++ [.msix k] ∧ k ∉ u.host.pba) ∧
       (k ∉ s.host.pba → u.out = s.out ∧ u.host.pba = s.host.pba))))

/-- Setup queues: a write that sets enable creates queue 0 or 1 with the rings its registers describe, or sets the error bit of its
register when they are out of range; one that clears it destroys the queue, which is gone once no command of it is left (R373, R374,
R386). Queues at work: a doorbell moves the producer index, or a completion doorbell the head, or sets the HIF_ERR bit of the first
check it fails: form, queue, world, index (R375, R377); COMMAND_FETCH takes the packet of the queue at the head of a ready list from
host or device memory, or stops the queue on an error response (R378, R379, R372); COMMAND_COMPLETE writes the record that is due
with its phase and advances the tail; an error response stops the queue; the record of a stopped queue is dropped (R392, R393). -/
def Obligations.SetupQueues : Prop :=
  ((∀ v s, reachesReg s .host rQ0Cfg 8 → s.plat.ready = true → (ctlGet s rQ0Cfg).getLsbD 16 = false → v.getLsbD 16 = true →
     s.queue? 0 = none →
     let c := ctlGet s rQ0Cmd
     let p := ctlGet s rQ0Cpl
     let cl := (c >>> 1 &&& 31#64).toNat
     let pl := (p &&& 31#64).toNat
     let ok := ringCheck s .ns (c &&& ~~~0x3F#64) (c.getLsbD 0) 64 cl = stOk ∧
       ringCheck s .ns (p &&& ~~~0x3F#64) (p.getLsbD 5) 32 pl = stOk
     (ok → leadsTo (.queue0Create v) s (fun u =>
       ctlGet u rQ0Cfg = (ctlGet s rQ0Cfg &&& ~~~0x117FF#64) ||| (v &&& 0x117FF#64) ∧
       ∃ x, u.queue? 0 = some x ∧ x.cmd = c &&& ~~~0x3F#64 ∧ x.cmdHost = c.getLsbD 0 ∧ x.cqLog2 = cl ∧ x.cpl = p &&& ~~~0x3F#64 ∧
         x.cplHost = p.getLsbD 5 ∧ x.cplLog2 = pl ∧ x.prod = 0 ∧ x.cons = 0 ∧ x.tail = 0 ∧ x.head = 0 ∧ x.world = .ns ∧
         x.st = .active ∧ x.irq = v.getLsbD 12 ∧ x.vec = v.setWidth 11)) ∧
     (¬ok → leadsTo (.queue0Create v) s (fun u => (ctlGet u rHifErr).getLsbD 6 = true ∧ u.queue? 0 = none ∧
       ctlGet u rQ0Cfg = ctlGet s rQ0Cfg))) ∧
   (∀ (p : Fin 4) v s, reachesReg s (.sup p) rQ1Cfg 8 → s.plat.ready = true → (ctlGet s rQ1Cfg).getLsbD 16 = false →
     v.getLsbD 16 = true → s.queue? 1 = none →
     let c := ctlGet s rQ1Cmd &&& ~~~0x3F#64
     let d := ctlGet s rQ1Cpl &&& ~~~0x3F#64
     let cl := (ctlGet s rQ1Cmd >>> 1 &&& 31#64).toNat
     let dl := (ctlGet s rQ1Cpl &&& 31#64).toNat
     let ok := ringCheck s .s c false 64 cl = stOk ∧ ringCheck s .s d false 32 dl = stOk
     (ok → leadsTo (.queue1Create (.sup p) v) s (fun u => (ctlGet u rQ1Cfg).getLsbD 16 = true ∧
       ∃ x, u.queue? 1 = some x ∧ x.world = .s ∧ x.cmdHost = false ∧ x.cplHost = false ∧ x.st = .active ∧ x.prod = 0 ∧
         x.cons = 0 ∧ x.tail = 0 ∧ x.head = 0 ∧ x.cmd = c ∧ x.cpl = d ∧ x.cqLog2 = cl ∧ x.cplLog2 = dl)) ∧
     (¬ok → leadsTo (.queue1Create (.sup p) v) s (fun u => (ctlGet u rQ1Cfg).getLsbD 18 = true ∧ u.queue? 1 = none ∧
       (ctlGet u rQ1Cfg).getLsbD 16 = false))) ∧
   (∀ v s x, reachesReg s .host rQ0Cfg 8 → (ctlGet s rQ0Cfg).getLsbD 16 = true → v.getLsbD 16 = false → s.queue? 0 = some x →
     leadsTo (.queue0Destroy v) s (fun u => (ctlGet u rQ0Cfg).getLsbD 16 = false ∧
       (s.host.cmds = [] → u.queue? 0 = none) ∧ (∀ y, u.queue? 0 = some y → y.st = .destroying))) ∧
   (∀ (p : Fin 4) v s x, reachesReg s (.sup p) rQ1Cfg 8 → (ctlGet s rQ1Cfg).getLsbD 16 = true → v.getLsbD 16 = false →
     s.queue? 1 = some x → leadsTo (.queue1Destroy (.sup p) v) s (fun u => (ctlGet u rQ1Cfg).getLsbD 16 = false ∧
       (s.host.cmds = [] → u.queue? 1 = none) ∧ (∀ y, u.queue? 1 = some y → y.st = .destroying)))) ∧
  ((∀ a q p x s, reachesReg s a rDoorbell 8 → q < 2 ^ 20 → p < 2 ^ 24 → s.queue? q = some x → x.st = .active →
     let v := BitVec.ofNat 64 (p * 2 ^ 20 + q)
     (x.world = agentWorld s a → (BitVec.ofNat 24 p - x.cons).toNat ≤ 2 ^ x.cqLog2 → leadsTo (.doorbell a 8 v) s (fun u =>
       u.queue? q = some { x with prod := BitVec.ofNat 24 p } ∧ u.ctl = s.ctl ∧ sameMemory s u ∧
       (p ≠ x.cons.toNat → (x.cons - x.head).toNat < 2 ^ x.cplLog2 → fenceHeld s q = false →
         q ∈ (if q % 2 = 0 then u.host.ready0 else u.host.ready1)))) ∧
     (x.world = agentWorld s a → 2 ^ x.cqLog2 < (BitVec.ofNat 24 p - x.cons).toNat → leadsTo (.doorbell a 8 v) s (fun u =>
       u.queue? q = some x ∧ (ctlGet u rHifErr).getLsbD 2 = true)) ∧
     (x.world ≠ agentWorld s a → leadsTo (.doorbell a 8 v) s (fun u =>
       u.queue? q = some x ∧ (ctlGet u rHifErr).getLsbD 3 = true))) ∧
   (∀ a q h x s, reachesReg s a rCpldb 8 → q < 2 ^ 20 → h < 2 ^ 24 → s.queue? q = some x → x.st = .active →
     let v := BitVec.ofNat 64 (h * 2 ^ 20 + q)
     (x.world = agentWorld s a → (BitVec.ofNat 24 h - x.head).toNat ≤ (x.tail - x.head).toNat →
       leadsTo (.completionDoorbell a 8 v) s (fun u =>
         u.queue? q = some { x with head := BitVec.ofNat 24 h } ∧ u.ctl = s.ctl ∧ sameMemory s u)) ∧
     (x.world = agentWorld s a → (x.tail - x.head).toNat < (BitVec.ofNat 24 h - x.head).toNat →
       leadsTo (.completionDoorbell a 8 v) s (fun u => u.queue? q = some x ∧ (ctlGet u rHifErr).getLsbD 2 = true)) ∧
     (x.world ≠ agentWorld s a → leadsTo (.completionDoorbell a 8 v) s (fun u =>
       u.queue? q = some x ∧ (ctlGet u rHifErr).getLsbD 3 = true))) ∧
   (∀ a v n s, (a = .host → HostIn s ∧ hostReaches s rDoorbell = true) → (n = 1 ∨ n = 2 ∨ n = 4 ∨ n = 8) →
     (n ≠ 8 ∨ 2 ^ 44 ≤ v.toNat →
       leadsTo (.doorbell a n v) s (fun u => u.host.queues = s.host.queues ∧ (ctlGet u rHifErr).getLsbD 0 = true) ∧
       leadsTo (.completionDoorbell a n v) s (fun u => u.host.queues = s.host.queues ∧ (ctlGet u rHifErr).getLsbD 0 = true)) ∧
     (n = 8 → v.toNat < 2 ^ 44 → (∀ x, s.queue? (v &&& 0xFFFFF#64).toNat = some x → x.st ≠ .active) →
       leadsTo (.doorbell a n v) s (fun u => u.host.queues = s.host.queues ∧ (ctlGet u rHifErr).getLsbD 1 = true) ∧
       leadsTo (.completionDoorbell a n v) s (fun u => u.host.queues = s.host.queues ∧ (ctlGet u rHifErr).getLsbD 1 = true)))) ∧
  ((∀ (b : Fin 2) s q r x, (if b = 0 then s.host.ready0 else s.host.ready1) = q :: r → s.pwr.standby = false →
     clockOn s (.hostComplex b) = true → q % 2 = b.val →
     s.queue? q = some x → x.st = .active → x.prod = x.cons + 1 → (x.cons - x.head).toNat < 2 ^ x.cplLog2 → fenceHeld s q = false →
     let at_ := localOf x.cmd + 64 * (x.cons.toNat % 2 ^ x.cqLog2)
     let takes (u : State) (d : List Byte) : Prop := u.queue? q = some { x with cons := x.prod } ∧ sameMemory s u ∧
       u.host.cmds = s.host.cmds ++ [{ q := q, n := x.cons, packet := d, fetchedAt := s.plat.devTime, fltSeq := ctlGet s rFltSeq }]
     let stops (u : State) : Prop := u.queue? q = some { x with st := .stopped } ∧ (ctlGet u rHifErr).getLsbD 5 = true ∧
       sameMemory s u
     (x.cmdHost = true → (∀ d, d.length = 64 → leadsTo (.commandFetch b [some d]) s (fun u => takes u d)) ∧
       leadsTo (.commandFetch b [none]) s stops) ∧
     (x.cmdHost = false → runBusy s at_ 64 = false → devPlace s at_ = some at_ → ∀ h,
       (poisonAt s at_ 64 = none → QuietBus s at_ 64 → leadsTo (.commandFetch b h) s (fun u =>
         takes u ((List.range 64).map (fun k => byteAt s (at_ + k))))) ∧
       (poisonAt s at_ 64 ≠ none → leadsTo (.commandFetch b h) s stops)) ∧
     (x.cmdHost = false → runBusy s at_ 64 = false → devPlace s at_ = none → ∀ h, leadsTo (.commandFetch b h) s stops)) ∧
   (∀ q n s c x, s.cmd? q n = some c → c.wait = .done → complexRuns s q = true → s.queue? q = some x → x.st = .active →
     let at_ := x.cpl + BitVec.ofNat 64 (32 * (x.tail.toNat % 2 ^ x.cplLog2))
     let record := (c.packet.drop 4).take 2 ++
       [c.status, (if x.tail.getLsbD x.cplLog2 then 0 else 1) + (if c.ldrop then 2 else 0)] ++
       leBytes 4 c.result.toNat ++ leBytes 8 (s.plat.devTime - c.fetchedAt).toNat ++ leBytes 8 c.aux.toNat ++
       leBytes 4 c.q ++ leBytes 3 c.n.toNat ++ [c.packet.getD 0 0]
     (c.discard = true → ∀ e, (x.cplHost = true ∨ runBusy s (localOf at_) 32 = false) → leadsTo (.commandComplete q n e) s (fun u =>
       u.queue? q = some x ∧ u.cmd? q n = none ∧ sameMemory s u ∧ u.out = s.out)) ∧
     (c.discard = false → x.cplHost = true → leadsTo (.commandComplete q n false) s (fun u =>
       u.queue? q = some { x with tail := x.tail + 1 } ∧ u.cmd? q n = none ∧ sameMemory s u ∧
       ∃ o, u.out = s.out ++ [.hostWrite at_ record] ++ o)) ∧
     (c.discard = false → x.cplHost = false → runBusy s (localOf at_) 32 = false → devPlace s (localOf at_) = some (localOf at_) →
       record.length = 32 → QuietBus s (localOf at_) 32 → leadsTo (.commandComplete q n false) s (fun u =>
         u.queue? q = some { x with tail := x.tail + 1 } ∧ u.cmd? q n = none ∧ sameOutside s u (localOf at_) 32 ∧
         ∀ k (h : k < record.length), byteAt u (localOf at_ + k) = record[k])) ∧
     (c.discard = false → (x.cplHost = true ∨ runBusy s (localOf at_) 32 = false) → leadsTo (.commandComplete q n true) s (fun u =>
       u.queue? q = some { x with st := .stopped } ∧ u.cmd? q n = none ∧ (ctlGet u rHifErr).getLsbD 5 = true ∧ sameMemory s u))))

/-- NOP; QUEUE_CREATE checks its rings and creates, QUEUE_DESTROY puts the queue into destruction and waits for its commands; each ends
with the status of the first check that fails (R385, R386). MEM_COPY, MEM_FILL and PROGRAM_LOAD of local memory, and of host memory at
one end, write their destination and no other byte, and end with ST_OK and the length; a host source that falls short ends them with
ST_ABORTED and the bytes of the whole lines written. A flush discards the copies of its lines. A copy with an end on another device
asks for its first line by READ or WRITE and awaits the answer (R387, 08 R294). A program loaded whole marks the instruction caches of
its world's lathes (R388). -/
def Obligations.KcpMemory : Prop :=
  ((∀ q n s c w, Starts s 0x01 q n c w → leadsTo (.nopCmd q n) s (fun u => ended u q n c stOk 0 0 ∧ sameMemory s u ∧
     u.host.queues = s.host.queues)) ∧
   (∀ q n s c w, Starts s 0x02 q n c w →
     let id := arg c 0x0C 4 % 2 ^ 20
     let cmd := BitVec.ofNat 64 (arg c 0x10 8)
     let cpl := BitVec.ofNat 64 (arg c 0x18 8)
     let k := arg c 8 1
     let a := ringCheck s w cmd (k % 2 = 1) 64 (arg c 0x20 1)
     let b := ringCheck s w cpl (k / 2 % 2 = 1) 32 (arg c 0x21 1)
     let bad := id < 2 ∨ a = stBadParam ∨ b = stBadParam ∨ 2047 < arg c 0x22 2
     (bad → leadsTo (.queueCreate q n) s (fun u => ended u q n c stBadParam 0 0 ∧ u.host.queues = s.host.queues)) ∧
     (¬bad → a = stWorld ∨ b = stWorld → leadsTo (.queueCreate q n) s (fun u =>
       ended u q n c stWorld 0 0 ∧ u.host.queues = s.host.queues)) ∧
     (¬bad → a = stOk → b = stOk → s.queue? id ≠ none → leadsTo (.queueCreate q n) s (fun u =>
       ended u q n c stBusy 0 0 ∧ u.host.queues = s.host.queues)) ∧
     (¬bad → a = stOk → b = stOk → s.queue? id = none →
       leadsTo (.queueCreate q n) s (fun u => ended u q n c stOk 0 0 ∧ sameMemory s u ∧ u.queue? id = some
         { cmd := cmd, cmdHost := decide (k % 2 = 1), cqLog2 := arg c 0x20 1, cpl := cpl, cplHost := decide (k / 2 % 2 = 1)
           cplLog2 := arg c 0x21 1, prod := 0, cons := 0, tail := 0, head := 0, irq := decide (arg c 0x24 1 % 2 = 1)
           vec := BitVec.ofNat 11 (arg c 0x22 2), world := w, st := .active }))) ∧
   (∀ q n s c w, Starts s 0x03 q n c w →
     let id := arg c 0x0C 4
     (id < 2 ∨ s.queue? id = none → leadsTo (.queueDestroy q n) s (fun u =>
       ended u q n c stBadParam 0 0 ∧ u.host.queues = s.host.queues)) ∧
     (∀ x, 2 ≤ id → s.queue? id = some x → x.world ≠ w → leadsTo (.queueDestroy q n) s (fun u =>
       ended u q n c stWorld 0 0 ∧ u.host.queues = s.host.queues)) ∧
     (∀ x, 2 ≤ id → s.queue? id = some x → x.world = w → leadsTo (.queueDestroy q n) s (fun u => sameMemory s u ∧
       u.cmd? q n = some { c with wait := .destroy id } ∧ u.queue? id = some { x with st := .destroying })))) ∧
  ((∀ q n s c w host, Starts s 0x10 q n c w → arg c 0x20 8 ≤ 2 ^ 40 → noDma s c.q w = false →
     let a := BitVec.ofNat 64 (arg c 0x10 8)
     let b := BitVec.ofNat 64 (arg c 0x18 8)
     let len := arg c 0x20 8
     let k := arg c 8 1 % 4
     (k = 0 → LocalRange s w a len → LocalRange s w b len → (localOf a + len ≤ localOf b ∨ localOf b + len ≤ localOf a) →
       leadsTo (.memCopy q n host) s (fun u => ended u q n c stOk 0 (BitVec.ofNat 64 len) ∧
         (∀ i, i < len → byteAt u (localOf b + i) = byteAt s (localOf a + i)) ∧ sameOutside s u (localOf b) len)) ∧
     (k = 0 → arg c 9 1 % 2 = 1 → a = b → LocalRange s w a len → leadsTo (.memCopy q n host) s (fun u =>
       ended u q n c stOk 0 (BitVec.ofNat 64 len) ∧ sameMemory s u ∧
       ∀ p ∈ u.mem.rcopies, p.line + 64 ≤ a.toNat ∨ a.toNat + len ≤ p.line)) ∧
     (k = 1 → c.linkLost = false → LocalRange s w b len → ∀ d, host = some d → fromHost s (.memCopy q n host) q n c b len d) ∧
     (k = 1 → c.linkLost = true ∨ host = none → LocalRange s w b len → fromHost s (.memCopy q n host) q n c b len []) ∧
     (k = 2 → LocalRange s w a len → leadsTo (.memCopy q n host) s (fun u => ended u q n c stOk 0 (BitVec.ofNat 64 len) ∧
       sameMemory s u ∧ (c.linkLost = true ∨ len = 0 → u.out = s.out) ∧
       (c.linkLost = false → 0 < len → u.out = s.out ++
         [.hostWrite b ((List.range len).map (fun i => byteAt s (localOf a + i)))]))) ∧
     (k = 0 → 0 < len → ∀ (dev : Bool), FarRange s w (if dev then a else b) len → LocalRange s w (if dev then b else a) len →
       let e := if dev then a else b
       let m := min len (64 - b.toNat % 64)
       chainHolds s (chainOf e) = true → heldTo s (chainOf e) = true ∨ (route s (chainOf e)).isSome = true →
       leadsTo (.memCopy q n host) s (fun u => sameMemory s u ∧
         (∃ x : Move, u.cmd? q n = some { c with wait := .move x } ∧ x.at_ = 0 ∧ x.tag = some s.chain.nextTag ∧ x.n = len) ∧
         (dev = true → Asked s u (chainOf e) pRead (BitVec.ofNat 48 (localOf a)) (leBytes 2 m) (.mover q c.n)) ∧
         (dev = false → Asked s u (chainOf e) pWrite (BitVec.ofNat 48 (localOf b))
           ((List.range m).map (fun i => byteAt s (localOf a + i))) (.mover q c.n))))) ∧
   (∀ q n s c w, Starts s 0x11 q n c w → arg c 0x20 8 ≤ 2 ^ 40 → noDma s c.q w = false →
     let b := BitVec.ofNat 64 (arg c 0x10 8)
     let len := arg c 0x20 8
     let pat (i : Nat) : Byte := (leBytes 8 (arg c 0x18 8)).getD (i % 8) 0
     (arg c 8 1 % 2 = 0 → LocalRange s w b len → leadsTo (.memFill q n) s (fun u =>
       ended u q n c stOk 0 (BitVec.ofNat 64 len) ∧
       (∀ i, i < len → byteAt u (localOf b + i) = pat i) ∧ sameOutside s u (localOf b) len)) ∧
     (arg c 8 1 % 2 = 1 → leadsTo (.memFill q n) s (fun u => ended u q n c stOk 0 (BitVec.ofNat 64 len) ∧ sameMemory s u ∧
       (c.linkLost = false → 0 < len → u.out = s.out ++ [.hostWrite b ((List.range len).map pat)]))) ∧
     (arg c 8 1 % 2 = 0 → 0 < len → FarRange s w b len → chainHolds s (chainOf b) = true →
       heldTo s (chainOf b) = true ∨ (route s (chainOf b)).isSome = true → leadsTo (.memFill q n) s (fun u => sameMemory s u ∧
         Asked s u (chainOf b) pWrite (BitVec.ofNat 48 (localOf b))
           ((List.range (min len (64 - b.toNat % 64))).map pat) (.mover q c.n)))) ∧
   (∀ q n s c w host, Starts s 0x20 q n c w → noDma s c.q w = false →
     let a := BitVec.ofNat 64 (arg c 0x10 8)
     let b := BitVec.ofNat 64 (arg c 0x18 8)
     let len := arg c 0x20 4
     b.toNat % 8 = 0 → len % 8 = 0 → LocalRange s w b len →
     let marked (u : State) : Prop := ∀ p ∈ u.cores, (u.lathe (p.1 / 68)).world = w → p.2.discard = true
     (arg c 8 1 % 2 = 1 → c.linkLost = false → ∀ d, host = some d → fromHost s (.programLoad q n host) q n c b len d ∧
       (len ≤ d.length → leadsTo (.programLoad q n host) s marked)) ∧
     (arg c 8 1 % 2 = 0 → LocalRange s w a len → (localOf a + len ≤ localOf b ∨ localOf b + len ≤ localOf a) →
       leadsTo (.programLoad q n host) s (fun u => ended u q n c stOk 0 (BitVec.ofNat 64 len) ∧ marked u ∧
         (∀ i, i < len → byteAt u (localOf b + i) = byteAt s (localOf a + i)) ∧ sameOutside s u (localOf b) len))))

/-- TASK_SIGNAL sends one token and reports the state it found; a token that fails its checks, or that goes to another device, ends it
so or makes it wait. TASK_GRAPH_SUBMIT applies its list of tokens to descriptors of this device and of its world, in order, and counts those applied,
those skipped and the arms that found their descriptor in use; with a sink it then waits for it (R389). TENSOR_BIND clears each entry
of its range and sets its world and history; the read form writes the entries' bytes to its buffer (R390). -/
def Obligations.KcpTasks : Prop :=
  (∀ q n s c w, Starts s 0x22 q n c w → s.fer.handoffs = [] →
    let a := BitVec.ofNat 64 (arg c 0x10 8)
    let arm := arg c 0x18 1 % 2 = 1
    (tokenCheck s ⟨w, none⟩ a = .ok ∨ (∃ l, tokenCheck s ⟨w, none⟩ a = .wake l) → leadsTo (.taskSignal q n) s (fun u =>
      ended u q n c stOk (BitVec.ofNat 32 (dGet s (localOf a) dState 1)) 0 ∧
      ∃ v, exec (if arm then .armToken w a else .signalToken w a) s = .next v ∧ sameMemory v u ∧ u.lathes = v.lathes ∧
        u.overflow = v.overflow ∧ u.ctl = v.ctl)) ∧
    (∀ x v, x ≠ xWorld → tokenCheck s ⟨w, none⟩ a = .trap x v → leadsTo (.taskSignal q n) s (fun u =>
      ended u q n c stBadParam 0 0 ∧ sameMemory s u)) ∧
    (∀ v, tokenCheck s ⟨w, none⟩ a = .trap xWorld v → leadsTo (.taskSignal q n) s (fun u => ended u q n c stWorld 0 0 ∧
      sameButLog s u)) ∧
    (∀ dst, tokenCheck s ⟨w, none⟩ a = .remote dst → heldTo s dst = true ∨ (route s dst).isSome = true →
      leadsTo (.taskSignal q n) s (fun u => sameMemory s u ∧
        u.cmd? q n = some { c with wait := .remoteToken s.chain.nextTag } ∧
        ∃ o ∈ u.chain.outst, o.tag = s.chain.nextTag ∧ o.dst = dst ∧ o.pkt.type = pToken ∧
          o.pkt.addr = BitVec.ofNat 48 (localOf a)))) ∧
  (∀ q n s c w host (es : List Word), Starts s 0x21 q n c w → s.fer.handoffs = [] → c.result = 0 → c.aux = 0 → s.host.tokenWait = [] →
    let a := BitVec.ofNat 64 (arg c 0x10 8)
    let sink := BitVec.ofNat 64 (arg c 0x18 8)
    arg c 0x20 4 = es.length → 0 < es.length → es.length ≤ 65535 →
    (sink ≠ 0 → tokenCheck s ⟨w, none⟩ sink = .ok ∧ sinkWatches s < 4096) →
    ((arg c 8 1 % 2 = 1 ∧ c.linkLost = false ∧ host = some (es.flatMap (fun e => leBytes 8 e.toNat))) ∨
      (arg c 8 1 % 2 = 0 ∧ LocalRange s w a (8 * es.length) ∧
        ∀ i (h : i < es.length), loaded s (localOf a + 8 * i) 8 false = es[i])) →
    (∀ e ∈ es, goodEntry s w e = true ∨ wbits e 1 6 ≠ 0 ∨ ∃ x v, x ≠ xWorld ∧ tokenCheck s ⟨w, none⟩ (e &&& ~~~1#64) = .trap x v) →
    let good := es.filter (goodEntry s w)
    let skipped := es.length - good.length
    leadsTo (.taskGraphSubmit q n host) s (fun u => sameMemory (good.foldl (sendEntry w) s) u ∧
      u.cmd? q n = some { c with
        status := stOk, result := BitVec.ofNat 32 good.length
        aux := BitVec.ofNat 64 (busyArms w good s * 2 ^ 16 + skipped)
        wait := if sink = 0 then .done else .sink sink })) ∧
  (∀ q n s c w, Starts s 0x30 q n c w →
    let first := arg c 0x0C 2
    let count := arg c 0x10 4
    let buf := BitVec.ofNat 64 (arg c 0x18 8)
    let at_ := scaleAt s (BitVec.ofNat 16 first)
    let ids := (List.range count).map (fun k => BitVec.ofNat 16 (first + k))
    let read := arg c 9 1 % 2 = 1
    (count = 0 ∨ 65536 < first + count → leadsTo (.tensorBind q n) s (fun u => ended u q n c stBadParam 0 0 ∧ sameMemory s u)) ∧
    (0 < count → first + count ≤ 65536 →
      (¬read → w = .ns → (∃ T ∈ ids, entryWorld s T = .s) → leadsTo (.tensorBind q n) s (fun u =>
        ended u q n c stWorld 0 0 ∧ sameButLog s u)) ∧
      (¬read → (w = .ns → ∀ T ∈ ids, entryWorld s T = .ns) → leadsTo (.tensorBind q n) s (fun u =>
        ended u q n c stOk 0 0 ∧ sameOutside s u at_ (128 * count) ∧
        ∀ i, i < count → entryWorld u (BitVec.ofNat 16 (first + i)) = w ∧
          (∀ k, k < 128 → k ≠ eHist → byteAt u (at_ + 128 * i + k) = 0) ∧
          (byteAt u (at_ + 128 * i + eHist)).toNat % 64 = arg c 0x14 1 % 64)) ∧
      (read → (∃ T ∈ ids, entryWorld s T ≠ w) → (arg c 8 1 % 2 = 1 ∨ LocalRange s w buf (128 * count)) →
        leadsTo (.tensorBind q n) s (fun u => ended u q n c stWorld 0 0 ∧ sameButLog s u)) ∧
      (read → (∀ T ∈ ids, entryWorld s T = w) →
        (arg c 8 1 % 2 = 0 → LocalRange s w buf (128 * count) → leadsTo (.tensorBind q n) s (fun u => ended u q n c stOk 0 0 ∧
          (∀ k, k < 128 * count → byteAt u (localOf buf + k) = byteAt s (at_ + k)) ∧
          sameOutside s u (localOf buf) (128 * count))) ∧
        (arg c 8 1 % 2 = 1 → leadsTo (.tensorBind q n) s (fun u => ended u q n c stOk 0 0 ∧ sameMemory s u ∧
          (c.linkLost = false → u.out = s.out ++
            [.hostWrite buf ((List.range (128 * count)).map (fun k => byteAt s (at_ + k)))]))))))

/-! ## Chain (11) -/

namespace Sys2Proof.Claims

open Sys2Proof.Machine

/-- No other port, and nothing of the device but its chain state, its outputs and what it records of faults, has changed. -/
def onlyPort (s u : State) (p : Nat) : Prop :=
  (∀ q, q ≠ p → port u q = port s q) ∧ u.mem = s.mem ∧ u.cores = s.cores ∧ u.lathes = s.lathes ∧ u.host = s.host ∧
    u.chain.addr = s.chain.addr ∧ u.chain.rec_ = s.chain.rec_

/-- A packet of this device has been put on port `o`. -/
def sent (s u : State) (o : Nat) (dst : BitVec 16) (ty : Byte) (tag : BitVec 16) (ext : Word) (payload : List Byte) : Prop :=
  ∃ k, Out.packet o k ∈ u.out ∧ k.dst = dst ∧ k.src = s.chain.addr ∧ k.epoch = s.chain.epoch ∧ k.type = ty ∧ k.tag = tag ∧
    k.ext = ext ∧ k.payload = payload

/-- Packet `k` of type `ty` is the next at port `p`, and an answer to its source leaves by port `o` at once. -/
structure Arrives (s : State) (p : Fin 40) (ty : Byte) (k : Packet) (o : Nat) : Prop where
  head : rxHead s p.val ty = some k
  member : s.chain.st ≠ .fenced
  back : route s k.src = some o
  inOrder : routeWaits s k.src = false
  goes : (port s o).st ≠ .training

/-- A chain request of this device with tag `o.tag` is outstanding, and nothing is held back. -/
structure Answers (s : State) (p : Fin 40) (ty : Byte) (k : Packet) (o : Outstanding) : Prop where
  head : rxHead s p.val ty = some k
  request : s.chain.outst.find? (fun q => q.tag == k.tag) = some o
  free : s.chain.heldTx = []

/-- The answered request is listed no more, and no memory has changed. -/
def closed (s u : State) (o : Outstanding) : Prop :=
  u.chain.outst = s.chain.outst.filter (fun x => x.tag != o.tag) ∧ sameMemory s u

/-- The device has no reduction job, and nothing of its chain is under way. -/
structure IdleChain (s : State) : Prop where
  jobs : s.fer.jobs = []
  requests : s.chain.outst = []
  heldRx : s.chain.heldRx = []
  heldTx : s.chain.heldTx = []
  heldBeats : s.chain.heldBeats = []

/-- This device is a member of record `r`, alone with its address and its serial number. -/
structure Listed (s : State) (r : Membership) : Prop where
  own : (s.chain.addr, s.sec.fuses.serial) ∈ r.members
  address : ∀ m ∈ r.members ++ r.spares, m.1 = s.chain.addr → m.2 = s.sec.fuses.serial
  serial : ∀ m ∈ r.members ++ r.spares, m.2 = s.sec.fuses.serial → m.1 = s.chain.addr
  low : s.chain.addr.toNat < 0x8000
  apart : ∀ m ∈ r.spares, m.1 ≠ s.chain.addr

/-- The record in force has these contents; its topology may be newer. -/
def inForce (u : State) (epoch head : BitVec 16) (members spares : List (BitVec 16 × Word)) : Prop :=
  ∃ q, u.chain.rec_ = some q ∧ q.epoch = epoch ∧ q.head = head ∧ q.members = members ∧ q.spares = spares ∧
    u.chain.epoch = epoch ∧ u.chain.head = head

end Sys2Proof.Claims

/-- Ports. Training brings a port up at the width that its lanes allow, or leaves it down when its partner's port is not the other one
of its ring, its order is wrong, or fewer than four lanes are healthy (R398, R401, R405). A flit in sequence is taken and its packet
judged: queued for this device, relayed with one hop fewer, refused with FENCED when stale, held while its newer record is asked for;
any other flit draws a NAK, and the 16th for one number retrains the port (R402, R403, R420). A NAK has every kept flit from its
number on sent again. A first degraded lane moves to lane 8, a second leaves four lanes in use, fewer than four take the port down
(R404, R405). Retraining resends; a port that fails it goes down. Heartbeats end the misses, are refused when stale, and a silent
partner is reported to the head or probed by it (R406, R416). -/
def Obligations.ChainPorts : Prop :=
  ((∀ (p : Fin 40) pol rev partner pport s, portClock s p.val = true → portOn s p.val = false → (port s p.val).st ≠ .partnerFenced →
     let x := port s p.val
     let lanes := ((List.range 9).filter (fun l => !x.degraded.contains l)).length
     (pport.toNat = (if p.val < 20 then p.val + 20 else p.val - 20) → 4 ≤ lanes →
       leadsTo (.portTraining p (.up pol rev partner pport)) s (fun u => let y := port u p.val
         y.st = (if x.narrow = true ∨ 2 ≤ x.degraded.length then .up4 else .up) ∧
         y.partner = (if partner = 0xFFFF#16 then 0 else partner) ∧ y.pport = pport ∧ y.pol = pol ∧ y.rev = rev ∧
         (s.chain.rec_ = none → s.chain.enumPort = none → onlyPort s u p.val))) ∧
     (pport.toNat = (if p.val < 20 then p.val + 20 else p.val - 20) → lanes < 4 →
       leadsTo (.portTraining p (.up pol rev partner pport)) s (fun u => (port u p.val).st = .down ∧ onlyPort s u p.val)) ∧
     (∀ r : Training, (r = .miswired ∨ r = .badOrder ∨ (r = .up pol rev partner pport ∧
         pport.toNat ≠ (if p.val < 20 then p.val + 20 else p.val - 20))) →
       leadsTo (.portTraining p r) s (fun u => (port u p.val).st = .down ∧ Detected s u cMiswired 6 p.val)) ∧
     leadsTo (.portTraining p .failed) s (fun u => (port u p.val).st = .down ∧ onlyPort s u p.val)) ∧
   (∀ (p : Fin 40) f ok s, linkLive s p.val = true →
     let x := port s p.val
     let seq := BitVec.ofNat 16 (leNat (f.take 2))
     let ack := BitVec.ofNat 16 (leNat ((f.drop 2).take 2))
     let next := seq = x.rxSeq + 1
     let whole := ok = true ∧ flitIntact f = true
     (whole → next → leNat ((f.drop 4).take 1) ≠ 0 → x.rx.length < 32 →
       leadsTo (.dataFlit p f ok) s (fun u => (port u p.val).rxSeq = seq ∧ u.out = s.out ∧ u.chain.rxq = s.chain.rxq ∧
         (port u p.val).replay = x.replay.filter (fun r => decide (0x8000 ≤ (ack - r.1).toNat)))) ∧
     (∀ k, whole → next → leNat ((f.drop 4).take 1) = 0 → x.rx = [] → k.payload.length ≤ 512 →
       f.drop 16 = packetBytes k ++ List.replicate (592 - k.payload.length) 0 → k.vc = vcOf k.type → typeDefined k.type = true →
       s.chain.st ≠ .fenced →
       (judge s k = .accept → k.type ≠ pReroute → k.type ≠ pEnum → k.type ≠ pClaim → k.dst ≠ 0xFFFE#16 →
         (isSelf s k.dst = true → leadsTo (.dataFlit p f ok) s (fun u => u.chain.rxq = s.chain.rxq ++ [(p.val, k)] ∧
           (port u p.val).rxSeq = seq ∧ (port u p.val).rx = [])) ∧
         (∀ r o, isSelf s k.dst = false → s.chain.rec_ = some r → 1 < k.hops.toNat → k.type ≠ pProbe → k.type ≠ pProbeResp →
           route s k.dst = some o → (port s o).st ≠ .training → leadsTo (.dataFlit p f ok) s (fun u =>
             Out.packet o { k with hops := k.hops - 1 } ∈ u.out ∧ u.chain.rxq = s.chain.rxq ∧ (port u p.val).rxSeq = seq))) ∧
       (judge s k = .stale → leadsTo (.dataFlit p f ok) s (fun u => sent s u p.val k.src pFenced k.tag 0 [] ∧
         u.chain.rxq = s.chain.rxq)) ∧
       (judge s k = .newer → leadsTo (.dataFlit p f ok) s (fun u => sent s u p.val x.partner pMember 0 0 [] ∧
         u.chain.heldRx = s.chain.heldRx ++ [(p.val, k)] ∧ u.chain.rxq = s.chain.rxq))) ∧
     ((¬whole ∨ (¬next ∧ (seq - (x.rxSeq + 1)).toNat < 0x8000)) →
       leadsTo (.dataFlit p f ok) s (fun u => u.out = s.out ++ [.flit p.val (x.rxSeq + 1) x.rxSeq 2 []] ∧
         (port u p.val).rxSeq = x.rxSeq ∧ u.chain.rxq = s.chain.rxq ∧
         (port u p.val).st = (if x.nakSeq = x.rxSeq + 1 ∧ 15 ≤ x.naks then .training else x.st))) ∧
     (whole → 0x8000 ≤ (seq - (x.rxSeq + 1)).toNat → leadsTo (.dataFlit p f ok) s (fun u => u.out = s.out ∧
       (port u p.val).rxSeq = x.rxSeq ∧ u.chain.rxq = s.chain.rxq))) ∧
   (∀ (p : Fin 40) seq s, linkLive s p.val = true →
     let x := port s p.val
     let again := x.txNakSeq = seq ∧ 15 ≤ x.txNaks
     (¬again → leadsTo (.nak p seq) s (fun u => (port u p.val).replay = x.replay ∧ (port u p.val).st = x.st ∧
       u.out = s.out ++ ((x.replay.filter (fun r => decide ((r.1 - seq).toNat < 0x8000))).map
         (fun r => Out.flit p.val r.1 x.rxSeq 0 r.2)))) ∧
     (again → leadsTo (.nak p seq) s (fun u => (port u p.val).st = .training ∧ (port u p.val).replay = x.replay ∧
       onlyPort s u p.val)))) ∧
  ((∀ (p : Fin 40) (l : Fin 9) s, portUp s p.val = true →
     let x := port s p.val
     let y := x.degraded ++ [l.val]
     let lanes := ((List.range 9).filter (fun k => !y.contains k)).length
     let four := x.narrow = true ∨ 2 ≤ x.degraded.length
     (l.val ∈ x.degraded → exec (.laneDegrade p l) s = .next s) ∧
     (x.degraded = [] → x.narrow = false → l.val ≠ 8 → leadsTo (.laneDegrade p l) s (fun u => (port u p.val).moving = true ∧
       (port u p.val).degraded = [l.val] ∧ (port u p.val).st = x.st ∧ Detected s u cLaneSwap 6 p.val ∧
       ∃ o, u.out = s.out ++ [.flit p.val x.txSeq x.rxSeq 3 []] ++ o)) ∧
     (x.degraded = [] → x.narrow = false → l.val = 8 → exec (.laneDegrade p l) s = .next (setPort s p.val { x with degraded := [8] })) ∧
     (l.val ∉ x.degraded → x.degraded ≠ [] ∨ four →
       (lanes < 4 → leadsTo (.laneDegrade p l) s (fun u => (port u p.val).st = .down ∧ Detected s u cPortDown 6 p.val)) ∧
       (4 ≤ lanes → ¬four → leadsTo (.laneDegrade p l) s (fun u => (port u p.val).st = .training ∧ (port u p.val).degraded = y ∧
         Detected s u cWidth4 6 p.val)) ∧
       (4 ≤ lanes → four → leadsTo (.laneDegrade p l) s (fun u => (port u p.val).degraded = y ∧ onlyPort s u p.val ∧
         (port u p.val).st = (if l.val ∈ lanesUsed x then .training else x.st))))) ∧
   (∀ (p : Fin 40) s, linkLive s p.val = true →
     ((port s p.val).moving = true → exec (.laneControl p) s =
       .next (setPort s p.val { port s p.val with moving := false, spareUsed := true })) ∧
     ((port s p.val).moving = false → (port s p.val).st = .up → exec (.laneControl p) s =
       .next (setPort s p.val { port s p.val with txSpare := true }))) ∧
   (∀ (p : Fin 40) s, (port s p.val).st = .training →
     let x := port s p.val
     (portClock s p.val = true → leadsTo (.portRetrain p true) s (fun u => onlyPort s u p.val ∧
       (port u p.val).st = (if x.narrow = true ∨ 2 ≤ x.degraded.length then .up4 else .up) ∧ (port u p.val).replay = x.replay ∧
       (∀ r l, x.replay = r :: l → u.out = s.out ++ ((x.replay.filter (fun e => decide ((e.1 - r.1).toNat < 0x8000))).map
         (fun e => Out.flit p.val e.1 x.rxSeq 0 e.2))))) ∧
     leadsTo (.portDown p) s (fun u => (port u p.val).st = .down ∧ (port u p.val).replay = [] ∧ Detected s u cPortDown 6 p.val))) ∧
  (∀ (p : Fin 40) s, linkLive s p.val = true →
    let x := port s p.val
    leadsTo (.heartbeatSend p) s (fun u => u.chain = s.chain ∧ ∃ hb, u.out = s.out ++ [.beat p.val hb] ∧ hb.addr = s.chain.addr ∧
      hb.epoch = s.chain.epoch ∧ hb.port.toNat = p.val ∧ hb.serial = s.sec.fuses.serial) ∧
    (∀ hb, (s.chain.st = .fenced ∨ verdict s hb.epoch hb.addr = .accept) → leadsTo (.heartbeat p hb) s (fun u =>
      let y := port u p.val
      y.miss = 0 ∧ y.partner = (if hb.addr = 0xFFFF#16 then 0 else hb.addr) ∧ y.pport = hb.port ∧
      (hb.state.toNat = 4 → y.st = .partnerFenced ∧ hb.addr ∈ u.chain.noRoute) ∧
      (hb.state.toNat ≠ 4 → x.st ≠ .partnerFenced → y.st = x.st))) ∧
    (∀ hb, s.chain.st ≠ .fenced → verdict s hb.epoch hb.addr = .stale →
      leadsTo (.heartbeat p hb) s (fun u => sent s u p.val hb.addr pFenced 0 0 [] ∧ (port u p.val).miss = x.miss)) ∧
    (∀ hb, s.chain.st ≠ .fenced → verdict s hb.epoch hb.addr = .newer →
      leadsTo (.heartbeat p hb) s (fun u => sent s u p.val x.partner pMember 0 0 [] ∧ (p.val, hb) ∈ u.chain.heldBeats ∧
        (port u p.val).miss = x.miss)) ∧
    leadsTo (.heartbeatMiss p) s (fun u => (port u p.val).miss = x.miss + 1 ∧ (port u p.val).st = x.st ∧ sameMemory s u ∧
      (x.miss + 1 = deadCount s → x.partner ≠ 0 → s.chain.st ≠ .fenced →
        (∀ r, isHead s = true → s.chain.rec_ = some r → (∃ m ∈ r.members ++ r.spares, m.1 = x.partner) →
          (∀ q ∈ s.chain.probes, q.1 ≠ x.partner) → u.chain.probes = s.chain.probes ++ [(x.partner, s.plat.devTime)]) ∧
        (∀ o, isHead s = false → probeRoute (setPort s p.val { x with miss := x.miss + 1 }) s.chain.head = some o →
          (port s o).st ≠ .training → sent s u o s.chain.head pProbe 0 (x.partner.setWidth 64) []))))

/-- Requests of other devices are performed on NS memory and answered: READ with the bytes, WRITE under its mask with ACK, ATOMIC with
the old value, TOKEN with the state it found; one that may not be performed is refused with its code and changes no memory; one to a
sleeping lathe or to a row that is being copied stays at the head of its channel. Responses end the requests of this device: data to the
load that waits, ACK and errors to the store, ACK and errors to a copy's line (R294, R387, R408, R411, R552). -/
def Obligations.ChainRequests : Prop :=
  ((∀ (p : Fin 40) k o s, Arrives s p pRead k o →
     let a := k.addr.toNat
     let n := leNat (k.payload.take 2)
     (arrival s a n = .ok → poisonAt s a n = none → QuietBus s a n → leadsTo (.readPkt p) s (fun u =>
       sent s u o k.src pReadResp k.tag 0 ((List.range n).map (fun i => byteAt s (a + i))) ∧ sameMemory s u)) ∧
     (arrival s a n = .ok → poisonAt s a n ≠ none → leadsTo (.readPkt p) s (fun u =>
       sent s u o k.src pErr k.tag 3 [] ∧ sameMemory s u)) ∧
     (∀ c, arrival s a n = .refuse c → leadsTo (.readPkt p) s (fun u =>
       sent s u o k.src pErr k.tag (BitVec.ofNat 64 c) [] ∧ (c ≠ 2 → sameMemory s u) ∧ sameButLog s u)) ∧
     (arrival s a n = .later → leadsTo (.readPkt p) s (fun u => u.chain.rxq = s.chain.rxq ∧ u.out = s.out ∧ sameMemory s u))) ∧
   (∀ (p : Fin 40) k o s, Arrives s p pWrite k o →
     let a := k.addr.toNat
     let n := k.payload.length
     (arrival s a n = .ok → QuietBus s a n → leadsTo (.writePkt p) s (fun u => sent s u o k.src pAck k.tag 0 [] ∧
       (∀ i (h : i < n), byteAt u (a + i) = if 64 ≤ i ∨ k.ext.getLsbD i = true then k.payload[i] else byteAt s (a + i)) ∧
       sameOutside s u a n)) ∧
     (∀ c, arrival s a n = .refuse c → leadsTo (.writePkt p) s (fun u =>
       sent s u o k.src pErr k.tag (BitVec.ofNat 64 c) [] ∧ (c ≠ 2 → sameMemory s u) ∧ sameButLog s u)) ∧
     (arrival s a n = .later → leadsTo (.writePkt p) s (fun u => u.chain.rxq = s.chain.rxq ∧ u.out = s.out ∧ sameMemory s u))) ∧
   (∀ r ∈ amoOps, ∀ (p : Fin 40) k o s, Arrives s p pAtomic k o → (k.ext &&& 0xFF#64).toNat = r.2.1 →
     let a := k.addr.toNat
     let n := r.2.2.2
     let old : BitVec (8 * n) := (loaded s a n false).setWidth (8 * n)
     let x : BitVec (8 * n) := BitVec.ofNat (8 * n) (leNat (k.payload.take n))
     let cmp : BitVec (8 * n) := BitVec.ofNat (8 * n) (leNat ((k.payload.drop n).take n))
     let new := match r.2.2.1 with
       | .add => old + x
       | .swap => x
       | .cas => if old = cmp then x else old
     (arrival s a n = .ok → poisonAt s a n = none → QuietBus s a n → leadsTo (.atomicPkt p) s (fun u =>
       sent s u o k.src pReadResp k.tag 0 ((List.range n).map (fun i => byteAt s (a + i))) ∧
       (loaded u a n false).setWidth (8 * n) = new ∧ sameOutside s u a n)) ∧
     (arrival s a n = .ok → poisonAt s a n ≠ none → leadsTo (.atomicPkt p) s (fun u =>
       sent s u o k.src pErr k.tag 3 [] ∧ sameMemory s u)) ∧
     (∀ c, arrival s a n = .refuse c → leadsTo (.atomicPkt p) s (fun u =>
       sent s u o k.src pErr k.tag (BitVec.ofNat 64 c) [] ∧ (c ≠ 2 → sameMemory s u) ∧ sameButLog s u))) ∧
   (∀ (p : Fin 40) k o s, Arrives s p pToken k o → s.fer.handoffs = [] →
     let a : Word := k.addr.setWidth 64
     let check := tokenCheck s ⟨.ns, none⟩ a
     (check = .ok ∨ (∃ l, check = .wake l) → leadsTo (.tokenPacket p) s (fun u =>
       sent s u o k.src pAck k.tag (BitVec.ofNat 64 (dGet s k.addr.toNat dState 1)) [] ∧
       ∃ v, exec (if k.ext.getLsbD 0 then .armToken .ns a else .signalToken .ns a) s = .next v ∧ sameMemory v u ∧
         (check = .ok → u.lathes = v.lathes))) ∧
     (∀ c v, check = .trap c v → leadsTo (.tokenPacket p) s (fun u =>
       sent s u o k.src pErr k.tag (if c = xWorld then 2 else 1) [] ∧ (c ≠ xWorld → sameMemory s u) ∧ sameButLog s u)))) ∧
  ((∀ (p : Fin 40) k o s t q, Answers s p pReadResp k o → o.origin = .load t →
     (s.thr t).loads.find? (fun x => x.tag == some o.tag) = some q → leadsTo (.readResp p) s (fun u =>
       let d := if k.payload.length = 64 ∧ q.size < 64 then (k.payload.drop (q.addr.toNat % 64)).take q.size else k.payload
       (u.thr t).g = (s.thr t).g ∧ wokenOr (u.thr t).st (s.thr t).st ∧ closed s u o ∧
       (u.thr t).loads = (s.thr t).loads.map (fun x =>
         if x.tag == some o.tag then { x with tag := none, val := some (extend q.size q.signed (leNat (forward q d))) } else x))) ∧
   (∀ (p : Fin 40) k o s t q, Answers s p pErr k o → o.origin = .load t → k.ext.toNat < 256 → k.ext ≠ 3 →
     (s.thr t).loads.find? (fun x => x.tag == some o.tag) = some q → leadsTo (.errorResp p) s (fun u =>
       (u.thr t).g = (s.thr t).g ∧ closed s u o ∧ (u.thr t).loads = (s.thr t).loads.filter (fun x => x.tag != some o.tag) ∧
       (u.thr t).late = (s.thr t).late ++ [q.late (if k.ext = 2 then xWorld else xVmem)])) ∧
   (∀ (p : Fin 40) k o s t q, Answers s p pErr k o → o.origin = .load t → k.ext = 3 →
     (s.thr t).loads.find? (fun x => x.tag == some o.tag) = some q → leadsTo (.errorResp p) s (fun u =>
       (u.thr t).st = .waiting .poison ∧ (u.thr t).g = (s.thr t).g ∧ closed s u o)) ∧
   (∀ (p : Fin 40) k o s t e, o.origin = .store t e → (s.thr t).inflight.any (fun q => q.tag == some o.tag) = true →
     let rest := (s.thr t).inflight.filter (fun q => q.tag != some o.tag)
     (Answers s p pAck k o → leadsTo (.ackPkt p) s (fun u => (u.thr t).inflight = rest ∧ (u.thr t).late = (s.thr t).late ∧
       wokenOr (u.thr t).st (s.thr t).st ∧ closed s u o)) ∧
     (Answers s p pErr k o → k.ext.toNat < 256 → leadsTo (.errorResp p) s (fun u => (u.thr t).inflight = rest ∧
       (u.thr t).late = (s.thr t).late ++ [e.late (if k.ext = 2 then xWorld else xVmem)] ∧ closed s u o))) ∧
   (∀ (p : Fin 40) k o s q n c m, o.origin = .mover q n → s.cmd? q n.toNat = some c → c.wait = .move m → m.tag = some o.tag →
     s.host.cmds.find? (fun c => c.q == q && c.n == n) = some c → c.op ≠ 0x20 →
     (Answers s p pAck k o → m.n ≤ m.at_ + m.piece → leadsTo (.ackPkt p) s (fun u => sameMemory s u ∧
       ended u q n.toNat c stOk 0 (BitVec.ofNat 64 (m.at_ + m.piece)))) ∧
     (Answers s p pErr k o → k.ext.toNat < 256 → leadsTo (.errorResp p) s (fun u => sameMemory s u ∧
       ended u q n.toNat c stAborted 0 (BitVec.ofNat 64 m.at_)))))

/-- The domain. A FENCED answer fences this device, which holds FAULT_N and keeps no request (R421). A record in one packet is adopted by
a device without one that it lists, or when it is newer; a newer one that lists the address for another device fences this one; at equal
epoch only its topology is taken; it discards the copies of remote lines (R415 to R417). The head admits a device as the lowest free spare
and removes the devices that leave or are found dead, the lowest spare taking a member's address, one epoch for each change (R414, R417,
R418). Probes are answered, and an answer takes the reporter's silent ports down. When the head has not answered, the part of the domain
with more than half of the members goes on under its first member after the old head, and a device of less than half fences itself
(R419). A returned packet takes the fenced hop out of the routes (R421). -/
def Obligations.ChainMembership : Prop :=
  ((∀ (p : Fin 40) k s, rxHead s p.val pFenced = some k → s.chain.st ≠ .fenced → leadsTo (.fencedPkt p) s (fun u =>
     u.chain.st = .fenced ∧ u.plat.faultHold = true ∧ u.chain.rxq = [] ∧
     (s.chain.outst = [] → s.fer.works = [] → u.chain.outst = [] ∧ Detected s u cFenced 12 s.chain.addr.toNat))) ∧
   (∀ (p : Fin 40) k s r, rxHead s p.val pMember = some k → k.payload ≠ [] → s.chain.parts = [] → s.chain.st ≠ .fenced →
     4 + leNat (k.payload.take 4) ≤ k.payload.length → memberOf (k.payload.drop 4) = r → IdleChain s →
     let listed := (r.members ++ r.spares).find? (fun m => m.2 == s.sec.fuses.serial)
     let taken (u : State) (a : BitVec 16) : Prop := inForce u r.epoch r.head r.members r.spares ∧ u.chain.addr = a ∧
       u.chain.st = (if a.toNat < 0x8000 then .member else .spare) ∧ u.chain.adoptedAt = s.plat.devTime ∧ u.mem.rcopies = [] ∧
       sameMemory s u
     (∀ a, s.chain.rec_ = none → listed = some (a, s.sec.fuses.serial) → leadsTo (.memberPkt p) s (fun u => taken u a)) ∧
     (∀ o, s.chain.rec_ = some o →
       (r.epoch = o.epoch → leadsTo (.memberPkt p) s (fun u => u.chain.rec_ = some { o with topo := r.topo } ∧
         u.chain.addr = s.chain.addr ∧ u.chain.epoch = s.chain.epoch ∧ sameMemory s u)) ∧
       (0x8000 ≤ (r.epoch - o.epoch).toNat → leadsTo (.memberPkt p) s (fun u => u.chain.rec_ = some o ∧
         u.chain.epoch = s.chain.epoch ∧ sameMemory s u)) ∧
       (r.epoch ≠ o.epoch → (r.epoch - o.epoch).toNat < 0x8000 →
         let other := (r.members ++ r.spares).any (fun m => m.1 == s.chain.addr && m.2 != s.sec.fuses.serial)
         (other = true → leadsTo (.memberPkt p) s (fun u => u.chain.st = .fenced ∧ u.plat.faultHold = true)) ∧
         (∀ a, other = false → listed = some (a, s.sec.fuses.serial) → leadsTo (.memberPkt p) s (fun u => taken u a)) ∧
         (other = false → listed = none → leadsTo (.memberPkt p) s (fun u => u.chain.st = .unaddressed ∧ u.chain.rec_ = none ∧
           u.chain.addr = 0xFFFF#16 ∧ sameMemory s u)))))) ∧
  (∀ s r, s.chain.rec_ = some r → isHead s = true → Listed s r → IdleChain s → r.head = s.chain.addr →
    (∀ (p : Fin 40) k, rxHead s p.val pJoin = some k → (∀ m ∈ r.members ++ r.spares, m.2 ≠ k.ext) →
      ((r.members ++ r.spares).length < 4096 → leadsTo (.joinPkt p) s (fun u => ∃ a : BitVec 16, 0x8000 ≤ a.toNat ∧
        (∀ m ∈ r.spares, m.1 ≠ a) ∧ (∀ b : BitVec 16, 0x8000 ≤ b.toNat → b < a → ∃ m ∈ r.spares, m.1 = b) ∧
        inForce u (r.epoch + 1) r.head r.members (r.spares ++ [(a, k.ext)]) ∧ u.chain.addr = s.chain.addr)) ∧
      (4096 ≤ (r.members ++ r.spares).length → leadsTo (.joinPkt p) s (fun u => u.chain.rec_ = some r ∧
        u.chain.epoch = s.chain.epoch))) ∧
    (∀ d, d ≠ s.chain.addr → (∃ m ∈ r.members ++ r.spares, m.1 = d) →
      let leaves (u : State) : Prop := u.chain.addr = s.chain.addr ∧
        ((r.spares = [] ∨ ∀ m ∈ r.members, m.1 ≠ d) → inForce u (r.epoch + 1) r.head (r.members.filter (fun m => m.1 != d))
          (r.spares.filter (fun m => m.1 != d))) ∧
        (∀ b, (∃ m ∈ r.members, m.1 = d) → b ∈ r.spares → (∀ m ∈ r.spares, m ≠ b → b.1 < m.1) →
          inForce u (r.epoch + 1) r.head (r.members.map (fun m => if m.1 = d then (d, b.2) else m))
            (r.spares.filter (fun m => m.1 != b.1)))
      (∀ (p : Fin 40) k, rxHead s p.val pLeave = some k → k.src = d → leadsTo (.leavePkt p) s leaves) ∧
      (s.chain.probes.any (fun q => q.1 == d) = true → leadsTo (.probeTimeout d) s leaves))) ∧
  ((∀ (p : Fin 40) k s o, rxHead s p.val pProbe = some k → k.ext.setWidth 16 = s.chain.addr → s.chain.st ≠ .fenced →
     probeRoute s k.src = some o → (port s o).st ≠ .training → leadsTo (.probePkt p) s (fun u =>
       sent s u o k.src pProbeResp 0 k.ext [] ∧ sameMemory s u)) ∧
   (∀ (p : Fin 40) k s, rxHead s p.val pProbeResp = some k → IdleChain s → leadsTo (.probeResp p) s (fun u =>
     let a : BitVec 16 := k.ext.setWidth 16
     u.chain.probes = s.chain.probes.filter (fun q => q.1 != a) ∧ sameMemory s u ∧
     (a = s.chain.head → u.chain.headMiss = 0 ∧ u.chain.headProbe = false) ∧
     ∀ q, q < 40 → (port u q).st =
       (if portOn s q = true ∧ (port s q).partner = a ∧ deadCount s ≤ (port s q).miss then .down else (port s q).st))) ∧
   (∀ s r reach, s.chain.rec_ = some r → s.chain.headProbe = true → s.chain.st ≠ .fenced →
     let ms := chainOrder r.members
     let got := ms.filter (fun a => a == s.chain.addr || reach.contains a)
     let half := ms.length = 2 * got.length
     let first := (got.find? (fun a => s.chain.head < a)).orElse (fun _ => got.head?)
     let quorum := ms.length < 2 * got.length ∨ (half ∧ ∃ a, ms.head? = some a ∧ a ∈ got)
     (¬quorum → leadsTo (.headProbeTimeout reach) s (fun u => u.chain.st = .fenced ∧ u.plat.faultHold = true)) ∧
     (quorum → first ≠ some s.chain.addr → leadsTo (.headProbeTimeout reach) s (fun u => u.chain.st = s.chain.st ∧
       u.chain.rec_ = some r ∧ u.chain.headProbe = false ∧ u.chain.headMiss = 0)) ∧
     (quorum → first = some s.chain.addr → Listed s r → IdleChain s → r.head = s.chain.head → r.head ≠ s.chain.addr →
       (∃ m ∈ r.members ++ r.spares, m.1 = r.head) → leadsTo (.headProbeTimeout reach) s (fun u => ∃ q, u.chain.rec_ = some q ∧
         q.head = s.chain.addr ∧ q.epoch = r.epoch + 2 ∧ u.chain.head = s.chain.addr ∧ u.chain.st = .member))) ∧
   (∀ (p : Fin 40) k s, rxHead s p.val pReroute = some k → s.chain.parts = [] → 32 + leNat ((k.payload.drop 10).take 2) ≤ k.payload.length →
     leadsTo (.reroutePkt p) s (fun u => (port u p.val).st = .partnerFenced ∧ (port s p.val).partner ∈ u.chain.noRoute ∧
       u.chain.addr = s.chain.addr)))

/-- Enumeration. CHAIN_ENUMERATE on a device with no port makes it head of a domain of its own at address 1, or 0x8000 for a spare; with
an addressed neighbour it asks to join, else it sends its claim; it is refused while one is under way and ends at once in a domain. ENUM
gives an unaddressed device the next address and goes on, its port table going back; a 4,097th device gets none. A CLAIM passes on, is
taken over by a strapped device, gives way to one of precedence. TOPO is collected until every device counted has sent one, and the
record of epoch 1 takes force (R413, Table 11-6). CHAIN_STATUS reports its block (Table 11-8) and CHAIN_RELEASE gives the address up
(R422, R424). -/
def Obligations.ChainEnumeration : Prop :=
  ((∀ q n s c, Starts s 0x80 q n c .ns → s.chain.st = .unaddressed → s.chain.joining = false → s.chain.rec_ = none →
     (IdleChain s → (∀ p, p < 40 → portOn s p = false) →
       let a : BitVec 16 := if (ctlGet s rChnCtl).getLsbD 0 then 0x8000 else 1
       leadsTo (.chainEnumerate q n) s (fun u => u.chain.addr = a ∧ u.chain.head = a ∧ u.chain.epoch = 1 ∧
         u.chain.st = (if (ctlGet s rChnCtl).getLsbD 0 then .spare else .member) ∧
         (∃ r, u.chain.rec_ = some r ∧ r.members ++ r.spares = [(a, s.sec.fuses.serial)]) ∧ ended u q n c stOk 1 c.aux)) ∧
     (∀ p, addressedPort s = some p → (port s p).st ≠ .training → leadsTo (.chainEnumerate q n) s (fun u =>
       u.chain.joining = true ∧ sent s u p 0xFFFF pJoin 0 s.sec.fuses.serial [] ∧
       u.cmd? q n = some { c with wait := .enumeration })) ∧
     (addressedPort s = none → portUp s 0 = true → leadsTo (.chainEnumerate q n) s (fun u =>
       u.chain.claiming = true ∧ u.chain.st = .enumerating ∧ sent s u 0 0xFFFF pClaim 0 s.sec.fuses.serial [] ∧
       u.cmd? q n = some { c with wait := .enumeration }))) ∧
   (∀ q n s c w, Starts s 0x80 q n c w →
     (w = .s → leadsTo (.chainEnumerate q n) s (fun u => ended u q n c stWorld 0 0 ∧ u.chain = s.chain)) ∧
     (w = .ns → s.chain.st = .enumerating ∨ (s.chain.st = .unaddressed ∧ s.chain.joining = true) →
       leadsTo (.chainEnumerate q n) s (fun u => ended u q n c stBusy 0 0 ∧ u.chain = s.chain)) ∧
     (w = .ns → s.chain.st = .member ∨ s.chain.st = .spare →
       leadsTo (.chainEnumerate q n) s (fun u => ended u q n c stOk 0 0 ∧ u.chain = s.chain)))) ∧
  (∀ (p : Fin 40) s, let o := if portOn s (mate p.val) = true then mate p.val else p.val
    portUp s p.val = true → (port s o).st ≠ .training →
    (∀ k, rxHead s p.val pEnum = some k → s.chain.st = .unaddressed → s.chain.addr = 0xFFFF#16 → s.chain.rec_ = none →
      let m := (k.ext &&& 0xFFFF#64).toNat
      let sp := (k.ext >>> 16 &&& 0xFFFF#64).toNat
      let n := (k.ext >>> 32 &&& 0xFFFF#64).toNat
      let spare := (ctlGet s rChnCtl).getLsbD 0
      (n < 4096 → m < 0xFFFF → sp < 0xFFFF → k.ext.toNat < 2 ^ 48 → leadsTo (.enumPkt p) s (fun u =>
        u.chain.addr.toNat = (if spare then sp else m) ∧ u.chain.epoch = 1 ∧ u.chain.head = k.src ∧ u.chain.st = .enumerating ∧
        Out.packet o { k with ext := k.ext + (if spare then 0x100010000#64 else 0x100000001#64) } ∈ u.out ∧
        ∃ y, Out.packet p.val y ∈ u.out ∧ y.type = pTopo ∧ y.dst = k.src ∧ y.src = u.chain.addr ∧ y.ext = s.sec.fuses.serial)) ∧
      (4096 ≤ n → leadsTo (.enumPkt p) s (fun u => Out.packet o k ∈ u.out ∧ u.chain.addr = 0xFFFF#16 ∧
        u.chain.st = .unaddressed))) ∧
    (∀ k, rxHead s p.val pEnum = some k → s.chain.st = .enumerating → s.chain.addr = s.chain.head → s.chain.addr ≠ 0xFFFF#16 →
      (p.val ≠ 0 ∨ portOn s 20 = false) → s.chain.found.length < (k.ext >>> 32 &&& 0xFFFF#64).toNat →
      leadsTo (.enumPkt p) s (fun u => u.chain.counted = (k.ext >>> 32 &&& 0xFFFF#64).toNat ∧ u.chain.rec_ = s.chain.rec_)) ∧
    (∀ k, rxHead s p.val pClaim = some k → s.chain.rec_ = none →
      (s.chain.claiming = false → takesOver s k = false → leadsTo (.claimPkt p) s (fun u => Out.packet o k ∈ u.out ∧
        u.chain.st = s.chain.st ∧ u.chain.claiming = false ∧ sameMemory s u)) ∧
      (takesOver s k = true → leadsTo (.claimPkt p) s (fun u => u.chain.claiming = true ∧ u.chain.st = .enumerating ∧
        ∃ y, Out.packet o y ∈ u.out ∧ y.type = pClaim ∧ y.ext = s.sec.fuses.serial ∧ y.addr.getLsbD 0 = true)) ∧
      (s.chain.claiming = true → k.ext ≠ s.sec.fuses.serial → k.payload ≠ leBytes 8 s.sec.fuses.serial.toNat →
        let first := precedes (k.addr.getLsbD 0) k.ext (s.plat.straps.getLsbD 0) s.sec.fuses.serial
        (first = true → leadsTo (.claimPkt p) s (fun u => Out.packet o k ∈ u.out ∧ u.chain.claiming = false ∧
          u.chain.st = .unaddressed ∧ ∀ c ∈ u.host.cmds, c.wait ≠ .enumeration)) ∧
        (first = false → leadsTo (.claimPkt p) s (fun u => u.out = s.out ∧ u.chain.claiming = true ∧
          u.chain.st = s.chain.st))))) ∧
  (∀ (p : Fin 40) k s, rxHead s p.val pTopo = some k →
    let found := s.chain.found.filter (fun m => m.1 != k.src) ++ [(k.src, k.ext)]
    (s.chain.rec_ = none → s.chain.st = .enumerating → s.chain.addr = s.chain.head →
      (s.chain.counted = 0 ∨ found.length < s.chain.counted → leadsTo (.topoPkt p) s (fun u => u.chain.found = found ∧
        u.chain.rec_ = none ∧ sameMemory s u)) ∧
      (0 < s.chain.counted → s.chain.counted ≤ found.length → IdleChain s → s.chain.joining = false → s.chain.claiming = false →
        (∀ m ∈ found, m.2 = s.sec.fuses.serial ↔ m.1 = s.chain.addr) → (∃ m ∈ found, m.1 = s.chain.addr) →
        leadsTo (.topoPkt p) s (fun u => inForce u 1 s.chain.addr (found.filter (fun m => decide (m.1.toNat < 0x8000)))
          (found.filter (fun m => decide (0x8000 ≤ m.1.toNat))) ∧ u.chain.addr = s.chain.addr ∧ sameMemory s u))) ∧
    (∀ r, s.chain.rec_ = some r → isHead s = true → leadsTo (.topoPkt p) s (fun u => sameMemory s u ∧
      u.chain.rec_ = some { r with topo := fillPartners (mergeTopo r.topo k.src (portsOf k.src k.payload)) }))) ∧
  ((∀ q n s c, Starts s 0x81 q n c .ns →
     let len := arg c 0x18 4
     let d := (statusBlock s).take len
     let b := BitVec.ofNat 64 (arg c 0x10 8)
     let result := s.chain.addr ++ s.chain.epoch
     (arg c 8 1 % 2 = 1 → c.linkLost = false → 0 < len → leadsTo (.chainStatus q n) s (fun u =>
       ended u q n c stOk result (BitVec.ofNat 64 d.length) ∧ sameMemory s u ∧ u.out = s.out ++ [.hostWrite b d])) ∧
     (arg c 8 1 % 2 = 0 → LocalRange s .ns b d.length → leadsTo (.chainStatus q n) s (fun u =>
       ended u q n c stOk result (BitVec.ofNat 64 d.length) ∧ (∀ k (h : k < d.length), byteAt u (localOf b + k) = d[k]) ∧
       sameOutside s u (localOf b) d.length))) ∧
   (∀ s, (statusBlock s).length = 384 ∧ (statusBlock s).take 8 = leBytes 8 (regPeek s .ns rChnStat).toNat ∧
     (∀ p, p < 40 → ((statusBlock s).drop (64 + 8 * p)).take 8 = leBytes 8 (regPeek s .ns (rChnPort p)).toNat)) ∧
   (∀ q n s c, Starts s 0x82 q n c .ns → (s.chain.st = .member ∨ s.chain.st = .spare ∨ s.chain.st = .fenced) →
     leadsTo (.chainRelease q n) s (fun u => u.chain.st = .unaddressed ∧ u.chain.addr = 0xFFFF#16 ∧
       u.chain.rec_ = none ∧ u.chain.epoch = 0 ∧ ended u q n c stOk 0 0 ∧ (s.chain.outst = [] → sameMemory s u) ∧
       (∀ o, s.chain.rec_.isSome = true → s.chain.st ≠ .fenced → isHead s = false → route s s.chain.head = some o →
         routeWaits s s.chain.head = false → (port s o).st ≠ .training → sent s u o s.chain.head pLeave 0 0 []))))

/-! ## Platform and start-up (01, 17) -/

namespace Sys2Proof.Claims

open Sys2Proof.Machine

/-- Nothing but bench management and what left the block has changed. -/
def onlyPlatform (s u : State) : Prop := u = { s with plat := u.plat, out := u.out }

/-- The device as one whose islands are all in reset, with its store and fuses kept (01 R36, R37). -/
structure InReset (s u : State) : Prop where
  stopped : u.plat.started = false
  notReady : u.plat.ready = false
  threads : u.threads = []
  cores : u.cores = []
  lathes : u.lathes = []
  memory : ∀ a, byteAt u a = 0
  queues : u.host = {}
  chain : u.chain = {}
  jobs : u.fer = {}
  faults : u.flt = {}
  fuses : u.sec.fuses = s.sec.fuses
  slots : u.store.imgA = s.store.imgA ∧ u.store.imgB = s.store.imgB ∧ u.store.sel0 = s.store.sel0 ∧ u.store.sel1 = s.store.sel1
  halves : u.store.half0.entries = s.store.half0.entries ∧ u.store.half1.entries = s.store.half1.entries

/-- The device is in the protective stop for cause `c`, with a stop unit of cause prot_stop written. -/
structure Stopped (s u : State) (c : StopCause) : Prop where
  stop : u.plat.stop = some c
  stage : u.plat.stage = 0xE#4
  fault : u.plat.faultHold = true
  stopUnit : u.store.stops = putStop s.store.stops (.stop (nextStop s.store) cProtStop 0 0 s.plat.devTime)
  reset : InReset s u

/-- No handling is in progress or queued. -/
def NoFault (s : State) : Prop := s.flt.cur = none ∧ s.flt.queue = []

end Sys2Proof.Claims

/-- Clocks and the timer: a held island's clock stands until resumed, bench management's runs always (R21); a tick adds 1 to DEV_TIME
(R27); a chain reference clock that comes or goes may move the source of DEV_TIME, which is logged, each HBM stack following by its own
relock, or with it before the start; one that goes takes down its bench die's ports and MRDIMM channels (R28, R43, R44). A read of the low
half of DEV_TIME latches the upper half for the next read of it (R31). SMBus and JTAG: a block read answers with four bytes of the
register its code names, 0 for codes it lacks; a write changes no register (R48); IDCODE shifts out 0x100485BB, BYPASS delays by one bit,
SAMPLE/PRELOAD captures the pins and loads the cells; EXTEST and HIGHZ act on the pins only while PERST_N is low (R50, R51). -/
def Obligations.ClocksAndManagement : Prop :=
  ((∀ i s,
     (s.plat.started = true → (∀ d, i ≠ .management d) → leadsTo (.clockHold i) s (fun u =>
       i ∈ u.plat.heldClocks ∧ onlyPlatform s u ∧ u.plat = { s.plat with heldClocks := u.plat.heldClocks } ∧
       (∀ j, j ≠ i → (j ∈ u.plat.heldClocks ↔ j ∈ s.plat.heldClocks)))) ∧
     (∀ d, i = .management d → exec (.clockHold i) s = .next s) ∧
     leadsTo (.clockResume i) s (fun u => i ∉ u.plat.heldClocks ∧ (∀ j, j ≠ i → (j ∈ u.plat.heldClocks ↔ j ∈ s.plat.heldClocks)) ∧
       (s.pwr.posted = [] → s.fer.handoffs = [] → sameMemory s u ∧ u.ctl = s.ctl ∧
         ∀ t, wokenOr (u.thr t).st (s.thr t).st ∧ (u.thr t).pc = (s.thr t).pc ∧ (u.thr t).g = (s.thr t).g))) ∧
   (∀ s, leadsTo .devTimeTick s (fun u => u.plat.devTime = s.plat.devTime + 1 ∧ u.threads = s.threads ∧ u.mem = s.mem ∧
     u.ctl = s.ctl ∧ u.out = s.out ∧ (u.plat.smbAt = s.plat.smbAt ∨ u.plat.smbAt = s.plat.devTime + 1) ∧
     (s.plat.devTime + 1 - u.plat.smbAt).toNat < 1000000)) ∧
   (∀ (c : Fin 2) present s, leadsTo (.clockSourceChange c present) s (fun u =>
     let stays := present = true ∨ clockDown s c.val = true
     u.plat.cref0 = (if c = 0 then present else s.plat.cref0) ∧ u.plat.cref1 = (if c = 1 then present else s.plat.cref1) ∧
     u.plat.timeSrc = (if u.plat.cref0 then 0 else if u.plat.cref1 then 1 else 2) ∧ u.plat.devTime = s.plat.devTime ∧
     (u.plat.timeSrc ≠ s.plat.timeSrc → s.plat.started = true →
       ∀ k, k < 8 → mget s.plat.hbmRef k 0 ≠ u.plat.timeSrc.toNat → k ∈ u.plat.hbmDue) ∧
     (u.plat.timeSrc ≠ s.plat.timeSrc → s.plat.started = false → ∀ k, k < 8 → mget u.plat.hbmRef k 0 = u.plat.timeSrc.toNat) ∧
     (u.plat.timeSrc ≠ s.plat.timeSrc → s.plat.started = true → stays → Detected s u cClock 11 0) ∧
     (u.plat.timeSrc = s.plat.timeSrc → stays → onlyPlatform s u) ∧ (present = false → clockDown u c.val = true))) ∧
   (∀ (k : Fin 8) s, k.val ∈ s.plat.hbmDue → leadsTo (.hbmPllRelock k) s (fun u =>
     mget u.plat.hbmRef k.val 0 = s.plat.timeSrc.toNat ∧ (∀ j, j ≠ k.val → mget u.plat.hbmRef j 0 = mget s.plat.hbmRef j 0) ∧
     u.plat.hbmDue = s.plat.hbmDue.filter (fun j => j != k.val) ∧ (u.plat.hbmDue = [] → Detected s u cClock 11 0) ∧
     (u.plat.hbmDue ≠ [] → onlyPlatform s u))) ∧
   (∀ (b : Fin 2) s, exec (.chainRefclkLoss b) s = exec (.clockSourceChange b false) s ∧
     (s.plat.started = true → clockDown s b.val = false → leadsTo (.chainRefclkLoss b) s (fun u => clockDown u b.val = true ∧
       (∀ k, k < 20 → (port u (20 * b.val + k)).st = .down ∧
         (port u (20 * (1 - b.val) + k)).st = (port s (20 * (1 - b.val) + k)).st) ∧
       (∀ c, c < 12 → (mrdUp u c = false ↔ (c / 6 = b.val ∨ mrdUp s c = false))) ∧ sameMemory s u ∧
       ctlGet s rFltSeq ≠ ctlGet u rFltSeq))) ∧
   (∀ (b : Fin 2) s, leadsTo (.chainRefclkReturn b) s (fun u => clockDown u b.val = false ∧
     clockDown u (1 - b.val) = clockDown s (1 - b.val) ∧ u.chain.ports = s.chain.ports ∧ sameMemory s u)) ∧
   (∀ a s, reachesReg s a rDevTime 4 → reachesReg s a (rDevTime + 4) 4 →
     leadsTo (.devTimeLowRead a) s (fun u => ∃ v : Word, u.out = s.out ++ [.readData a (v &&& 0xFFFFFFFF#64)] ∧
       v.toNat ≤ max s.plat.devTime.toNat (mget s.plat.lastTime (agentId a).toNat 0).toNat ∧
       (mget s.plat.lastTime (agentId a).toNat 0).toNat ≤ v.toNat ∧ s.plat.devTime.toNat ≤ v.toNat + 20 ∧
       mget? u.plat.shadow (agentId a).toNat = some ((v >>> 32).setWidth 32) ∧ u.plat.devTime = s.plat.devTime ∧ sameMemory s u) ∧
     (∀ h, mget? s.plat.shadow (agentId a).toNat = some h → leadsTo (.devTimeHighRead a) s (fun u =>
       u.out = s.out ++ [.readData a (h.setWidth 64)] ∧ mget? u.plat.shadow (agentId a).toNat = none ∧ sameMemory s u)))) ∧
  ((∀ code s, leadsTo (.smbusBlockRead code) s (fun u => u = { s with out := u.out } ∧
     ∃ d pec, u.out = s.out ++ [.smbus d pec] ∧
       (code = 0 → d = [0x01, 0xA1, 0x48, 0x00]) ∧ (code = 1 → d = leBytes 4 s.plat.smbState.toNat) ∧
       (code = 2 → d = leBytes 4 s.plat.smbThermal.toNat) ∧ (code = 3 → d = leBytes 4 s.plat.smbFault.toNat) ∧
       (4 ≤ code.toNat → d = [0, 0, 0, 0]))) ∧
   (∀ code d s, leadsTo (.smbusWrite code d) s (fun u => u = { s with out := u.out })) ∧
   (∀ tdi s, leadsTo (.bypass tdi) s (fun u => onlyPlatform s u ∧ u.plat = { s.plat with tap := .bypass } ∧
     ∃ o, u.out = s.out ++ [.tdo o] ∧ o.length = tdi.length ∧
       (∀ k (h : k < o.length), o[k] = (if k = 0 then false else tdi.getD (k - 1) false)))) ∧
   (∀ s, leadsTo .idcode s (fun u => onlyPlatform s u ∧ u.plat = { s.plat with tap := .idcode } ∧
     ∃ o, u.out = s.out ++ [.tdo o] ∧ o.length = 32 ∧ (∀ k (h : k < o.length), o[k] = (0x100485BB : BitVec 32).getLsbD k))) ∧
   (∀ pins load s, leadsTo (.samplePreload pins load) s (fun u => onlyPlatform s u ∧ pinDrive u = .functional ∧
     ∃ d v, u.out = s.out ++ [.tdo d] ∧ u.plat = { s.plat with tap := .sample, bsr := d, bsrUpdate := v } ∧
       d.length = Config.scanCells ∧ v.length = Config.scanCells ∧ (∀ k (h : k < v.length), v[k] = load.getD k false) ∧
       (∀ k (h : k < d.length), (Config.scanSignal k = 7 → d[k] = s.plat.pwrOk) ∧ (Config.scanSignal k = 8 → d[k] = s.plat.perstN) ∧
         (Config.scanSignal k = 0 → d[k] = pins.getD k false)))) ∧
   (∀ s, leadsTo .extest s (fun u => u = { s with plat := u.plat } ∧
     pinDrive u = (if s.plat.perstN then .functional else .cells s.plat.bsrUpdate))) ∧
   (∀ s, leadsTo .highz s (fun u => u = { s with plat := u.plat } ∧
     pinDrive u = (if s.plat.perstN then .functional else .released))))

/-- The ends of a run: HOST_RESET puts every island in reset and keeps the store, the fuses and a stop in force; a failing rail
and a die at 115 C lead to the protective stop, from a start held for its temperatures too, with the stop's unit written unless the rail
is VIO_1V8; a loss of power keeps only the store and the fuses (R36 to R38, R524, R538). -/
def Obligations.RunEnds : Prop :=
  (∀ pwrOk perstN s, (pwrOk && perstN) = false → leadsTo (.hostReset pwrOk perstN) s (fun u => InReset s u ∧
    u.plat.pwrOk = pwrOk ∧ u.plat.perstN = perstN ∧ u.plat.stop = s.plat.stop ∧ u.plat.devTime = s.plat.devTime ∧
    u.store.stops = s.store.stops)) ∧
  (∀ rail s,
    (s.plat.pwrOk = true → (s.plat.stop = none ∨ s.plat.held ≠ none) → rail < 26 →
      (rail ≠ 1 → leadsTo (.railFault rail) s (fun u => Stopped s u (.rail rail) ∧ u.plat.pwrOk = true ∧ u.plat.held = none)) ∧
      (rail = 1 → leadsTo (.railFault rail) s (fun u => InReset s u ∧ u.plat.stop = some (.rail 1) ∧ u.plat.stage = 0xE#4 ∧
        u.plat.faultHold = true ∧ u.store.stops = s.store.stops))) ∧
    ((s.plat.pwrOk = false ∨ 26 ≤ rail) → exec (.railFault rail) s = .next s)) ∧
  (∀ d s, (s.plat.stop = none ∨ s.plat.held ≠ none) → leadsTo (.hardwareShutdown d) s (fun u => Stopped s u .thermal ∧ u.plat.therm = true)) ∧
  (∀ torn s, leadsTo (.powerLoss torn) s (fun u => u.plat = {} ∧ u.threads = [] ∧ u.ctl = [] ∧ u.host = {} ∧ u.chain = {} ∧
    (∀ a, byteAt u a = 0) ∧ u.sec.fuses = s.sec.fuses ∧ u.store.stops = s.store.stops ∧ u.store.sel0 = s.store.sel0 ∧
    u.store.sel1 = s.store.sel1 ∧ u.store.imgA = s.store.imgA ∧ u.store.imgB = s.store.imgB ∧ u.store.jqueue = [] ∧
    u.store.compact = none ∧ (s.store.compact = none → torn = 0 → u.store.half0 = s.store.half0 ∧ u.store.half1 = s.store.half1) ∧
    (s.store.compact = none → torn ≠ 0 → u.store.activeHalf = { s.store.activeHalf with torn := true, erased := false })))

/-- The start of the device. With no ROM that passes its self-check it fails with stage 0xF and the failure in DEV_START (R532);
with BOOT_SEL it enters a recovery boot (15 R497), or fails with HBM stack 0; a die at 85 C or more holds it in the protective stop until every die is
cooler (R525); a rail out of order stops it (R39). DEV_TIME begins at 0 (R27). DEV_READY follows stage 5, sets stage 6 and
records the time (R528). -/
def Obligations.StartUp : Prop :=
  (∀ env s, s.plat.started = false → (s.plat.stop = none ∨ s.plat.pwrOk = false ∨ s.plat.perstN = false) →
    (env.railBad = false → allBelow env.temps 85 = true → env.romOk = (false, false) → leadsTo (.deviceStart env) s (fun u =>
      u.plat.stage = 0xF#4 ∧ u.plat.bootFailed = true ∧ u.plat.ready = false ∧ wbits (ctlGet u rStart) 20 4 = 1 ∧
      u.plat.devTime = 0 ∧ u.plat.pwrOk = true ∧ u.plat.perstN = true ∧
      u.store.stops = putStop s.store.stops (.stop (nextStop s.store) cBootFailed 1 0 0))) ∧
    (env.railBad = false → allBelow env.temps 85 = true → (env.romOk.1 || env.romOk.2) = true → env.bootSel = true →
      (∀ k, env.hbmFail = some k → k ≠ 0) → leadsTo (.deviceStart env) s (fun u => u.plat.started = true ∧ u.plat.recovery = true ∧
        u.plat.stage = 2 ∧ u.plat.ready = false ∧ u.plat.devTime = 0 ∧ (ctlGet u rBoot).getLsbD 5 = true ∧
        (ctlGet u rBoot).getLsbD 3 = (if env.altRom then env.romOk.2 else !env.romOk.1) ∧ (∀ a, byteAt u a = 0) ∧
        u.store.imgA = s.store.imgA ∧ u.store.imgB = s.store.imgB)) ∧
    (env.railBad = false → allBelow env.temps 85 = true → (env.romOk.1 || env.romOk.2) = true → env.bootSel = true →
      env.hbmFail = some 0 → leadsTo (.deviceStart env) s (fun u => u.plat.stage = 0xF#4 ∧ u.plat.bootFailed = true ∧
        u.plat.ready = false ∧ wbits (ctlGet u rStart) 20 4 = 3)) ∧
    (env.railBad = false → allBelow env.temps 85 = false → leadsTo (.deviceStart env) s (fun u =>
      u.plat.stop = some .thermal ∧ u.plat.held = some env ∧ u.plat.stage = 0xE#4 ∧ u.plat.started = false ∧
      u.store.stops = s.store.stops)) ∧
    (env.railBad = true → leadsTo (.deviceStart env) s (fun u => u.plat.stop = some .order ∧ u.plat.stage = 0xE#4 ∧
      u.plat.started = false ∧ u.store.stops = putStop s.store.stops (.stop (nextStop s.store) cProtStop 0 0 0)))) ∧
  (∀ env s, s.plat.held = some env →
    (allBelow s.pwr.temps 85 = true → (env.romOk.1 || env.romOk.2) = true → env.bootSel = true →
      (∀ k, env.hbmFail = some k → k ≠ 0) → leadsTo .thermalStartHoldRelease s (fun u => u.plat.held = none ∧ u.plat.stop = none ∧
        u.plat.started = true ∧ u.plat.recovery = true)) ∧
    (allBelow s.pwr.temps 85 = true → env.romOk = (false, false) → leadsTo .thermalStartHoldRelease s (fun u =>
      u.plat.held = none ∧ u.plat.stage = 0xF#4 ∧ u.plat.bootFailed = true)) ∧
    (allBelow s.pwr.temps 85 = false → exec .thermalStartHoldRelease s = .next s)) ∧
  (∀ s, mayReady s = true → leadsTo .devReady s (fun u => u.plat.ready = true ∧
    u.plat.stage = 6 ∧ ctlGet u rStart = BitVec.ofNat 64 (s.plat.devTime.toNat / 1000 % 2 ^ 32 * 2 ^ 32 + 1) ∧
    u.sec.fuses = { s.sec.fuses with fused := s.plat.advance.getD s.sec.fuses.fused } ∧
    (s.store.stops = [] → s.plat.kept = [] → (∀ r, r ≠ rStart → ctlGet u r = ctlGet s r) ∧ u.threads = s.threads ∧ u.mem = s.mem))) ∧
  (∀ s, s.plat.ready = true → s.mem.zeroed < mrdGranules s → leadsTo .mrdimmGranuleZero s (fun u =>
    u = { s with mem := { s.mem with zeroed := s.mem.zeroed + 1 } }))

/-- The journal: a compaction erases the other half unless it is erased, writes the snapshot and its COMMIT there, makes that
half active and appends what waited, then erases the old half (R541, Table 17-7). What recovery replays is a copy: replaying a
journalled repair item and reading a record's bytes give what was stored. -/
def Obligations.Journal : Prop :=
  (∀ s, s.store.compact = none → (s.plat.compactDue = true ∨ s.store.jqueue ≠ []) →
    let other := if s.store.active then s.store.half0 else s.store.half1
    leadsTo .compaction s (fun u => u.store = { s.store with compact := some (if other.erased then .snapshot else .erase) } ∧
      u.plat.compactDue = false ∧ u.mem = s.mem)) ∧
  (∀ s, let other := !s.store.active
    let otherOf (x : Store) : Half := if s.store.active then x.half0 else x.half1
    let activeOf (x : Store) : Half := if s.store.active then x.half1 else x.half0
    (s.store.compact = some .erase → leadsTo .compactionStepDone s (fun u => otherOf u.store = {} ∧
      activeOf u.store = activeOf s.store ∧ u.store.compact = some .snapshot)) ∧
    (s.store.compact = some .snapshot → leadsTo .compactionStepDone s (fun u =>
      (otherOf u.store).entries.map (fun e => (e.type, e.payload)) =
        (otherOf s.store).entries.map (fun e => (e.type, e.payload)) ++ s.store.snapshot ∧
      activeOf u.store = activeOf s.store ∧ u.store.compact = some .commit ∧
      u.store.nextSeq = s.store.nextSeq + BitVec.ofNat 64 s.store.snapshot.length)) ∧
    (s.store.compact = some .commit → s.store.jqueue = [] → leadsTo .compactionStepDone s (fun u => u.store.active = other ∧
      activeOf u.store = activeOf s.store ∧ u.store.compact = some .eraseOld ∧
      ∃ e, (otherOf u.store).entries = (otherOf s.store).entries ++ [e] ∧ e.type = 4 ∧ e.seq = s.store.nextSeq ∧
        leNat ((e.payload.drop 8).take 4) = s.store.snapshot.length % 2 ^ 32)) ∧
    (s.store.compact = some .eraseOld → leadsTo .compactionStepDone s (fun u => otherOf u.store = {} ∧
      activeOf u.store = activeOf s.store ∧ u.store.compact = none))) ∧
  (∀ r : RepairItem, repairOf (repairBytes r) = r) ∧
  (∀ r : FaultRec, r.cls < 256 → r.count < 2 ^ 32 → r.duration < 2 ^ 32 → recOf (recBytes r) = r)

/-! ## Memory system, security, power (08, 15, 16) -/

namespace Sys2Proof.Claims

open Sys2Proof.Machine

/-- Nothing but what the device records of faults, the store's stop log and FLT_SEQ differ from `v`. -/
def onlyFaults (v u : State) : Prop := u = { v with flt := u.flt, ctl := u.ctl, store := u.store }

/-- The other registers of control space are as before. -/
def otherRegs (s u : State) (o : Nat) : Prop := ∀ r, r ≠ o → ctlGet u r = ctlGet s r

/-- Lathe `l` of `u` is cleared: no thread of it exists, its LM reads 0, and no other lathe's thread has changed.
The dirty lines of its LM cache are gone; other memory is as before. -/
structure LatheCleared (s u : State) (l : Nat) : Prop where
  threads : ∀ t : Tid, t.lathe.val = l → u.thr t = {}
  others : ∀ t : Tid, t.lathe.val ≠ l → (∀ m e x n, (s.thr t).st ≠ .waiting (.mbx m e x n)) → (u.thr t).pc = (s.thr t).pc ∧ (u.thr t).g = (s.thr t).g ∧ (u.thr t).task = (s.thr t).task
  scratch : ∀ a, lmBase l ≤ a → a < lmBase l + 0x1000000 → byteAt u a = 0
  outside : ∀ a, (a < lmBase l ∨ lmBase l + 0x1000000 ≤ a) → a / 64 ∉ dirtyLines s l → byteAt u a = byteAt s a

end Sys2Proof.Claims

/-- The memory system. What a scrub finds is logged: a correctable error may retire its DRAM row, an uncorrectable one drops a clean line
or poisons a sole copy (R321, R323); a row copy ends with the row on a spare, and the repair map says so (R323). MEM_MODE is pending until
no task is resident, and applies then: a thread at U and the host cannot set it, LM that becomes scratchpad reads 0, remote copies are
discarded (R311). MEM_RINV discards them when it completes (R316). A RAT write is in the register at once, in the fields that the
writer's world may change, and in force at RAT_WRITE_COMPLETE (R307, R308). -/
def Obligations.MemorySystem : Prop :=
  (∀ (e : ScrubEv) s,
    let log (v : State) (c : BitVec 16) : Prop := Detected s v c e.kind e.index.toNat
    let row := Config.dramRow e.kind.toNat e.index.toNat e.addr.toNat
    let old := rowOf s e.kind e.index row
    let due := s.mem.rowCopy.filter (fun c => c.1 == e.kind && c.2.1 == e.index)
    let recent := (old.times.filter (fun t => decide (s.plat.devTime.toNat < t.toNat + 24 * nsHour))).length + 1
    let retires (n : Nat) : Prop := old.spare = none ∧ (∀ c ∈ due, c.2.2 ≠ row) ∧ (3 ≤ recent ∨ 2 < n)
    let room : Prop := sparesUsed s e.kind e.index + due.length < (if e.kind = 4 then 1024 else 256)
    exec (.scrub { e with finding := .clean }) s = .next s ∧
    leadsTo (.scrub { e with finding := .uncorrectableClean }) s (fun u => log u cCleanReread ∧ sameMemory s u ∧
      u.mem.poison = s.mem.poison ∧ u.threads = s.threads) ∧
    leadsTo (.scrub { e with finding := .uncorrectableSole }) s (fun u => log u cPoisonSet ∧ sameMemory s u ∧
      localOf e.addr / 64 * 64 ∈ u.mem.poison ∧ (∀ l, l ≠ localOf e.addr / 64 * 64 → (l ∈ u.mem.poison ↔ l ∈ s.mem.poison))) ∧
    (∀ n, (n ≤ 1 ∧ e.kind ≠ 4 ∧ e.kind ≠ 5 → leadsTo (.scrub { e with finding := .corrected n }) s (fun u =>
        log u cEccSingle ∧ onlyFaults s u)) ∧
      ((e.kind = 4 ∧ n ≤ 4) ∨ (e.kind = 5 ∧ n ≤ 8) → leadsTo (.scrub { e with finding := .corrected n }) s (fun u =>
        sameMemory s u ∧ u.threads = s.threads ∧
        (retires n → room → u.mem.rowCopy = s.mem.rowCopy ++ [(e.kind, e.index, row)] ∧ log u cEccSingle) ∧
        (retires n → ¬room → u.mem.rowCopy = s.mem.rowCopy ∧ ctlGet u rFltSeq = ctlGet s rFltSeq + 2) ∧
        (¬retires n → u.mem.rowCopy = s.mem.rowCopy ∧ log u cEccSingle))))) ∧
  (∀ s k i r l, s.mem.rowCopy = (k, i, r) :: l → leadsTo .rowCopyComplete s (fun u => u.mem.rowCopy = l ∧
    (∃ x ∈ u.mem.rows, x.kind = k ∧ x.index = i ∧ x.row = r ∧ x.spare = some (sparesUsed s k i)) ∧
    ⟨k, 8, i, BitVec.ofNat 32 (sparesUsed s k i), r⟩ ∈ u.store.repair ∧
    (s.pwr.posted = [] → s.fer.handoffs = [] → Detected s u cDramRow k i.toNat ∧ sameMemory s u))) ∧
  ((∀ a v s, reachesReg s a rMemMode 8 → mayMode s a = true →
     let old := ctlGet s rMemMode
     let new := (if 12 < wbits v 4 4 then old &&& 0xF0#64 ||| v &&& 1#64 else v &&& 0xF1#64)
     leadsTo (.memModeWrite a v) s (fun u => onlyRegisters s u ∧ otherRegs s u rMemMode ∧ ctlGet u rMemMode =
       (if old.getLsbD 8 = false ∧ new.toNat = s.mem.lmCache * 16 + (if s.mem.modeE then 1 else 0) then old else new ||| 0x100#64))) ∧
   (∀ a v s, (a = .host ∨ ∃ t, a = .thread t ∧ (s.thr t).level = .u) → exec (.memModeWrite a v) s = .next s) ∧
   (∀ s, (ctlGet s rMemMode).getLsbD 8 = true →
     (anyResident s = true → exec .memModeApply s = .next s) ∧
     (anyResident s = false → leadsTo .memModeApply s (fun u => u.mem.modeE = (ctlGet s rMemMode).getLsbD 0 ∧
       u.mem.lmCache = wbits (ctlGet s rMemMode) 4 4 ∧ u.mem.rcopies = [] ∧
       ctlGet u rMemMode = ctlGet s rMemMode &&& 0xF1#64 ∧ otherRegs s u rMemMode ∧ u.threads = s.threads ∧
       (∀ a, (∀ l, l < 68 → a < lmBase l + lmScratch s ∨ lmBase l + lmScratch u ≤ a) → byteAt u a = byteAt s a) ∧
       (∀ l a, l < 68 → lmBase l + lmScratch s ≤ a → a < lmBase l + lmScratch u → byteAt u a = 0)))) ∧
   (∀ a s, reachesReg s a rRinv 8 → leadsTo (.memRinvGo a) s (fun u => u = { s with mem := { s.mem with rinvBusy := true } })) ∧
   (∀ s, s.mem.rinvBusy = true → leadsTo .invalidationComplete s (fun u =>
     u.mem = { s.mem with rinvBusy := false, rcopies := [] } ∧ u.threads = s.threads ∧ u.ctl = s.ctl ∧ u.lathes = s.lathes))) ∧
  (∀ a (n : Fin 256) lim v s,
    let r := if lim = true then rRatLim n.val else rRatBase n.val
    let k := 2 * n.val + (if lim = true then 1 else 0)
    let fields : Word := if lim = true then 0xFFFFFFFFF001 else 0xFFFFFFFFF7F1
    let may : Word := if agentWorld s a = .s then fields else if (ctlGet s (rRatBase n.val)).getLsbD 4 then 0
      else if lim = true then fields else fields &&& ~~~0x10#64
    let set : Word := if lim = false ∧ wbits v 5 2 = 3 then may &&& ~~~0x60#64 else may
    reachesReg s a r 8 → leadsTo (.ratWrite a n lim v) s (fun u =>
      ctlGet u r = (ctlGet s r &&& ~~~set) ||| (v &&& set) ∧ (∀ o, o ≠ r → o ≠ rVstat → ctlGet u o = ctlGet s o) ∧
      (∃ w, u.mem.ratPend = s.mem.ratPend ++ [(k, ctlGet u r, w)]) ∧ u.mem.rat = s.mem.rat ∧ sameButLog s u)) ∧
  (∀ s k v w r, s.mem.ratPend = (k, v, w) :: r → leadsTo .ratWriteComplete s (fun u =>
    u.mem = { s.mem with rat := u.mem.rat, ratPend := r } ∧ mget u.mem.rat k 0 = v ∧ u.ctl = s.ctl ∧
    (∀ j, j ≠ k → mget u.mem.rat j 0 = mget s.mem.rat j 0) ∧
    (∀ t, w = some t → (u.thr t).ratWrites = (s.thr t).ratWrites - 1 ∧ wokenOr (u.thr t).st (s.thr t).st) ∧
    (w = none → u.threads = s.threads)))

/-- Worlds: a write of SEC_BLK_WORLDk by an S agent leaves each of its blocks with a pending change where its bit differs from the
applied world and with none where it equals it; the change applies once its condition holds, a lathe cleared (R485 to R487,
Table 15-2). SEC_VSTAT's clear empties the log (R490). SEC_EXTEND replaces M6 or M7 by the hash of its old value and 64 bytes
that an S access can read, or is denied; an NS thread's write is logged (R503). A recovery image is checked on go, and one that fails is answered with its reason (Table 15-9). -/
def Obligations.Security : Prop :=
  (∀ a (k : Fin 3) v s, reachesReg s a (rWorld k.val) 8 →
    leadsTo (.worldWrite a k v) s (fun u => ((∀ l, (s.lathe l).queue = []) → u.ctl = s.ctl ∧ sameMemory s u) ∧
      (∀ i b, i < 64 → worldBlock k.val i = some b → blockWorld u b = blockWorld s b ∧
        mget? u.sec.pend b = (let w : World := if v.getLsbD i then .s else .ns
          if blockWorld s b = w then none else some w)) ∧
      (∀ b, (∀ i, i < 64 → worldBlock k.val i ≠ some b) → mget? u.sec.pend b = mget? s.sec.pend b))) ∧
  (∀ (l : Fin 68) w s, mget? s.sec.pend l.val = some w → latheResident s l.val = false → (s.lathe l.val).svc = .inService →
    leadsTo (.worldChangeApply l.val) s (fun u => (u.lathe l.val).world = w ∧ mget? u.sec.pend l.val = none ∧
      LatheCleared s u l.val ∧ (u.lathe l.val).tileFree = 4096 ∧ (u.lathe l.val).accFree = 2048 ∧
      (∀ a, (a < lmBase l.val ∨ lmBase l.val + 0x1000000 ≤ a) → byteAt u a = byteAt s a))) ∧
  (∀ (l : Fin 68) w s, mget? s.sec.pend l.val = some w → latheResident s l.val = true → (s.lathe l.val).svc = .inService →
    exec (.worldChangeApply l.val) s = .next s) ∧
  (∀ (l : Fin 68) w s, mget? s.sec.pend l.val = some w → (s.lathe l.val).svc ≠ .inService →
    leadsTo (.worldChangeApply l.val) s (fun u => (u.lathe l.val).world = w ∧ mget? u.sec.pend l.val = none ∧
      u.threads = s.threads ∧ u.mem = s.mem)) ∧
  (∀ (e : Fin 16) w s, mget? s.sec.pend (80 + e.val) = some w →
    leadsTo (.worldChangeApply (80 + e.val)) s (fun u => mget u.sec.dmaWorld e.val .ns = w ∧
      mget? u.sec.pend (80 + e.val) = none ∧ u.mem = s.mem ∧ u.threads = s.threads)) ∧
  (∀ (b : Fin 2) w s, mget? s.sec.pend (72 + b.val) = some w → engineJobs s b.val = 0 →
    leadsTo (.worldChangeApply (72 + b.val)) s (fun u => mget u.sec.ferruleWorld b.val .ns = w ∧
      mget? u.sec.pend (72 + b.val) = none ∧ u.mem = s.mem ∧ u.threads = s.threads)) ∧
  (∀ (m : Fin 64) w s, mget? s.sec.pend (128 + m.val) = some w →
    leadsTo (.worldChangeApply (128 + m.val)) s (fun u => (u.box m.val).world = w ∧ (u.box m.val).e0.msgs = [] ∧
      (u.box m.val).e1.msgs = [] ∧ (u.box m.val).e0.aborted = true ∧ (u.box m.val).e1.aborted = true ∧ (u.box m.val).owner = 0 ∧
      mget? u.sec.pend (128 + m.val) = none ∧ sameMemory s u)) ∧
  (∀ a s, reachesReg s a rVstat 8 → leadsTo (.secVstatClear a) s (fun u => u.sec.vlog = [] ∧ ctlGet u rVstat = 0 ∧
    otherRegs s u rVstat ∧ sameMemory s u)) ∧
  (∀ a v s k r, agentWorld s a = .s → (r = 6 ∨ r = 7) → v = BitVec.ofNat 64 (k * 64 + r) → k < 2 ^ 42 →
    place s none (64 * k) = .ram (64 * k) → poisonAt s (64 * k) 64 = none →
    leadsTo (.secExtend a v) s (fun u => u = { s with sec := { s.sec with meas := u.sec.meas } } ∧
      meas u r = shake512 (leBytes 64 (meas s r).toNat ++ (List.range 64).map (fun j => byteAt s (64 * k + j))) ∧
      (∀ j, j ≠ r → meas u j = meas s j))) ∧
  (∀ a v s k, agentWorld s a = .s → k < 2 ^ 42 →
    (v.toNat % 8 < 6 ∨ (wbits v 6 42 = k ∧ (∀ b, place s none (64 * k) ≠ .ram b)) ∨
      (wbits v 6 42 = k ∧ place s none (64 * k) = .ram (64 * k) ∧ poisonAt s (64 * k) 64 ≠ none)) → leadsTo (.secExtend a v) s (fun u =>
    u.sec = s.sec ∧ (ctlGet u rSecStat).getLsbD 0 = true ∧ sameMemory s u)) ∧
  (∀ t v s, agentWorld s (.thread t) = .ns → leadsTo (.secExtend (.thread t) v) s (fun u => u.sec.meas = s.sec.meas ∧
    (s.sec.vlog.length < 4096 → ∃ e, u.sec.vlog = s.sec.vlog ++ [e] ∧ e.addr = 0x3F0000000200#64 ∧ e.agent = agentId (.thread t) ∧
      e.kind = 1 ∧ e.time = s.plat.devTime))) ∧
  (∀ v s, reachesReg s .host rRecovery 8 → s.plat.recovery = true →
    (wbits (ctlGet s rRecovery) 30 2 = 0 ∨ wbits (ctlGet s rRecovery) 30 2 = 2) → leadsTo (.devRecoveryGo v) s (fun u =>
      wbits (ctlGet u rRecovery) 30 2 = 1 ∧ wbits (ctlGet u rRecovery) 0 27 = wbits v 0 27 ∧ otherRegs s u rRecovery ∧
      onlyRegisters s u)) ∧
  (∀ s, s.plat.recovery = true → wbits (ctlGet s rRecovery) 30 2 = 1 → s.mem.poison = [] →
    let m := recoveryImage s
    ((∀ a, byteAt s a = 0) → leadsTo .recoveryCheckDone s (fun u => wbits (ctlGet u rRecovery) 30 2 = 2 ∧
      wbits (ctlGet u rRecovery) 32 4 = 1 ∧ u.store = s.store)) ∧
    (imageReason s.sec.fuses m true = 0 → wbits (ctlGet s rRecovery) 0 27 = 0x8000 + imgLen m →
      (∀ x, s.store.sel0 = some x ∨ s.store.sel1 = some x → x.2.toNat + 1 < 2 ^ 64) →
      leadsTo .recoveryCheckDone s (fun u => wbits (ctlGet u rRecovery) 30 2 = 3 ∧ activeSlot u.store = !activeSlot s.store ∧
        slotImage u.store (!activeSlot s.store) = m ∧ slotImage u.store (activeSlot s.store) = slotImage s.store (activeSlot s.store))))

/-- Power: an idle lathe in A0 takes the deepest state whose wake time the lower tolerance allows, the device enters standby when R511
holds, and waking restores A0 (R507 to R513). Samples feed the mean powers; THERM_N and the thresholds follow the readings with
their hysteresis (R518 to R523). -/
def Obligations.Power : Prop :=
  (∀ (l : Fin 68) s, s.plat.ready = true → s.pwr.standby = false → latheIdleNow s l.val = true → (s.lathe l.val).retiring = false →
    (s.lathe l.val).waking = false → (s.lathe l.val).power = 0 →
    let T := min s.pwr.tolNs.toNat s.pwr.tolS.toNat
    leadsTo (.latheIdle l) s (fun u => (T < 1000 → (u.lathe l.val).power = 0) ∧
      (1000 ≤ T → T < 50000 → (u.lathe l.val).power = 1) ∧ (50000 ≤ T → T < 2000000 → (u.lathe l.val).power = 2) ∧
      (2000000 ≤ T → (u.lathe l.val).power = 3) ∧ (∀ k, k ≠ l.val → u.lathe k = s.lathe k) ∧ sameMemory s u ∧
      (T < 2000000 → u.threads = s.threads ∧ u.ctl = s.ctl))) ∧
  (∀ s, mayStandby s = true → leadsTo .a4Entry s (fun u => u =
    { offDieCaches s with pwr := { s.pwr with standby := true, waking := !s.chain.rxq.isEmpty } })) ∧
  (∀ (l : Fin 68) s, (s.lathe l.val).waking = true → s.pwr.standby = false →
    leadsTo (.wakeComplete (some l)) s (fun u => (u.lathe l.val).power = 0 ∧ (u.lathe l.val).waking = false ∧
      (∀ k, k ≠ l.val → u.lathe k = s.lathe k) ∧
      (∀ t, (s.thr t).st = .waiting (.wake l.val) → (u.thr t).st = .ready ∨ (u.thr t).st = .running) ∧ sameMemory s u)) ∧
  (∀ s, s.pwr.standby = true → s.pwr.waking = true → leadsTo (.wakeComplete none) s (fun u =>
    u.pwr.standby = false ∧ u.pwr.waking = false ∧ u.pwr.posted = [] ∧
    (s.pwr.posted = [] → s.fer.handoffs = [] → sameMemory s u ∧
      ∀ l, l < 68 → (s.lathe l).svc = .inService → (u.lathe l).power = 0))) ∧
  (∀ watts limited s, s.plat.started = true → leadsTo (.powerSample watts limited) s (fun u =>
    u = { s with pwr := { s.pwr with samples := (watts :: s.pwr.samples).take 10000, capLimited := limited } } ∧
    (s.pwr.samples = [] → meanPower u 100 = watts ∧ meanPower u 10000 = watts))) ∧
  (∀ t s, leadsTo (.thermalSample t) s (fun u => u.pwr.temps = t ∧ u = { s with pwr := u.pwr, plat := u.plat } ∧
    (s.plat.stop = some .thermal → s.plat.held = none → u.plat.therm = true) ∧
    ((∃ x ∈ t.lathe ++ t.bench, 105 ≤ x) ∨ (∃ x ∈ t.hbm, 95 ≤ x) → u.plat.therm = true) ∧
    ((s.plat.stop ≠ some .thermal ∨ s.plat.held ≠ none) → (∀ x ∈ t.lathe ++ t.bench, x < 100) → (∀ x ∈ t.hbm, x < 93) → u.plat.therm = false) ∧
    (s.plat.started = true → (∃ x ∈ t.lathe ++ t.bench, 95 ≤ x) → u.pwr.throttled = true) ∧
    (s.plat.started = true → (∀ x ∈ t.lathe ++ t.bench, x < 93) → u.pwr.throttled = false) ∧
    (s.plat.started = true → (∀ x ∈ t.lathe ++ t.bench, 93 ≤ x → x < 95) → (t.lathe ++ t.bench ≠ []) →
      (∃ x ∈ t.lathe ++ t.bench, 93 ≤ x) → u.pwr.throttled = s.pwr.throttled) ∧
    (s.plat.started = true → ∀ k (h : k < t.hbm.length), (85 ≤ t.hbm[k] → k ∈ u.pwr.refresh2x) ∧
      (t.hbm[k] < 83 → k ∉ u.pwr.refresh2x) ∧ (95 ≤ t.hbm[k] → k ∈ u.pwr.halfBw) ∧ (t.hbm[k] < 93 → k ∉ u.pwr.halfBw)) ∧
    (s.plat.started = true → ∀ k (h : k < (t.lathe ++ t.bench).length), (105 ≤ (t.lathe ++ t.bench)[k] → k ∈ u.pwr.gated) ∧
      ((t.lathe ++ t.bench)[k] < 103 → k ∉ u.pwr.gated))))

/-! ## Faults and supervisors (14) -/

namespace Sys2Proof.Claims

open Sys2Proof.Machine

/-- First classes of Table 14-3: 0 CORRECTED, 1 REPLAYED, 2 REMAPPED, 3 RETIRED, 4 FAILED_OVER, 5 LOST. -/
def firstClasses : List (Nat × Nat) :=
  [(0x01, 0), (0x02, 0), (0x03, 0), (0x04, 1), (0x05, 1), (0x06, 1), (0x07, 0), (0x08, 0), (0x09, 2), (0x0A, 3), (0x0B, 3),
   (0x0C, 0), (0x0D, 1), (0x0E, 0), (0x0F, 5), (0x10, 2), (0x11, 0), (0x12, 0), (0x13, 2), (0x14, 0), (0x15, 0), (0x17, 1),
   (0x18, 5), (0x1A, 0), (0x1B, 0), (0x1C, 0), (0x1D, 4), (0x1E, 4), (0x1F, 5), (0x20, 5), (0x21, 0), (0x22, 0), (0x23, 0),
   (0x24, 5), (0x25, 5)]

/-- The handling in progress is at the end of a step: its recovery supervisor runs, no thread is still to be abandoned, no lathe is
under test, and the array has ended its own handling of a catch. -/
structure AtEnd (s : State) (h : Handling) (cls : Nat) : Prop where
  runs : recoveryRuns s = true
  current : s.flt.cur = some h
  class_ : h.cls = cls
  begun : h.begun = cls + 1
  unwritten : h.recs = []
  idle : draining s = false
  caught : h.catching = false ∨ (s.lathe h.unit.2).arr.caught = none
  noHandoff : s.fer.handoffs = []

/-- The partner of a supervisor pair. -/
def partner (k : Nat) : Nat := if k % 2 = 0 then k + 1 else k - 1

/-- The lathe of a fault of kind 0 to 2, and the line of memory that a fault's address lies in. -/
def faultLathe (e : FaultEv) : Nat := if e.kind = 1 then e.index.toNat / 68 else e.index.toNat
def faultLine (e : FaultEv) : Nat := cellOf (some (faultLathe e)) (localOf e.addr) / 64 * 64

/-- The task of run `r` has been placed for replay: in the queue of a lathe, ahead of the tasks of its priority, or in the overflow
list (R345). -/
def Replayed (s u : State) (r : TaskRun) : Prop :=
  ∃ q, q.snap = r.snap ∧ q.replay = true ∧ q.abandoned = r.abandoned + 1 ∧ q.strikes = r.strikes ∧
    ((∃ k, k < 68 ∧ mget (u.lathe k).queue (snapPrio r.snap) [] = q :: mget (s.lathe k).queue (snapPrio r.snap) []) ∨
      u.overflow = s.overflow ++ [q])

/-- No other thread of the lathe of `t` has a task. -/
def onlyTask (s : State) (t : Tid) : Prop := ∀ k : Tid, k.lathe = t.lathe → k ≠ t → (s.thr k).task = none

/-- Every other thread is as before. -/
def otherThreads (s u : State) (t : Tid) : Prop := ∀ k, k ≠ t → u.thr k = s.thr k

end Sys2Proof.Claims

/-- A detected fault takes the next sequence number and, with no handling before it, its own handling on the first rung of its
cause; a fault of the unit of the handling in progress or of a queued one joins it and climbs a rung, one of another unit queues
behind (R456, R458, R472, R473, Table 14-3). A stale request also fences its lathe (R470). Poison is set at the sole copy that is
lost; the bytes of a dirty LM-cache line that is lost, or whose tag parity fails for good, no longer count, and every other byte of
memory is as before (08 R318 to R320). A lathe that misses eight polls is declared silent; the polls need the clock of the recovery
supervisor (R469). A sticky register clears the bits written as 1, in the copy of the writer's world (R482). A supervisor pair that
stops is tested: it becomes the standby pair when it passes, and leaves service with a repair item when it fails; its partner takes
its place, and the handling in progress when it was the recovery supervisor, or a pair of the other die does when it has no partner.
With no pair left the device stops (R460, R475). -/
def Obligations.FaultDetection : Prop :=
  ((∀ e s, ¬(e.cause = cTagParity ∧ e.hard = true) → leadsTo (.faultDetected e) s (fun u =>
     Detected s u e.cause e.kind e.index.toNat ∧
     (e.cause ≠ cLmDirtyLost → sameMemory s u) ∧
     (e.cause = cLmDirtyLost → sameOutside s u (faultLine e) 64) ∧
     (e.cause = cPoisonSet → localOf e.addr / 64 * 64 ∈ u.mem.poison) ∧
     (NoFault s → s.flt.strikes = [] → e.thread = none → ∃ h, u.flt.queue = [h] ∧ h.nested = false ∧ h.escalated = false ∧
       (∀ p ∈ firstClasses, e.cause.toNat = p.1 → h.cls = p.2) ∧ (e.cause = 0x16#16 → h.cls = (if e.hard then 2 else 0)) ∧
       (e.cause = 0x19#16 → h.cls = (if e.hard then 1 else 0))) ∧
     (e.cause = cStale → e.kind = 0 → (s.lathe e.index.toNat).svc = .inService → (s.lathe e.index.toNat).retiring = false →
       (u.lathe e.index.toNat).svc = .fenced))) ∧
   (∀ e s, e.cause = cTagParity → e.hard = true → e.kind.toNat ≤ 3 →
     (heldDirty s e.kind.toNat e.index.toNat e.addr = false → leadsTo (.faultDetected e) s (fun u =>
       Detected s u cTagParity e.kind e.index.toNat ∧ sameMemory s u)) ∧
     (heldDirty s e.kind.toNat e.index.toNat e.addr = true → e.kind = 3 → leadsTo (.faultDetected e) s (fun u =>
       Detected s u cTagParity e.kind e.index.toNat ∧ sameMemory s u ∧ localOf e.addr / 64 * 64 ∈ u.mem.poison)) ∧
     (heldDirty s e.kind.toNat e.index.toNat e.addr = true → e.kind.toNat ≤ 2 → leadsTo (.faultDetected e) s (fun u =>
       Detected s u cLmDirtyLost 0 (faultLathe e) ∧ sameOutside s u (faultLine e) 64))) ∧
   (∀ e s h, s.flt.cur = none → s.flt.queue = [h] → h.ev.kind = 0 → e.kind = 0 → e.cause ≠ cTagParity →
     (e.index = h.ev.index → h.cls = 0 → leadsTo (.faultDetected e) s (fun u => ∃ g, u.flt.queue = [g] ∧ g.seq = h.seq ∧ g.cls = 1 ∧
       g.escalated = true ∧ ∃ j, g.joined = h.joined ++ [j] ∧ j.seq = ctlGet s rFltSeq ∧ j.ev = e)) ∧
     (e.index ≠ h.ev.index → leadsTo (.faultDetected e) s (fun u => ∃ g, u.flt.queue = [h, g] ∧ g.seq = ctlGet s rFltSeq ∧
       g.nested = true ∧ g.ev = e ∧ g.joined = []))) ∧
   (∀ e s h, s.flt.cur = some h → h.unit = unitOf e.kind e.index → h.recs = [] → isCatch e.cause = false → e.cause ≠ cTagParity →
     leadsTo (.faultDetected e) s (fun u => u.flt.queue = s.flt.queue ∧ ∃ g, u.flt.cur = some g ∧ g.seq = h.seq ∧
       g.cls = climb h.ev.kind.toNat h.cls ∧ ∃ j, g.joined = h.joined ++ [j] ∧ j.seq = ctlGet s rFltSeq ∧ j.ev = e)) ∧
   (∀ (l : Fin 68) s, (s.lathe l.val).svc = .inService → (s.lathe l.val).retiring = false →
     (recoveryRuns s = true → leadsTo (.lathePoll l true) s (fun u => u.lathe l.val = { s.lathe l.val with polls := 0 } ∧
       (∀ k, k ≠ l.val → u.lathe k = s.lathe k) ∧ u.flt = s.flt)) ∧
     (recoveryRuns s = true → leadsTo (.lathePoll l false) s (fun u =>
       u.lathe l.val = { s.lathe l.val with polls := (s.lathe l.val).polls + 1 } ∧
       (∀ k, k ≠ l.val → u.lathe k = s.lathe k) ∧ ((s.lathe l.val).polls + 1 ≠ 8 → u.flt = s.flt) ∧
       ((s.lathe l.val).polls = 7 → Detected s u cSilent 0 l.val))) ∧
     (recoveryRuns s = false → ∀ b, exec (.lathePoll l b) s = .next s)) ∧
   (∀ a (n : Fin 8) v s, reachesReg s a (rSticky n.val) 8 → leadsTo (.fltStickyWrite a n v) s (fun u =>
     (agentWorld s a = .ns → ctlGet u (rSticky n.val) = ctlGet s (rSticky n.val) &&& ~~~v ∧ u.flt = s.flt ∧
       otherRegs s u (rSticky n.val)) ∧
     (agentWorld s a = .s → mget u.flt.stickyS n.val 0 = mget s.flt.stickyS n.val 0 &&& ~~~v ∧ u.ctl = s.ctl ∧
       (∀ k, k ≠ n.val → mget u.flt.stickyS k 0 = mget s.flt.stickyS k 0)) ∧ sameMemory s u))) ∧
  (∀ (k : Fin 4) pass s, s.plat.started = true → supOf s k.val ≠ .out →
     let p := partner k.val
     let alone : Prop := ∀ j, j < 4 → j ≠ k.val → supOf s j = .out
     (¬(alone ∧ pass = false ∧ s.flt.recovery = k.val) → leadsTo (.supervisorMismatch k pass) s (fun u =>
       (¬alone ∨ s.flt.recovery ≠ k.val → supOf u k.val = (if pass then .standby else .out)) ∧
       (alone → s.flt.recovery = k.val → supOf u k.val = .active ∧ u.flt.recovery = k.val) ∧
       (supOf s p ≠ .out → supOf s k.val = .active → supOf u p = .active) ∧
       (supOf s p ≠ .out → s.flt.recovery = k.val → u.flt.recovery = p ∧ supOf u p = .active) ∧
       (supOf s p = .out → ¬alone → s.flt.recovery = k.val → u.flt.recovery < 4 ∧ u.flt.recovery / 2 ≠ k.val / 2 ∧
         supOf s u.flt.recovery ≠ .out ∧ supOf u u.flt.recovery = .active) ∧
       (s.flt.recovery = k.val → ∀ h, s.flt.cur = some h → ∃ g, u.flt.cur = some g ∧ g.supFailover = true) ∧
       (s.flt.recovery ≠ k.val → u.flt.recovery = s.flt.recovery) ∧
       (∀ j, j ≠ k.val → j ≠ p → j ≠ u.flt.recovery → supOf u j = supOf s j) ∧ Detected s u cSupMismatch 9 k.val ∧
       (NoFault s → ∃ h, u.flt.queue = [h] ∧ h.cls = (if pass then 0 else 2)) ∧
       (pass = false → ⟨9, 9, BitVec.ofNat 16 k.val, 0, 0⟩ ∈ u.store.repair) ∧ u.threads = s.threads ∧ sameMemory s u)) ∧
     (alone → pass = false → s.flt.recovery = k.val →
       leadsTo (.supervisorMismatch k pass) s (fun u => u.plat.stop = some .supervisors ∧ u.plat.started = false ∧
         u.plat.stage = 0xE#4)))

/-- Handlings run one at a time, in the order of the queue, while the clock of the recovery supervisor runs; a REPLAYED one begins
with CORE_IP.pre of its thread; one of class CORRECTED ends with its record in the ring, or counted as dropped when the ring is full
(R473, R456, R463, R478). A core remap puts the lathe's lowest spare core in the faulty core's place (R466). A retirement takes the
lathe's tasks, increments its epoch, powers it off and tests the spare lathe, which enters service for it when it passes; with no
spare the lathe is retired (R467, R468, Table 14-5). A lathe-fenced lathe that passes its test becomes a spare (R471). A preempted
thread whose time is up is abandoned and its task placed for replay; on a lathe under retirement it stops, and keeps its task for
the retirement (R345, R463). -/
def Obligations.Handlings : Prop :=
  (∀ s h r, recoveryRuns s = true → s.flt.cur = none → s.flt.queue = h :: r → s.fer.handoffs = [] →
    (h.cls = 0 ∨ h.cls = 4 ∨ h.cls = 5 → leadsTo .handlingStart s (fun u =>
      u = { s with flt := { s.flt with cur := some { h with begun := h.cls + 1 }, queue := r } })) ∧
    (∀ t, h.cls = 1 → h.joined = [] → (h.ev.cause = cCoreParity ∨ h.ev.cause = cDoubleTrap ∨ h.ev.cause = cLateError) →
      h.ev.thread = some t → (s.thr t).task.isSome = true → canExecute s t = true → leadsTo .handlingStart s (fun u =>
        u.flt.cur = some { h with begun := 2 } ∧ u.flt.queue = r ∧
        u.thr t = { s.thr t with ipPre := true, preemptAt := some s.plat.devTime } ∧ otherThreads s u t ∧ sameMemory s u)) ∧
    (h.cls = 3 → h.ev.kind = 0 → (s.lathe h.ev.index.toNat).svc = .inService → (s.lathe h.ev.index.toNat).queue = [] →
      (∀ p ∈ s.threads, p.2.task = none) → leadsTo .handlingStart s (fun u =>
        u.flt.cur = some { h with begun := 4 } ∧ u.flt.queue = r ∧ (u.lathe h.ev.index.toNat).retiring = true ∧
        takesTasks u h.ev.index.toNat = false ∧ u.threads = s.threads ∧ sameMemory s u))) ∧
  (∀ s, recoveryRuns s = false → exec .handlingStart s = .next s ∧ exec .handlingEnd s = .next s) ∧
  (∀ s h, AtEnd s h 0 → h.ev.cause ≠ cStale → h.step = 0 → h.joined = [] → h.lost = none → leadsTo .handlingEnd s (fun u =>
    u.flt.cur = none ∧ u.flt.queue = s.flt.queue ∧ sameMemory s u ∧ u.threads = s.threads ∧
    (s.flt.ring.length < 1024 → ∃ r, u.flt.ring = s.flt.ring ++ [r] ∧ r.seq = h.seq ∧ r.time = h.time ∧ r.parent = 0 ∧ r.cls = 0 ∧
      r.cause = h.ev.cause ∧ r.kind = h.ev.kind ∧ r.index = h.ev.index ∧ r.addr = h.ev.addr ∧ r.task = h.task ∧
      r.count = h.count ∧ r.detail = h.ev.detail ∧ r.chainEpoch = h.epoch) ∧
    (1024 ≤ s.flt.ring.length → u.flt.ring = s.flt.ring ∧ ctlGet u rFltDropped = ctlGet s rFltDropped + 1) ∧
    (mget u.flt.stickyS 0 0).getLsbD 0 = true)) ∧
  (∀ s h k, AtEnd s h 2 → h.step = 0 → h.joined = [] → h.ev.kind = 1 →
    let l := h.ev.index.toNat / 68
    let c := h.ev.index.toNat % 68
    (s.core l c).inService = true → spareCore s l = some k → 1 ≤ (s.lathe l).spareCores → leadsTo .handlingEnd s (fun u =>
      (u.core l c).inService = false ∧ (u.core l k).inService = true ∧ (u.core l k).xtvec = (s.core l c).xtvec ∧
      (u.lathe l).spareCores = (s.lathe l).spareCores - 1 ∧
      ⟨1, 3, BitVec.ofNat 16 (ckey l c), BitVec.ofNat 32 k, 0⟩ ∈ u.store.repair)) ∧
  (∀ s h, AtEnd s h 3 → h.step = 0 → h.ev.kind = 0 → (s.lathe h.ev.index.toNat).svc = .inService →
    ((∀ p ∈ s.threads, p.2.task = none) → leadsTo .handlingEnd s (fun u =>
      u.lathe h.ev.index.toNat = { s.lathe h.ev.index.toNat with epoch := (s.lathe h.ev.index.toNat).epoch + 1 } ∧
      u.flt.cur = some { h with step := 3 } ∧ u.threads = s.threads)) ∧
    (∀ t r, t.lathe.val = h.ev.index.toNat → (s.thr t).task = some r → r.abandoned < 4 → onlyTask s t →
      leadsTo .handlingEnd s (fun u => (u.lathe h.ev.index.toNat).epoch = (s.lathe h.ev.index.toNat).epoch + 1 ∧
        (u.thr t).task = none ∧ Replayed s u r))) ∧
  (∀ s h, AtEnd s h 3 → h.step = 3 → h.ev.kind = 0 → h.ev.index.toNat < 68 →
    (∀ k, spareLathe s h.ev.index.toNat = some k → k ≠ h.ev.index.toNat → leadsTo .handlingEnd s (fun u =>
      (u.lathe h.ev.index.toNat).svc = .retired ∧ (u.lathe h.ev.index.toNat).retiring = false ∧
      LatheCleared s u h.ev.index.toNat ∧ (u.lathe k).svc = .underTest ∧
      u.flt.cur = some { h with step := 5, spare := some k })) ∧
    (spareLathe s h.ev.index.toNat = none → leadsTo .handlingEnd s (fun u => (u.lathe h.ev.index.toNat).svc = .retired ∧
      (u.lathe h.ev.index.toNat).retiring = false ∧ ⟨0, 4, h.ev.index, 0xFF#32, 0⟩ ∈ u.store.repair))) ∧
  (∀ (k : Fin 68) s h, s.flt.cur = some h → h.step = 5 → h.spare = some k.val → h.ev.kind = 0 →
    (h.ev.index.toNat ≠ k.val → leadsTo (.spareSelfTest k true) s (fun u => (u.lathe k.val).svc = .inService ∧
        (u.lathe k.val).world = (s.lathe h.ev.index.toNat).world ∧ (u.lathe k.val).carried = (u.lathe k.val).epoch ∧
        LatheCleared s u k.val ∧ ⟨0, 4, h.ev.index, BitVec.ofNat 32 k.val, 0⟩ ∈ u.store.repair ∧
        u.flt.cur = some { h with step := 7 }) ∧
      leadsTo (.spareSelfTest k false) s (fun u => (u.lathe k.val).svc = .retired ∧
        ⟨0, 4, h.ev.index, 0xFF#32, 0⟩ ∈ u.store.repair ∧ ⟨0, 4, BitVec.ofNat 16 k.val, 0xFF#32, 0⟩ ∈ u.store.repair ∧
        u.flt.cur = some { h with step := 7, spare := none })) ∧
    (h.ev.index.toNat = k.val → leadsTo (.spareSelfTest k true) s (fun u => (u.lathe k.val).svc = .spare ∧
        (u.lathe k.val).epoch = (s.lathe k.val).epoch + 1 ∧ (u.lathe k.val).carried = (u.lathe k.val).epoch ∧
        ⟨0, 5, h.ev.index, 0, 0⟩ ∈ u.store.repair ∧ u.flt.cur = some { h with step := 7 }) ∧
      leadsTo (.spareSelfTest k false) s (fun u => (u.lathe k.val).svc = .retired ∧
        ⟨0, 4, h.ev.index, 0xFF#32, 0⟩ ∈ u.store.repair ∧ ∃ g, u.flt.cur = some g ∧ g.cls = 3 ∧ g.step = 7))) ∧
  (∀ (l : Fin 68) (t : Tid) s r p, t.lathe = l → (s.thr t).task = some r → (s.thr t).preemptAt = some p → s.fer.handoffs = [] →
    onlyTask s t →
    (p.toNat + 100000 ≤ s.plat.devTime.toNat → (s.lathe l.val).retiring = false → r.abandoned < 4 →
      leadsTo (.preemptTimeout l) s (fun u => (u.thr t).st = .idle ∧ (u.thr t).task = none ∧ (u.thr t).sbuf = [] ∧
        (∀ m, (u.box m).owner ≠ threadId t) ∧ Replayed s u r)) ∧
    (p.toNat + 100000 ≤ s.plat.devTime.toNat → (s.lathe l.val).retiring = true → leadsTo (.preemptTimeout l) s (fun u =>
      (u.thr t).st = .waiting .latheFenced ∧ (u.thr t).task = some r ∧ (u.thr t).preemptAt = none)) ∧
    (s.plat.devTime.toNat < p.toNat + 100000 → exec (.preemptTimeout l) s = .next s))

/-! ## KCP commands of power, faults, images and quotes (10, 14, 15, 16) -/

namespace Sys2Proof.Claims

open Sys2Proof.Machine

/-- `d` is a quote: its magic number, the nonce of the packet, and the eight measurements (Table 15-11). -/
def isQuote (s : State) (c : Cmd) (d : List Byte) : Prop :=
  d.length = 80480 ∧ leNat (d.take 4) = 0x5A545131 ∧ (d.drop 0x30).take 32 = (c.packet.drop 0x20).take 32 ∧
    ∀ i, i < 8 → (d.drop (0x80 + 64 * i)).take 64 = leBytes 64 (meas s i).toNat

/-- The staging area holds `d` at `off`, and is otherwise as before. -/
def staged (s u : State) (off : Nat) (d : List Byte) : Prop :=
  (∀ k (h : k < d.length), cellGet u.store.staging (off + k) = d[k]) ∧
    (∀ k, k < off ∨ off + d.length ≤ k → cellGet u.store.staging k = cellGet s.store.staging k) ∧
    u.store.imgA = s.store.imgA ∧ u.store.imgB = s.store.imgB

end Sys2Proof.Claims

/-- SET_LATENCY_TOLERANCE and SET_PROFILE: the tolerance of the command's world is set; a profile with a higher cap is in force
at once, one with a lower cap from PROFILE_IN_FORCE on, when the draw is within its limit (R507, R520). FAULT_LOG_READ writes
the records that its world sees, in order of their numbers; FAULT_CLEAR removes those of its world below the FLT_SEQ of its
fetch, with the sticky bits of its world (R479, R480; 10 R391). A host read without a completion ends its command as an error
response does, or stops the queue whose packet was read (R363, R372). -/
def Obligations.KcpPowerAndFaults : Prop :=
  ((∀ q n s c w, Starts s 0x50 q n c w →
     let v := BitVec.ofNat 32 (arg c 0x0C 4)
     leadsTo (.setLatencyTolerance q n) s (fun u => ended u q n c stOk (if w = .s then s.pwr.tolS else s.pwr.tolNs) 0 ∧
       u.pwr.tolNs = (if w = .s then s.pwr.tolNs else v) ∧ u.pwr.tolS = (if w = .s then v else s.pwr.tolS) ∧ sameMemory s u ∧
       u.host.queues = s.host.queues)) ∧
   (∀ q n s c w, Starts s 0x51 q n c w →
     let k := arg c 0x0C 1
     (2 < k → leadsTo (.setProfile q n) s (fun u => ended u q n c stBadParam 0 0 ∧ u.pwr = s.pwr)) ∧
     (k ≤ 2 → k ≤ s.pwr.profile.toNat → leadsTo (.setProfile q n) s (fun u => u.pwr.profile = BitVec.ofNat 2 k ∧
       u.pwr.target = none ∧ ∃ d, u.cmd? q n = some d ∧ d.wait = .done ∧ d.result = s.pwr.profile.setWidth 32)) ∧
     (k ≤ 2 → s.pwr.profile.toNat < k → leadsTo (.setProfile q n) s (fun u => u.pwr.profile = s.pwr.profile ∧
       u.pwr.target = some (BitVec.ofNat 2 k) ∧ ∃ d, u.cmd? q n = some d ∧ d.wait = .profile ∧
         d.result = s.pwr.profile.setWidth 32))) ∧
   (∀ s p, s.pwr.target = some p → meanPower s 100 ≤ (if p = 0 then 1995 else if p = 1 then 1155 else 683) →
     leadsTo .profileInForce s (fun u => u.pwr.profile = p ∧ u.pwr.target = none ∧ (∀ c ∈ u.host.cmds, c.wait ≠ .profile) ∧
       u.host.cmds.length = s.host.cmds.length ∧ sameMemory s u))) ∧
  ((∀ q n s c w, Starts s 0x60 q n c w → arg c 8 1 % 2 = 0 →
     let a := BitVec.ofNat 64 (arg c 0x10 8)
     let first := BitVec.ofNat 64 (arg c 0x18 8)
     let rs := (visibleRecords s w first).take (arg c 0x0C 4)
     rs ≠ [] → LocalRange s w a (64 * rs.length) →
     leadsTo (.faultLogRead q n) s (fun u => ended u q n c stOk (BitVec.ofNat 32 rs.length)
         ((rs.getLast?.map (fun r => r.seq + 1)).getD 0) ∧
       (∀ k, k < 64 * rs.length → byteAt u (localOf a + k) = (rs.flatMap recBytes).getD k 0) ∧
       sameOutside s u (localOf a) (64 * rs.length) ∧ u.flt = s.flt)) ∧
   (∀ q n s c w, Starts s 0x60 q n c w →
     let a := BitVec.ofNat 64 (arg c 0x10 8)
     let first := BitVec.ofNat 64 (arg c 0x18 8)
     let rs := (visibleRecords s w first).take (arg c 0x0C 4)
     (rs = [] → chainOf a ≠ 0xFFFE#16 → leadsTo (.faultLogRead q n) s (fun u => ended u q n c stOk 0 first ∧ sameMemory s u ∧
       u.out = s.out ∧ u.flt = s.flt)) ∧
     (arg c 8 1 % 2 = 1 → rs ≠ [] → leadsTo (.faultLogRead q n) s (fun u =>
       ended u q n c stOk (BitVec.ofNat 32 rs.length) ((rs.getLast?.map (fun r => r.seq + 1)).getD 0) ∧ sameMemory s u ∧
       u.out = s.out ++ (if c.linkLost then [] else [.hostWrite a (rs.flatMap recBytes)]) ∧ u.flt = s.flt))) ∧
   (∀ s w (first : Word), (∀ r, r ∈ visibleRecords s w first ↔
       r ∈ s.flt.ring ∧ first.toNat ≤ r.seq.toNat ∧ (w = .s ∨ r.flags.getLsbD 2 = false)) ∧
     (visibleRecords s w first).Pairwise (fun x y => x.seq.toNat ≤ y.seq.toNat)) ∧
   (∀ q n s c w, Starts s 0x61 q n c w → leadsTo (.faultClear q n) s (fun u => ended u q n c stOk 0 0 ∧
     (∀ r, r ∈ u.flt.ring ↔ r ∈ s.flt.ring ∧ (r.flags.getLsbD 2 ≠ (w == .s) ∨ c.fltSeq.toNat ≤ r.seq.toNat)) ∧
     (w = .ns → ∀ k, k < 8 → ctlGet u (rSticky k) = 0 ∧ mget u.flt.stickyS k 0 = mget s.flt.stickyS k 0) ∧
     (w = .s → ∀ k, k < 8 → mget u.flt.stickyS k 0 = 0 ∧ ctlGet u (rSticky k) = ctlGet s (rSticky k)) ∧
     (∀ l, l < 68 → (s.lathe l).world = w → ctlGet u (rCvtstat l) = 0 ∧ ctlGet u (rFnstat l) = 0 ∧ ctlGet u (rArrStat l) = 0) ∧
     (w = .ns → ctlGet u rFrlStat = 0 ∧ ctlGet u rFrlLate = 0) ∧
     ctlGet u rTaskstat = 0 ∧ ctlGet u rHifErr = 0 ∧ u.plat.faultHold = faultHolds s ∧ u.flt.cur = s.flt.cur ∧ u.flt.queue = s.flt.queue ∧ sameMemory s u)) ∧
   (∀ q n s c, s.cmd? q n = some c → arg c 8 1 % 2 = 1 →
     (arg c 0 1 = 0x10 → exec (.completionTimeout q n) s = exec (.memCopy q n none) s) ∧
     (arg c 0 1 = 0x20 → exec (.completionTimeout q n) s = exec (.programLoad q n none) s) ∧
     (arg c 0 1 = 0x21 → exec (.completionTimeout q n) s = exec (.taskGraphSubmit q n none) s) ∧
     (arg c 0 1 = 0x71 → exec (.completionTimeout q n) s = exec (.fwStage q n none) s)) ∧
   (∀ q n s x, s.cmd? q n = none → s.queue? q = some x → x.cmdHost = true → x.cons.toNat = n → queueReady s q = true →
     leadsTo (.completionTimeout q n) s (fun u => u.queue? q = some { x with st := .stopped } ∧
       (ctlGet u rHifErr).getLsbD 5 = true ∧ sameMemory s u)))

/-- FW_STAGE copies bytes of host or local memory into the staging area, whole 64-byte lines of it when fewer arrive; FW_ACTIVATE makes
an accepted image the one of the other slot and selects that slot, and answers ST_AUTH to one that a check of Table 15-7 rejects;
ATTEST_QUOTE writes a quote with the nonce of its packet and the measurements to local or host memory (R499, R500, R504, Table
15-11). -/
def Obligations.KcpImages : Prop :=
  (∀ q n s c w host, Starts s 0x71 q n c w → (w = .ns → (ctlGet s rSecCtl).getLsbD 0 = false) →
    runningOps s c 0x72 = 0 → noDma s c.q w = false →
    let off := arg c 0x0C 4
    let a := BitVec.ofNat 64 (arg c 0x10 8)
    let len := arg c 0x18 4
    off % 4096 = 0 → off + len ≤ 96 * 2 ^ 20 →
    (arg c 8 1 % 2 = 0 → LocalRange s w a len → leadsTo (.fwStage q n host) s (fun u => ended u q n c stOk 0 (BitVec.ofNat 64 len) ∧
      staged s u off ((List.range len).map (fun k => byteAt s (localOf a + k))) ∧ sameMemory s u)) ∧
    (∀ d, arg c 8 1 % 2 = 1 → c.linkLost = false → host = some d → len ≤ d.length → leadsTo (.fwStage q n host) s (fun u =>
      ended u q n c stOk 0 (BitVec.ofNat 64 len) ∧ staged s u off (d.take len) ∧ sameMemory s u)) ∧
    (∀ d, arg c 8 1 % 2 = 1 → c.linkLost = false → host = some d → d.length < len → leadsTo (.fwStage q n host) s (fun u =>
      let k := d.length / 64 * 64
      ended u q n c stAborted 0 (BitVec.ofNat 64 k) ∧ staged s u off (d.take k) ∧ sameMemory s u)) ∧
    (arg c 8 1 % 2 = 1 → c.linkLost = true ∨ host = none → 0 < len → leadsTo (.fwStage q n host) s (fun u =>
      ended u q n c stAborted 0 0 ∧ staged s u off [] ∧ sameMemory s u))) ∧
  (∀ q n s c w, Starts s 0x72 q n c w → (w = .ns → (ctlGet s rSecCtl).getLsbD 0 = false) → runningOps s c 0x72 = 0 →
    let m := s.store.staging
    arg c 0x0C 4 = 0x8000 + imgLen m →
    (imageReason s.sec.fuses m true ≠ 0 → leadsTo (.fwActivate q n) s (fun u => ended u q n c stAuth 0 0 ∧ u.store = s.store)) ∧
    (imageReason s.sec.fuses m true = 0 → (∀ x, s.store.sel0 = some x ∨ s.store.sel1 = some x → x.2.toNat + 1 < 2 ^ 64) →
      let slot := !(ctlGet s rBoot).getLsbD 0
      leadsTo (.fwActivate q n) s (fun u => ended u q n c stOk 0 0 ∧ activeSlot u.store = slot ∧
        slotImage u.store slot = imgTake m (0x8000 + imgLen m) ∧ slotImage u.store (!slot) = slotImage s.store (!slot)))) ∧
  (∀ q n s c w, Starts s 0x70 q n c w →
    (arg c 0x18 4 < 80480 → leadsTo (.attestQuote q n) s (fun u => ended u q n c stBadParam 80480 0 ∧ sameMemory s u)) ∧
    (80480 ≤ arg c 0x18 4 → runningOps s c 0x70 < 4 →
      let a := BitVec.ofNat 64 (arg c 0x10 8)
      let local_ := arg c 8 1 % 2 = 0
      (local_ → LocalRange s w a 80480) →
      (identityBad s = true → leadsTo (.attestQuote q n) s (fun u => ended u q n c stAuth 0 0 ∧ sameMemory s u ∧ u.out = s.out)) ∧
      (identityBad s = false → c.packet.length = 64 → leadsTo (.attestQuote q n) s (fun u => ended u q n c stOk 80480 0 ∧
        ∃ d, isQuote s c d ∧
          (local_ → (∀ k (h : k < d.length), byteAt u (localOf a + k) = d[k]) ∧ sameOutside s u (localOf a) 80480) ∧
          (¬local_ → sameMemory s u ∧ u.out = s.out ++ (if c.linkLost then [] else [.hostWrite a d]))))))

/-! ## Ferrule engines (12) -/

namespace Sys2Proof.Claims

open Sys2Proof.Machine

/-- Packet `k` of type `ty` is next at port `p`, and the engine of its shard can act now: it has its clock, and no row of the shard's
memory is being copied (08 R323). -/
structure Engine (s : State) (p : Fin 40) (ty : Byte) (k : Packet) : Prop where
  head : rxHead s p.val ty = some k
  free : shardBusy s k.job.toNat k.shard = false
  member : s.chain.st ≠ .fenced

/-- Such a packet names the open job `J`. -/
structure ForJob (s : State) (p : Fin 40) (ty : Byte) (k : Packet) (J : Job) extends Engine s p ty k where
  job : job? s k.job.toNat = some J

/-- A packet to `d` leaves by port `o` at once. -/
structure Leaves (s : State) (d : BitVec 16) (o : Nat) : Prop where
  way : route s d = some o
  inOrder : routeWaits s d = false
  goes : (port s o).st ≠ .training
  member : s.chain.st ≠ .fenced

/-- This device does not own the shard; its next downstream address `d` is reached by port `o`. -/
structure Hop (s : State) (J : Job) (sh : Nat) (d : BitVec 16) (o : Nat) extends Leaves s d o where
  notOwner : isOwner s J sh = false
  next : nextHop s J = some d

/-- A packet of this device for a shard-step has left by port `o` (12 Table 12-3). -/
def passed (s u : State) (o : Nat) (d : BitVec 16) (ty : Byte) (tag : BitVec 16) (job : Nat) (addr : BitVec 48) (ext : Word)
    (payload : List Byte) : Prop :=
  ∃ x, Out.packet o x ∈ u.out ∧ x.dst = d ∧ x.src = s.chain.addr ∧ x.epoch = s.chain.epoch ∧ x.type = ty ∧ x.tag = tag ∧
    x.job = BitVec.ofNat 12 job ∧ x.addr = addr ∧ x.ext = ext ∧ x.payload = payload

/-- `w` is all that the engines hold of shard-steps, and it is in progress. -/
structure OnlyWork (s : State) (w : Work) (j sh : Nat) (tag : BitVec 16) : Prop where
  works : s.fer.works = [w]
  job : w.job = j
  shard : w.shard = sh
  step : w.tag = tag
  going : w.ended = false
  fresh : w.restarted = none

/-- The header fields of a reduction packet: contributors, chunk or unit, shard. -/
def header (count idx shard : Nat) : BitVec 48 := BitVec.ofNat 48 (count * 2 ^ 32 + idx * 2 ^ 16 + shard)

/-- A partial sum of class BF16 or BFP16 at port `p` leads to a state with `P`. -/
def redLeads (bfp : Bool) (p : Fin 40) (s : State) (P : State → Prop) : Prop :=
  (bfp = false → leadsTo (.redBf16 p) s P) ∧ (bfp = true → leadsTo (.redBfp16 p) s P)

def redType (bfp : Bool) : Byte := if bfp then pRedBfp16 else pRedBf16

/-- The bytes of elements `j < n` of a BF16 partial sum with the gradients at `g` added, each rounded by its own draw (R434). -/
def hopSums (s : State) (key : Key) (first n : Nat) (payload : List Byte) (g : Nat) : List Byte :=
  (List.range n).flatMap (fun j => leBytes 2 (convert 1 (modeAt 0 (some key) (first + j))
    ((elemVal 1 (leNat ((payload.drop (2 * j)).take 2))).add
      (elemVal 1 (leNat [byteAt s (g + 2 * j), byteAt s (g + 2 * j + 1)]))).1).code)

/-- Partial sum `p` has gone to `d` with the contribution of binding `b` and one contributor more (R434, R439). -/
def hopped (s u : State) (o : Nat) (d : BitVec 16) (J : Job) (tag : BitVec 16) (j sh : Nat) (b : Binding) (p : Partial) : Prop :=
  let key : Key := ⟨BitVec.ofNat 64 (j * 2 ^ 32 + sh), BitVec.ofNat 16 (hopIndex s J sh), b.step, 5⟩
  let n := min 256 (b.elements - 256 * p.chunk)
  let g := localOf b.grad + 512 * p.chunk
  let r := addHop key true p.chunk p ((List.range n).map (fun i => elemVal 1 (leNat [byteAt s (g + 2 * i), byteAt s (g + 2 * i + 1)])))
  passed s u o d (redType J.bfp) tag j (header (p.count + 1) p.chunk sh) (if J.bfp then r.2.1 else 0)
    (if J.bfp then r.1 else hopSums s key (256 * p.chunk) n p.payload g)

/-- The partial sum with which a hop starts a chunk: zeros, and the agreed exponents. -/
def emptySum (s : State) (j sh k : Nat) : Partial :=
  { chunk := k, payload := [], ext := packExps (((rec? s j sh).map (·.expo)).getD []) (8 * k) 8, count := 0, arrived := s.plat.devTime }

/-- This device owns the shard, no chunk of the step has been reduced yet, and the rule updates in the engine (R440 to R443). -/
structure Owns (s : State) (J : Job) (w : Work) (sh : Nat) : Prop where
  owner : isOwner s J sh = true
  record : (rec? s w.job sh).isSome = true
  rule : J.rule < 2
  going : J.closing = false
  none_ : w.updated = []
  counts : w.counts = []

/-- The chunk of a partial sum has been reduced at its owner with `c` contributors, and its parameters updated. -/
def reduced (u : State) (w : Work) (k c : Nat) : Prop :=
  ∃ y, u.fer.works = [y] ∧ y.passed = w.passed ++ [k] ∧ mget y.counts k 0 = c ∧ y.updated = [k]

end Sys2Proof.Claims

/-- REDUCE_JOB_OPEN opens a job with the ring of the record in force, its checks in the order of 10 R381; REDUCE_JOB_CLOSE frees an
idle one with its records and waits for, or aborts, the bindings of a busy one; PARAM_BIND makes the shard record and waits for its
step, and at the first hop its one chunk leaves with one contributor (R425 to R432, R435). -/
def Obligations.FerruleJobs : Prop :=
  (∀ q n s c w, Starts s 0x40 q n c w →
    let j := arg c 0x0C 2
    let ring := ringOf s (arg c 0x12 2)
    let f (o : Nat) : F32 := BitVec.ofNat 32 (arg c o 4)
    let good : Prop := arg c 0x12 2 ≤ 19 ∧ s.chain.st = .member ∧ s.chain.addr ∈ ring ∧ arg c 0x30 2 = ring.length ∧ arg c 0x0E 2 ≠ 0 ∧
      jobParams (arg c 0x10 1) (BitVec.ofNat 64 (arg c 0x28 8)) (f 0x14) (f 0x18) (f 0x1C) (f 0x20) (f 0x24) = true
    let may : Prop := w = .ns ∧ mget s.sec.ferruleWorld (j % 2) .ns = .ns
    let used : Prop := job? s j ≠ none ∨ mget? s.sec.pend (72 + j % 2) ≠ none
    let refused (st : Byte) : Prop := leadsTo (.reduceJobOpen q n) s (fun u => ended u q n c st 0 0 ∧ u.fer = s.fer)
    (¬good → refused stBadParam) ∧ (good → ¬may → refused stWorld) ∧ (good → may → used → refused stBusy) ∧
    (good → may → ¬used → 256 ≤ engineJobs s (j % 2) → refused stNoResource) ∧
    (good → may → ¬used → engineJobs s (j % 2) < 256 →
      leadsTo (.reduceJobOpen q n) s (fun u => ended u q n c stOk 0 0 ∧ sameMemory s u ∧ (∀ i, i ≠ j → job? u i = job? s i) ∧
        ∃ J, job? u j = some J ∧ J.ring = ring ∧ J.world = .ns ∧ J.deadline = arg c 0x0E 2 ∧ J.rule = arg c 0x10 1 ∧
          J.ringNo = arg c 0x12 2 ∧ J.nominal = ring.length ∧ J.lr = f 0x14 ∧ J.p1 = f 0x18 ∧ J.p2 = f 0x1C ∧ J.eps = f 0x20 ∧
          J.wd = f 0x24 ∧ J.task = BitVec.ofNat 64 (arg c 0x28 8) ∧ J.bfp = (ctlGet s rGradClass).getLsbD 0 ∧ J.closing = false))) ∧
  (∀ q n s c w, Starts s 0x41 q n c w →
    let j := arg c 0x0C 2
    let closed_ (u : State) : Prop := job? u j = none ∧ (∀ i, i ≠ j → job? u i = job? s i) ∧
      (∃ d, u.cmd? q n = some d ∧ d.wait = .done ∧ d.status = stOk) ∧ sameMemory s u
    (job? s j = none → leadsTo (.reduceJobClose q n) s (fun u => ended u q n c stBadParam 0 0 ∧ u.fer = s.fer)) ∧
    (∀ J, job? s j = some J → mget s.sec.ferruleWorld (j % 2) .ns ≠ w → leadsTo (.reduceJobClose q n) s (fun u =>
      ended u q n c stWorld 0 0 ∧ u.fer = s.fer)) ∧
    (∀ J, job? s j = some J → mget s.sec.ferruleWorld (j % 2) .ns = w →
      (jobBusy s j = false → leadsTo (.reduceJobClose q n) s (fun u => closed_ u ∧
        (∀ sh, sh < 65536 → rec? u j sh = none) ∧ (∀ m ∈ u.fer.mirrors, m.job ≠ j) ∧ (∀ x ∈ u.fer.works, x.job ≠ j))) ∧
      (jobBusy s j = true → arg c 0x0E 1 % 2 = 0 → leadsTo (.reduceJobClose q n) s (fun u =>
        job? u j = some { J with closing := true } ∧ u.fer.works = s.fer.works ∧ (∃ d, u.cmd? q n = some d ∧ d.wait = .close j))) ∧
      (jobBusy s j = true → arg c 0x0E 1 % 2 = 1 → leadsTo (.reduceJobClose q n) s (fun u => closed_ u ∧
        ∀ x b d, x ∈ s.fer.works → x.job = j → x.live = some b → s.cmd? b.q b.n.toNat = some d → d.wait = .bind j x.shard b.step →
          ∃ e, u.cmd? b.q b.n.toNat = some e ∧ e.wait = .done ∧ e.status = stAborted)))) ∧
  (∀ q n s c w J, Starts s 0x31 q n c w →
    let j := arg c 0x0C 2
    let sh := arg c 0x30 4
    let E := arg c 0x14 4
    let fmt := arg c 0x0E 1
    let step := BitVec.ofNat 32 (arg c 0x10 4)
    let pa := BitVec.ofNat 64 (arg c 0x18 8)
    let ga := BitVec.ofNat 64 (arg c 0x20 8)
    let sa := BitVec.ofNat 64 (arg c 0x28 8)
    job? s j = some J → J.closing = false → mget s.sec.ferruleWorld (j % 2) .ns = w → s.fer.works = [] → s.fer.recs = [] →
    sh < 65536 → 0 < E → E ≤ 8388608 → fmt ≤ 1 → pa.toNat % 64 = 0 → ga.toNat % 64 = 0 → sa.toNat % 64 = 0 →
    LocalRange s w pa ((if fmt = 1 then 2 else 4) * E) → LocalRange s w ga (2 * E) →
    (sa ≠ 0 → LocalRange s w sa ((if J.rule = 0 then 4 else 8) * E)) → (isOwner s J sh = true → sa ≠ 0) →
    clockOn s (.ferrule (if j % 2 = 0 then 0 else 1)) = true →
    (firstHop s J sh = false → leadsTo (.paramBind q n) s (fun u => sameMemory s u ∧ u.out = s.out ∧
      (∃ d, u.cmd? q n = some d ∧ d.wait = .bind j sh step) ∧
      (∃ r, rec? u j sh = some r ∧ r.elements = E ∧ r.bf16 = decide (fmt = 1) ∧ r.params = pa ∧ r.state = sa ∧ r.boundStep = step ∧
        r.doneStep = none ∧ r.t = 0 ∧ r.pi1 = 0x3F800000#32 ∧ r.pi2 = 0x3F800000#32) ∧
      ∃ x b, u.fer.works = [x] ∧ x.live = some b ∧ b.step = step ∧ b.elements = E ∧ b.grad = ga ∧ x.passed = [])) ∧
    (∀ d o, firstHop s J sh = true → Hop s J sh d o → E ≤ 256 → leadsTo (.paramBind q n) s (fun u => sameMemory s u ∧
      hopped s u o d J (step.setWidth 16) j sh ⟨step, E, decide (fmt = 1), pa, ga, sa, q, BitVec.ofNat 24 n, s.plat.devTime⟩
        (emptySum s j sh 0))))

/-- Partial sums and gathered units: one for a job that is not open, or of the other class, is answered by NOJOB; a partial sum waits
for this device's contribution, joins it at once when it is present, or passes on without it at its deadline; a contribution no
partial sum reaches starts its chunk after N times D; at the owner the chunk is reduced and its parameters are updated; a gathered
unit is written to the parameters of the binding or the record and goes on to the last device before the owner (R433 to R436, R438
to R440, R445). -/
def Obligations.FerruleArrivals : Prop :=
  (∀ (p : Fin 40) k s o,
    let answered (u : State) : Prop :=
      passed s u o k.src pNojob k.tag k.job.toNat (header 0 0 k.shard) 0 ((packetBytes k).take 32) ∧ u.fer = s.fer ∧ sameMemory s u
    Leaves s k.src o →
    (job? s k.job.toNat = none → (Engine s p pRedBf16 k → leadsTo (.redBf16 p) s answered) ∧
      (Engine s p pRedBfp16 k → leadsTo (.redBfp16 p) s answered) ∧ (Engine s p pGather k → leadsTo (.gatherPkt p) s answered) ∧
      (Engine s p pMirror k → k.count % 8 < 4 → leadsTo (.mirrorPkt p) s answered) ∧
      (Engine s p pMirrorAck k → leadsTo (.mirrorAck p) s answered) ∧
      (Engine s p pRestart k → leadsTo (.restartPkt p) s answered) ∧ (Engine s p pStepAbort k → leadsTo (.stepAbort p) s answered)) ∧
    (∀ J, ForJob s p (redType (!J.bfp)) k J → redLeads (!J.bfp) p s answered)) ∧
  (∀ (p : Fin 40) k s J, J.restored = false → s.fer.works = [] → ForJob s p (redType J.bfp) k J →
    redLeads J.bfp p s (fun u =>
      (let x : Partial := ⟨k.idx, k.payload, k.ext, k.count, s.plat.devTime⟩
       u.fer.works = [{ job := k.job.toNat, shard := k.shard, tag := k.tag, waits := [x] }]) ∧
      u.out = s.out ∧ sameMemory s u)) ∧
  (∀ (p : Fin 40) k s J w b, ForJob s p (redType J.bfp) k J → OnlyWork s w k.job.toNat k.shard k.tag →
    w.live = some b → w.passed = [] → w.waits = [] → k.idx < cdiv b.elements 256 → s.mem.poison = [] →
    (∀ d o, Hop s J k.shard d o → redLeads J.bfp p s (fun u =>
      hopped s u o d J k.tag k.job.toNat k.shard b ⟨k.idx, k.payload, k.ext, k.count, s.plat.devTime⟩ ∧ sameMemory s u ∧
      ∃ x, u.fer.works = [x] ∧ x.passed = [k.idx] ∧ x.missing = w.missing ∧ x.live = some b)) ∧
    (Owns s J w k.shard → redLeads J.bfp p s (fun u => reduced u w k.idx (k.count + 1)))) ∧
  (∀ (k : ChunkId) s J w x, job? s k.job.toNat = some J → OnlyWork s w k.job.toNat k.shard.toNat (k.step.setWidth 16) →
    w.waits = [x] → x.chunk = k.chunk.toNat → shardBusy s k.job.toNat k.shard.toNat = false →
    (∀ d o, x.arrived.toNat + 1000 * J.deadline ≤ s.plat.devTime.toNat → Hop s J k.shard.toNat d o →
      leadsTo (.contributionDeadline k) s (fun u =>
        passed s u o d (redType J.bfp) w.tag k.job.toNat (header x.count x.chunk k.shard.toNat) x.ext x.payload ∧
        (∃ y, u.fer.works = [y] ∧ y.passed = w.passed ++ [x.chunk] ∧ y.missing = w.missing ++ [x.chunk] ∧ y.waits = []) ∧
        sameMemory s u)) ∧
    (x.arrived.toNat + 1000 * J.deadline ≤ s.plat.devTime.toNat → s.mem.poison = [] → Owns s J w k.shard.toNat →
      leadsTo (.contributionDeadline k) s (fun u => reduced u w x.chunk x.count)) ∧
    (s.plat.devTime.toNat < x.arrived.toNat + 1000 * J.deadline → exec (.contributionDeadline k) s = .next s)) ∧
  (∀ (k : ChunkId) s J w b, job? s k.job.toNat = some J → OnlyWork s w k.job.toNat k.shard.toNat (k.step.setWidth 16) →
    w.live = some b → b.step = k.step → w.passed = [] → w.waits = [] → k.chunk.toNat < cdiv b.elements 256 →
    s.mem.poison = [] → shardBusy s k.job.toNat k.shard.toNat = false →
    let due := b.presentAt.toNat + 1000 * (J.ring.length * J.deadline)
    (∀ d o, Hop s J k.shard.toNat d o → due ≤ s.plat.devTime.toNat → leadsTo (.partialWaitExpiry k) s (fun u =>
      hopped s u o d J w.tag k.job.toNat k.shard.toNat b (emptySum s k.job.toNat k.shard.toNat k.chunk.toNat) ∧ sameMemory s u)) ∧
    (Owns s J w k.shard.toNat → due ≤ s.plat.devTime.toNat → leadsTo (.partialWaitExpiry k) s (fun u =>
      reduced u w k.chunk.toNat 1)) ∧
    (s.plat.devTime.toNat < due → exec (.partialWaitExpiry k) s = .next s)) ∧
  (∀ (p : Fin 40) k s J d o, ForJob s p pGather k J → Hop s J k.shard d o →
    let goesOn_ (u : State) : Prop :=
      (ownerOf s J k.shard ≠ some d → passed s u o d pGather k.tag k.job.toNat k.addr k.ext k.payload) ∧
      (ownerOf s J k.shard = some d → u.out = s.out)
    let stored (u : State) (a : Nat) : Prop :=
      (∀ i (h : i < k.payload.length), byteAt u (a + 512 * k.idx + i) = k.payload[i]) ∧
      sameOutside s u (a + 512 * k.idx) k.payload.length
    (∀ r, s.fer.works = [] → rec? s k.job.toNat k.shard = some r → leadsTo (.gatherPkt p) s (fun u =>
      stored u (localOf r.params) ∧ (∃ y, u.fer.works = [y] ∧ y.units = [(k.idx, k.count)]) ∧ goesOn_ u)) ∧
    (∀ w b, OnlyWork s w k.job.toNat k.shard k.tag → w.bind = some b → J.closing = false → leadsTo (.gatherPkt p) s (fun u =>
      stored u (localOf b.params) ∧ (∃ y, u.fer.works = [y] ∧ y.units = mset w.units k.idx k.count) ∧ goesOn_ u)))

/-- Mirrors and the ends of shard-steps: the holder allocates a mirror at its first unit, acknowledges it at its record, or answers
that it has no room; a device that has adopted the owner's address takes the record first; the owner gathers when the mirror is
acknowledged, and its binding completes with the count it used; a NOJOB sends the refused packet past the refusing device; RESTART
resets a shard-step and STEP_ABORT ends it, each going on round the job ring (R433, R446, R447, R449 to R452). -/
def Obligations.FerruleEnds : Prop :=
  (∀ (p : Fin 40) k s J r o, ForJob s p pMirror k J → k.count % 8 = 0 → k.idx = 0 → rec? s k.job.toNat k.shard = some r →
    s.fer.mirrors = [] →
    (∀ a, mirrorPlace s (mirrorSize J r) = some a → leadsTo (.mirrorPkt p) s (fun u =>
      (∀ i (h : i < k.payload.length), byteAt u (a + i) = k.payload[i]) ∧ sameOutside s u a k.payload.length ∧
      u.fer.mirrors = [⟨k.job.toNat, k.shard, k.src, a, mirrorSize J r, k.tag, [(0, 0)], false⟩] ∧ u.out = s.out)) ∧
    (mirrorPlace s (mirrorSize J r) = none → Leaves s k.src o → leadsTo (.mirrorPkt p) s (fun u =>
      Detected s u cMirrorFail 8 (k.job.toNat % 2) ∧ (ctlGet u rFrlStat).getLsbD 5 = true ∧ sameMemory s u ∧
      passed s u o k.src pMirrorAck k.tag k.job.toNat (header 8 0 k.shard) 0 []))) ∧
  (∀ (p : Fin 40) k s J r m o, ForJob s p pMirror k J → k.count % 8 = 3 → rec? s k.job.toNat k.shard = some r →
    s.fer.mirrors = [m] → m.job = k.job.toNat → m.shard = k.shard → m.size = mirrorSize J r → m.tag = k.tag → Leaves s k.src o →
    let a := m.base + planeOff J r 3 + 512 * k.idx
    leadsTo (.mirrorPkt p) s (fun u => (∀ i (h : i < k.payload.length), byteAt u (a + i) = k.payload[i]) ∧
      sameOutside s u a k.payload.length ∧ u.fer.mirrors = [{ m with got := m.got ++ [(3, k.idx)], whole := true }] ∧
      passed s u o k.src pMirrorAck k.tag k.job.toNat (header 0 0 k.shard) 0 [])) ∧
  (∀ (p : Fin 40) k s J, ForJob s p pMirror k J → k.count % 8 = 7 → s.fer.restores = [] → leadsTo (.mirrorPkt p) s (fun u =>
    rec? u k.job.toNat k.shard = some (blockRec k.payload) ∧ u.fer.restores = [⟨k.job.toNat, k.shard, k.tag, []⟩] ∧
    u.fer.jobs = s.fer.jobs ∧ u.out = s.out ∧ sameMemory s u)) ∧
  (∀ (p : Fin 40) k s J w r b d o, ForJob s p pMirrorAck k J → J.closing = false → J.bfp = false →
    OnlyWork s w k.job.toNat k.shard k.tag → w.mirrorWait = true → w.live = some b → w.units = [] →
    rec? s k.job.toNat k.shard = some r → r.bf16 = true → 0 < r.elements → r.elements ≤ 256 → b.elements = r.elements → b.bf16 = true →
    nextHop s J = some d → Leaves s d o →
    let m := mget w.counts 0 0
    leadsTo (.mirrorAck p) s (fun u => sameMemory s u ∧
      (8 ≤ k.count % 16 → Detected s u cMirrorFail 8 (k.job.toNat % 2) ∧ (ctlGet u rFrlStat).getLsbD 6 = true) ∧
      passed s u o d pGather k.tag k.job.toNat (header m 0 k.shard) 0
        ((List.range (2 * r.elements)).map (fun i => byteAt s (localOf r.params + i))) ∧
      (∀ c, s.cmd? b.q b.n.toNat = some c → c.wait = .bind k.job.toNat k.shard b.step → ∃ e, u.cmd? b.q b.n.toNat = some e ∧
        e.wait = .done ∧ e.status = (if m < J.nominal then stPartial else stOk) ∧ e.result = BitVec.ofNat 32 (m % 65536)))) ∧
  (∀ (p : Fin 40) k s J w x d o, Engine s p pNojob k →
    let h := packetOf k.payload
    (h.type = pRedBf16 ∨ h.type = pRedBfp16 ∨ h.type = pGather) → job? s h.job.toNat = some J →
    OnlyWork s w h.job.toNat h.shard h.tag → w.sent = [x] → x.type = h.type → x.addr = h.addr →
    (h.type ≠ pGather → ownerOf s J h.shard ≠ some h.dst) → (h.type = pGather → ownerOf s J h.shard ≠ some d) →
    downOf s J h.dst = some d → d ≠ s.chain.addr → Leaves s d o →
    leadsTo (.nojobPkt p) s (fun u => Detected s u cProtocol 8 (h.job.toNat % 2) ∧ (ctlGet u rFrlStat).getLsbD 4 = true ∧
      passed s u o d h.type w.tag h.job.toNat h.addr x.ext x.payload ∧ sameMemory s u)) ∧
  (∀ (p : Fin 40) k s J w, Engine s p pNojob k →
    let h := packetOf k.payload
    (h.type = pRedBf16 ∨ h.type = pRedBfp16) → job? s h.job.toNat = some J → J.closing = false →
    OnlyWork s w h.job.toNat h.shard h.tag → ownerOf s J h.shard = some h.dst → leadsTo (.nojobPkt p) s (fun u =>
      (ctlGet u rFrlStat).getLsbD 4 = true ∧ (∃ y, u.fer.works = [y] ∧ y.ended = true) ∧ sameMemory s u)) ∧
  (∀ (p : Fin 40) k s J w d o, ForJob s p pRestart k J → OnlyWork s w k.job.toNat k.shard k.tag → w.done = false →
    nextHop s J = some d → Leaves s d o →
    (w.bind = none ∨ firstHop s J k.shard = false → leadsTo (.restartPkt p) s (fun u =>
      (∃ y, u.fer.works = [y] ∧ y.passed = [] ∧ y.missing = [] ∧ y.waits = [] ∧ y.units = [] ∧ y.restarted = some s.chain.epoch) ∧
      (ownerOf s J k.shard ≠ some d → passed s u o d pRestart k.tag k.job.toNat k.addr 0 []) ∧
      (ownerOf s J k.shard = some d → u.out = s.out) ∧ sameMemory s u)) ∧
    (∀ b, w.bind = some b → firstHop s J k.shard = true → isOwner s J k.shard = false → s.mem.poison = [] →
      leadsTo (.restartPkt p) s (fun u => sameMemory s u ∧ ∃ y, u.fer.works = [y] ∧ y.missing = [] ∧ y.waits = [] ∧
        y.passed = List.range (cdiv b.elements 256) ∧ y.restarted = some s.chain.epoch))) ∧
  (∀ (p : Fin 40) k s J w d o, ForJob s p pStepAbort k J → J.closing = false → OnlyWork s w k.job.toNat k.shard k.tag →
    nextHop s J = some d → Leaves s d o → leadsTo (.stepAbort p) s (fun u =>
      (w.bind ≠ none → Detected s u cStepAbort 8 (k.job.toNat % 2) ∧ (ctlGet u rFrlStat).getLsbD 7 = true) ∧
      passed s u o d pStepAbort k.tag k.job.toNat (header 0 0 k.shard) 0 [] ∧ (∃ y, u.fer.works = [y] ∧ y.ended = true) ∧
      (∀ b c, w.live = some b → s.cmd? b.q b.n.toNat = some c → c.wait = .bind k.job.toNat k.shard b.step →
        ∃ e, u.cmd? b.q b.n.toNat = some e ∧ e.wait = .done ∧ e.status = stAborted) ∧ sameMemory s u))
end

