-- ==== Sys2Proof/Laws/State.lean ====
section
/-!
SUPPORT. What each update of the state leaves and what it writes, field by field, and what a thread, core, lathe or control
register reads as after an update. All lemmas of the first part hold by computation.
-/

namespace Sys2Proof.Machine

/-! ## Fields -/


@[simp] theorem State.setThr_pending (s : State) (t : Tid) (x : Thread) : (s.setThr t x).pending = s.pending := rfl
@[simp] theorem State.setThr_out (s : State) (t : Tid) (x : Thread) : (s.setThr t x).out = s.out := rfl
@[simp] theorem State.setThr_free (s : State) (t : Tid) (x : Thread) : (s.setThr t x).free = s.free := rfl
@[simp] theorem State.setThr_ctl (s : State) (t : Tid) (x : Thread) : (s.setThr t x).ctl = s.ctl := rfl
@[simp] theorem State.setThr_plat (s : State) (t : Tid) (x : Thread) : (s.setThr t x).plat = s.plat := rfl
@[simp] theorem State.setThr_threads (s : State) (t : Tid) (x : Thread) : (s.setThr t x).threads = mset s.threads (tkey t) x := rfl
@[simp] theorem State.setThr_cores (s : State) (t : Tid) (x : Thread) : (s.setThr t x).cores = s.cores := rfl
@[simp] theorem State.setThr_lathes (s : State) (t : Tid) (x : Thread) : (s.setThr t x).lathes = s.lathes := rfl
@[simp] theorem State.setThr_mem (s : State) (t : Tid) (x : Thread) : (s.setThr t x).mem = s.mem := rfl
@[simp] theorem State.setThr_caches (s : State) (t : Tid) (x : Thread) : (s.setThr t x).caches = s.caches := rfl
@[simp] theorem State.setThr_overflow (s : State) (t : Tid) (x : Thread) : (s.setThr t x).overflow = s.overflow := rfl
@[simp] theorem State.setThr_mbx (s : State) (t : Tid) (x : Thread) : (s.setThr t x).mbx = s.mbx := rfl
@[simp] theorem State.setThr_host (s : State) (t : Tid) (x : Thread) : (s.setThr t x).host = s.host := rfl
@[simp] theorem State.setThr_chain (s : State) (t : Tid) (x : Thread) : (s.setThr t x).chain = s.chain := rfl
@[simp] theorem State.setThr_fer (s : State) (t : Tid) (x : Thread) : (s.setThr t x).fer = s.fer := rfl
@[simp] theorem State.setThr_flt (s : State) (t : Tid) (x : Thread) : (s.setThr t x).flt = s.flt := rfl
@[simp] theorem State.setThr_sec (s : State) (t : Tid) (x : Thread) : (s.setThr t x).sec = s.sec := rfl
@[simp] theorem State.setThr_pwr (s : State) (t : Tid) (x : Thread) : (s.setThr t x).pwr = s.pwr := rfl
@[simp] theorem State.setThr_store (s : State) (t : Tid) (x : Thread) : (s.setThr t x).store = s.store := rfl

@[simp] theorem State.modThr_pending (s : State) (t : Tid) (g : Thread → Thread) : (s.modThr t g).pending = s.pending := rfl
@[simp] theorem State.modThr_out (s : State) (t : Tid) (g : Thread → Thread) : (s.modThr t g).out = s.out := rfl
@[simp] theorem State.modThr_free (s : State) (t : Tid) (g : Thread → Thread) : (s.modThr t g).free = s.free := rfl
@[simp] theorem State.modThr_ctl (s : State) (t : Tid) (g : Thread → Thread) : (s.modThr t g).ctl = s.ctl := rfl
@[simp] theorem State.modThr_plat (s : State) (t : Tid) (g : Thread → Thread) : (s.modThr t g).plat = s.plat := rfl
@[simp] theorem State.modThr_cores (s : State) (t : Tid) (g : Thread → Thread) : (s.modThr t g).cores = s.cores := rfl
@[simp] theorem State.modThr_lathes (s : State) (t : Tid) (g : Thread → Thread) : (s.modThr t g).lathes = s.lathes := rfl
@[simp] theorem State.modThr_mem (s : State) (t : Tid) (g : Thread → Thread) : (s.modThr t g).mem = s.mem := rfl
@[simp] theorem State.modThr_caches (s : State) (t : Tid) (g : Thread → Thread) : (s.modThr t g).caches = s.caches := rfl
@[simp] theorem State.modThr_overflow (s : State) (t : Tid) (g : Thread → Thread) : (s.modThr t g).overflow = s.overflow := rfl
@[simp] theorem State.modThr_mbx (s : State) (t : Tid) (g : Thread → Thread) : (s.modThr t g).mbx = s.mbx := rfl
@[simp] theorem State.modThr_host (s : State) (t : Tid) (g : Thread → Thread) : (s.modThr t g).host = s.host := rfl
@[simp] theorem State.modThr_chain (s : State) (t : Tid) (g : Thread → Thread) : (s.modThr t g).chain = s.chain := rfl
@[simp] theorem State.modThr_fer (s : State) (t : Tid) (g : Thread → Thread) : (s.modThr t g).fer = s.fer := rfl
@[simp] theorem State.modThr_flt (s : State) (t : Tid) (g : Thread → Thread) : (s.modThr t g).flt = s.flt := rfl
@[simp] theorem State.modThr_sec (s : State) (t : Tid) (g : Thread → Thread) : (s.modThr t g).sec = s.sec := rfl
@[simp] theorem State.modThr_pwr (s : State) (t : Tid) (g : Thread → Thread) : (s.modThr t g).pwr = s.pwr := rfl
@[simp] theorem State.modThr_store (s : State) (t : Tid) (g : Thread → Thread) : (s.modThr t g).store = s.store := rfl

@[simp] theorem State.setCore_pending (s : State) (l c : Nat) (x : Core) : (s.setCore l c x).pending = s.pending := rfl
@[simp] theorem State.setCore_out (s : State) (l c : Nat) (x : Core) : (s.setCore l c x).out = s.out := rfl
@[simp] theorem State.setCore_free (s : State) (l c : Nat) (x : Core) : (s.setCore l c x).free = s.free := rfl
@[simp] theorem State.setCore_ctl (s : State) (l c : Nat) (x : Core) : (s.setCore l c x).ctl = s.ctl := rfl
@[simp] theorem State.setCore_plat (s : State) (l c : Nat) (x : Core) : (s.setCore l c x).plat = s.plat := rfl
@[simp] theorem State.setCore_threads (s : State) (l c : Nat) (x : Core) : (s.setCore l c x).threads = s.threads := rfl
@[simp] theorem State.setCore_cores (s : State) (l c : Nat) (x : Core) : (s.setCore l c x).cores = mset s.cores (ckey l c) x := rfl
@[simp] theorem State.setCore_lathes (s : State) (l c : Nat) (x : Core) : (s.setCore l c x).lathes = s.lathes := rfl
@[simp] theorem State.setCore_mem (s : State) (l c : Nat) (x : Core) : (s.setCore l c x).mem = s.mem := rfl
@[simp] theorem State.setCore_caches (s : State) (l c : Nat) (x : Core) : (s.setCore l c x).caches = s.caches := rfl
@[simp] theorem State.setCore_overflow (s : State) (l c : Nat) (x : Core) : (s.setCore l c x).overflow = s.overflow := rfl
@[simp] theorem State.setCore_mbx (s : State) (l c : Nat) (x : Core) : (s.setCore l c x).mbx = s.mbx := rfl
@[simp] theorem State.setCore_host (s : State) (l c : Nat) (x : Core) : (s.setCore l c x).host = s.host := rfl
@[simp] theorem State.setCore_chain (s : State) (l c : Nat) (x : Core) : (s.setCore l c x).chain = s.chain := rfl
@[simp] theorem State.setCore_fer (s : State) (l c : Nat) (x : Core) : (s.setCore l c x).fer = s.fer := rfl
@[simp] theorem State.setCore_flt (s : State) (l c : Nat) (x : Core) : (s.setCore l c x).flt = s.flt := rfl
@[simp] theorem State.setCore_sec (s : State) (l c : Nat) (x : Core) : (s.setCore l c x).sec = s.sec := rfl
@[simp] theorem State.setCore_pwr (s : State) (l c : Nat) (x : Core) : (s.setCore l c x).pwr = s.pwr := rfl
@[simp] theorem State.setCore_store (s : State) (l c : Nat) (x : Core) : (s.setCore l c x).store = s.store := rfl

@[simp] theorem State.modCore_pending (s : State) (l c : Nat) (g : Core → Core) : (s.modCore l c g).pending = s.pending := rfl
@[simp] theorem State.modCore_out (s : State) (l c : Nat) (g : Core → Core) : (s.modCore l c g).out = s.out := rfl
@[simp] theorem State.modCore_free (s : State) (l c : Nat) (g : Core → Core) : (s.modCore l c g).free = s.free := rfl
@[simp] theorem State.modCore_ctl (s : State) (l c : Nat) (g : Core → Core) : (s.modCore l c g).ctl = s.ctl := rfl
@[simp] theorem State.modCore_plat (s : State) (l c : Nat) (g : Core → Core) : (s.modCore l c g).plat = s.plat := rfl
@[simp] theorem State.modCore_threads (s : State) (l c : Nat) (g : Core → Core) : (s.modCore l c g).threads = s.threads := rfl
@[simp] theorem State.modCore_lathes (s : State) (l c : Nat) (g : Core → Core) : (s.modCore l c g).lathes = s.lathes := rfl
@[simp] theorem State.modCore_mem (s : State) (l c : Nat) (g : Core → Core) : (s.modCore l c g).mem = s.mem := rfl
@[simp] theorem State.modCore_caches (s : State) (l c : Nat) (g : Core → Core) : (s.modCore l c g).caches = s.caches := rfl
@[simp] theorem State.modCore_overflow (s : State) (l c : Nat) (g : Core → Core) : (s.modCore l c g).overflow = s.overflow := rfl
@[simp] theorem State.modCore_mbx (s : State) (l c : Nat) (g : Core → Core) : (s.modCore l c g).mbx = s.mbx := rfl
@[simp] theorem State.modCore_host (s : State) (l c : Nat) (g : Core → Core) : (s.modCore l c g).host = s.host := rfl
@[simp] theorem State.modCore_chain (s : State) (l c : Nat) (g : Core → Core) : (s.modCore l c g).chain = s.chain := rfl
@[simp] theorem State.modCore_fer (s : State) (l c : Nat) (g : Core → Core) : (s.modCore l c g).fer = s.fer := rfl
@[simp] theorem State.modCore_flt (s : State) (l c : Nat) (g : Core → Core) : (s.modCore l c g).flt = s.flt := rfl
@[simp] theorem State.modCore_sec (s : State) (l c : Nat) (g : Core → Core) : (s.modCore l c g).sec = s.sec := rfl
@[simp] theorem State.modCore_pwr (s : State) (l c : Nat) (g : Core → Core) : (s.modCore l c g).pwr = s.pwr := rfl
@[simp] theorem State.modCore_store (s : State) (l c : Nat) (g : Core → Core) : (s.modCore l c g).store = s.store := rfl

@[simp] theorem State.setLathe_pending (s : State) (n : Nat) (x : Lathe) : (s.setLathe n x).pending = s.pending := rfl
@[simp] theorem State.setLathe_out (s : State) (n : Nat) (x : Lathe) : (s.setLathe n x).out = s.out := rfl
@[simp] theorem State.setLathe_free (s : State) (n : Nat) (x : Lathe) : (s.setLathe n x).free = s.free := rfl
@[simp] theorem State.setLathe_ctl (s : State) (n : Nat) (x : Lathe) : (s.setLathe n x).ctl = s.ctl := rfl
@[simp] theorem State.setLathe_plat (s : State) (n : Nat) (x : Lathe) : (s.setLathe n x).plat = s.plat := rfl
@[simp] theorem State.setLathe_threads (s : State) (n : Nat) (x : Lathe) : (s.setLathe n x).threads = s.threads := rfl
@[simp] theorem State.setLathe_cores (s : State) (n : Nat) (x : Lathe) : (s.setLathe n x).cores = s.cores := rfl
@[simp] theorem State.setLathe_lathes (s : State) (n : Nat) (x : Lathe) : (s.setLathe n x).lathes = mset s.lathes n x := rfl
@[simp] theorem State.setLathe_mem (s : State) (n : Nat) (x : Lathe) : (s.setLathe n x).mem = s.mem := rfl
@[simp] theorem State.setLathe_caches (s : State) (n : Nat) (x : Lathe) : (s.setLathe n x).caches = s.caches := rfl
@[simp] theorem State.setLathe_overflow (s : State) (n : Nat) (x : Lathe) : (s.setLathe n x).overflow = s.overflow := rfl
@[simp] theorem State.setLathe_mbx (s : State) (n : Nat) (x : Lathe) : (s.setLathe n x).mbx = s.mbx := rfl
@[simp] theorem State.setLathe_host (s : State) (n : Nat) (x : Lathe) : (s.setLathe n x).host = s.host := rfl
@[simp] theorem State.setLathe_chain (s : State) (n : Nat) (x : Lathe) : (s.setLathe n x).chain = s.chain := rfl
@[simp] theorem State.setLathe_fer (s : State) (n : Nat) (x : Lathe) : (s.setLathe n x).fer = s.fer := rfl
@[simp] theorem State.setLathe_flt (s : State) (n : Nat) (x : Lathe) : (s.setLathe n x).flt = s.flt := rfl
@[simp] theorem State.setLathe_sec (s : State) (n : Nat) (x : Lathe) : (s.setLathe n x).sec = s.sec := rfl
@[simp] theorem State.setLathe_pwr (s : State) (n : Nat) (x : Lathe) : (s.setLathe n x).pwr = s.pwr := rfl
@[simp] theorem State.setLathe_store (s : State) (n : Nat) (x : Lathe) : (s.setLathe n x).store = s.store := rfl

@[simp] theorem State.modLathe_pending (s : State) (n : Nat) (g : Lathe → Lathe) : (s.modLathe n g).pending = s.pending := rfl
@[simp] theorem State.modLathe_out (s : State) (n : Nat) (g : Lathe → Lathe) : (s.modLathe n g).out = s.out := rfl
@[simp] theorem State.modLathe_free (s : State) (n : Nat) (g : Lathe → Lathe) : (s.modLathe n g).free = s.free := rfl
@[simp] theorem State.modLathe_ctl (s : State) (n : Nat) (g : Lathe → Lathe) : (s.modLathe n g).ctl = s.ctl := rfl
@[simp] theorem State.modLathe_plat (s : State) (n : Nat) (g : Lathe → Lathe) : (s.modLathe n g).plat = s.plat := rfl
@[simp] theorem State.modLathe_threads (s : State) (n : Nat) (g : Lathe → Lathe) : (s.modLathe n g).threads = s.threads := rfl
@[simp] theorem State.modLathe_cores (s : State) (n : Nat) (g : Lathe → Lathe) : (s.modLathe n g).cores = s.cores := rfl
@[simp] theorem State.modLathe_mem (s : State) (n : Nat) (g : Lathe → Lathe) : (s.modLathe n g).mem = s.mem := rfl
@[simp] theorem State.modLathe_caches (s : State) (n : Nat) (g : Lathe → Lathe) : (s.modLathe n g).caches = s.caches := rfl
@[simp] theorem State.modLathe_overflow (s : State) (n : Nat) (g : Lathe → Lathe) : (s.modLathe n g).overflow = s.overflow := rfl
@[simp] theorem State.modLathe_mbx (s : State) (n : Nat) (g : Lathe → Lathe) : (s.modLathe n g).mbx = s.mbx := rfl
@[simp] theorem State.modLathe_host (s : State) (n : Nat) (g : Lathe → Lathe) : (s.modLathe n g).host = s.host := rfl
@[simp] theorem State.modLathe_chain (s : State) (n : Nat) (g : Lathe → Lathe) : (s.modLathe n g).chain = s.chain := rfl
@[simp] theorem State.modLathe_fer (s : State) (n : Nat) (g : Lathe → Lathe) : (s.modLathe n g).fer = s.fer := rfl
@[simp] theorem State.modLathe_flt (s : State) (n : Nat) (g : Lathe → Lathe) : (s.modLathe n g).flt = s.flt := rfl
@[simp] theorem State.modLathe_sec (s : State) (n : Nat) (g : Lathe → Lathe) : (s.modLathe n g).sec = s.sec := rfl
@[simp] theorem State.modLathe_pwr (s : State) (n : Nat) (g : Lathe → Lathe) : (s.modLathe n g).pwr = s.pwr := rfl
@[simp] theorem State.modLathe_store (s : State) (n : Nat) (g : Lathe → Lathe) : (s.modLathe n g).store = s.store := rfl

@[simp] theorem State.withPending_pending (s : State) (q : List Instr) : (s.withPending q).pending = q := rfl
@[simp] theorem State.withPending_out (s : State) (q : List Instr) : (s.withPending q).out = s.out := rfl
@[simp] theorem State.withPending_free (s : State) (q : List Instr) : (s.withPending q).free = s.free := rfl
@[simp] theorem State.withPending_ctl (s : State) (q : List Instr) : (s.withPending q).ctl = s.ctl := rfl
@[simp] theorem State.withPending_plat (s : State) (q : List Instr) : (s.withPending q).plat = s.plat := rfl
@[simp] theorem State.withPending_threads (s : State) (q : List Instr) : (s.withPending q).threads = s.threads := rfl
@[simp] theorem State.withPending_cores (s : State) (q : List Instr) : (s.withPending q).cores = s.cores := rfl
@[simp] theorem State.withPending_lathes (s : State) (q : List Instr) : (s.withPending q).lathes = s.lathes := rfl
@[simp] theorem State.withPending_mem (s : State) (q : List Instr) : (s.withPending q).mem = s.mem := rfl
@[simp] theorem State.withPending_caches (s : State) (q : List Instr) : (s.withPending q).caches = s.caches := rfl
@[simp] theorem State.withPending_overflow (s : State) (q : List Instr) : (s.withPending q).overflow = s.overflow := rfl
@[simp] theorem State.withPending_mbx (s : State) (q : List Instr) : (s.withPending q).mbx = s.mbx := rfl
@[simp] theorem State.withPending_host (s : State) (q : List Instr) : (s.withPending q).host = s.host := rfl
@[simp] theorem State.withPending_chain (s : State) (q : List Instr) : (s.withPending q).chain = s.chain := rfl
@[simp] theorem State.withPending_fer (s : State) (q : List Instr) : (s.withPending q).fer = s.fer := rfl
@[simp] theorem State.withPending_flt (s : State) (q : List Instr) : (s.withPending q).flt = s.flt := rfl
@[simp] theorem State.withPending_sec (s : State) (q : List Instr) : (s.withPending q).sec = s.sec := rfl
@[simp] theorem State.withPending_pwr (s : State) (q : List Instr) : (s.withPending q).pwr = s.pwr := rfl
@[simp] theorem State.withPending_store (s : State) (q : List Instr) : (s.withPending q).store = s.store := rfl

@[simp] theorem emit_pending (s : State) (o : Out) : (emit s o).pending = s.pending := rfl
@[simp] theorem emit_out (s : State) (o : Out) : (emit s o).out = s.out ++ [o] := rfl
@[simp] theorem emit_free (s : State) (o : Out) : (emit s o).free = s.free := rfl
@[simp] theorem emit_ctl (s : State) (o : Out) : (emit s o).ctl = s.ctl := rfl
@[simp] theorem emit_plat (s : State) (o : Out) : (emit s o).plat = s.plat := rfl
@[simp] theorem emit_threads (s : State) (o : Out) : (emit s o).threads = s.threads := rfl
@[simp] theorem emit_cores (s : State) (o : Out) : (emit s o).cores = s.cores := rfl
@[simp] theorem emit_lathes (s : State) (o : Out) : (emit s o).lathes = s.lathes := rfl
@[simp] theorem emit_mem (s : State) (o : Out) : (emit s o).mem = s.mem := rfl
@[simp] theorem emit_caches (s : State) (o : Out) : (emit s o).caches = s.caches := rfl
@[simp] theorem emit_overflow (s : State) (o : Out) : (emit s o).overflow = s.overflow := rfl
@[simp] theorem emit_mbx (s : State) (o : Out) : (emit s o).mbx = s.mbx := rfl
@[simp] theorem emit_host (s : State) (o : Out) : (emit s o).host = s.host := rfl
@[simp] theorem emit_chain (s : State) (o : Out) : (emit s o).chain = s.chain := rfl
@[simp] theorem emit_fer (s : State) (o : Out) : (emit s o).fer = s.fer := rfl
@[simp] theorem emit_flt (s : State) (o : Out) : (emit s o).flt = s.flt := rfl
@[simp] theorem emit_sec (s : State) (o : Out) : (emit s o).sec = s.sec := rfl
@[simp] theorem emit_pwr (s : State) (o : Out) : (emit s o).pwr = s.pwr := rfl
@[simp] theorem emit_store (s : State) (o : Out) : (emit s o).store = s.store := rfl

@[simp] theorem ctlSet_pending (s : State) (off : Nat) (v : Word) : (ctlSet s off v).pending = s.pending := rfl
@[simp] theorem ctlSet_out (s : State) (off : Nat) (v : Word) : (ctlSet s off v).out = s.out := rfl
@[simp] theorem ctlSet_free (s : State) (off : Nat) (v : Word) : (ctlSet s off v).free = s.free := rfl
@[simp] theorem ctlSet_ctl (s : State) (off : Nat) (v : Word) : (ctlSet s off v).ctl = mset s.ctl off v := rfl
@[simp] theorem ctlSet_plat (s : State) (off : Nat) (v : Word) : (ctlSet s off v).plat = s.plat := rfl
@[simp] theorem ctlSet_threads (s : State) (off : Nat) (v : Word) : (ctlSet s off v).threads = s.threads := rfl
@[simp] theorem ctlSet_cores (s : State) (off : Nat) (v : Word) : (ctlSet s off v).cores = s.cores := rfl
@[simp] theorem ctlSet_lathes (s : State) (off : Nat) (v : Word) : (ctlSet s off v).lathes = s.lathes := rfl
@[simp] theorem ctlSet_mem (s : State) (off : Nat) (v : Word) : (ctlSet s off v).mem = s.mem := rfl
@[simp] theorem ctlSet_caches (s : State) (off : Nat) (v : Word) : (ctlSet s off v).caches = s.caches := rfl
@[simp] theorem ctlSet_overflow (s : State) (off : Nat) (v : Word) : (ctlSet s off v).overflow = s.overflow := rfl
@[simp] theorem ctlSet_mbx (s : State) (off : Nat) (v : Word) : (ctlSet s off v).mbx = s.mbx := rfl
@[simp] theorem ctlSet_host (s : State) (off : Nat) (v : Word) : (ctlSet s off v).host = s.host := rfl
@[simp] theorem ctlSet_chain (s : State) (off : Nat) (v : Word) : (ctlSet s off v).chain = s.chain := rfl
@[simp] theorem ctlSet_fer (s : State) (off : Nat) (v : Word) : (ctlSet s off v).fer = s.fer := rfl
@[simp] theorem ctlSet_flt (s : State) (off : Nat) (v : Word) : (ctlSet s off v).flt = s.flt := rfl
@[simp] theorem ctlSet_sec (s : State) (off : Nat) (v : Word) : (ctlSet s off v).sec = s.sec := rfl
@[simp] theorem ctlSet_pwr (s : State) (off : Nat) (v : Word) : (ctlSet s off v).pwr = s.pwr := rfl
@[simp] theorem ctlSet_store (s : State) (off : Nat) (v : Word) : (ctlSet s off v).store = s.store := rfl

@[simp] theorem ctlOr_pending (s : State) (off : Nat) (v : Word) : (ctlOr s off v).pending = s.pending := rfl
@[simp] theorem ctlOr_out (s : State) (off : Nat) (v : Word) : (ctlOr s off v).out = s.out := rfl
@[simp] theorem ctlOr_free (s : State) (off : Nat) (v : Word) : (ctlOr s off v).free = s.free := rfl
@[simp] theorem ctlOr_plat (s : State) (off : Nat) (v : Word) : (ctlOr s off v).plat = s.plat := rfl
@[simp] theorem ctlOr_threads (s : State) (off : Nat) (v : Word) : (ctlOr s off v).threads = s.threads := rfl
@[simp] theorem ctlOr_cores (s : State) (off : Nat) (v : Word) : (ctlOr s off v).cores = s.cores := rfl
@[simp] theorem ctlOr_lathes (s : State) (off : Nat) (v : Word) : (ctlOr s off v).lathes = s.lathes := rfl
@[simp] theorem ctlOr_mem (s : State) (off : Nat) (v : Word) : (ctlOr s off v).mem = s.mem := rfl
@[simp] theorem ctlOr_caches (s : State) (off : Nat) (v : Word) : (ctlOr s off v).caches = s.caches := rfl
@[simp] theorem ctlOr_overflow (s : State) (off : Nat) (v : Word) : (ctlOr s off v).overflow = s.overflow := rfl
@[simp] theorem ctlOr_mbx (s : State) (off : Nat) (v : Word) : (ctlOr s off v).mbx = s.mbx := rfl
@[simp] theorem ctlOr_host (s : State) (off : Nat) (v : Word) : (ctlOr s off v).host = s.host := rfl
@[simp] theorem ctlOr_chain (s : State) (off : Nat) (v : Word) : (ctlOr s off v).chain = s.chain := rfl
@[simp] theorem ctlOr_fer (s : State) (off : Nat) (v : Word) : (ctlOr s off v).fer = s.fer := rfl
@[simp] theorem ctlOr_flt (s : State) (off : Nat) (v : Word) : (ctlOr s off v).flt = s.flt := rfl
@[simp] theorem ctlOr_sec (s : State) (off : Nat) (v : Word) : (ctlOr s off v).sec = s.sec := rfl
@[simp] theorem ctlOr_pwr (s : State) (off : Nat) (v : Word) : (ctlOr s off v).pwr = s.pwr := rfl
@[simp] theorem ctlOr_store (s : State) (off : Nat) (v : Word) : (ctlOr s off v).store = s.store := rfl

@[simp] theorem memWrite_pending (s : State) (a : Nat) (d : List Byte) : (memWrite s a d).pending = s.pending := rfl
@[simp] theorem memWrite_out (s : State) (a : Nat) (d : List Byte) : (memWrite s a d).out = s.out := rfl
@[simp] theorem memWrite_free (s : State) (a : Nat) (d : List Byte) : (memWrite s a d).free = s.free := rfl
@[simp] theorem memWrite_ctl (s : State) (a : Nat) (d : List Byte) : (memWrite s a d).ctl = s.ctl := rfl
@[simp] theorem memWrite_plat (s : State) (a : Nat) (d : List Byte) : (memWrite s a d).plat = s.plat := rfl
@[simp] theorem memWrite_threads (s : State) (a : Nat) (d : List Byte) : (memWrite s a d).threads = s.threads := rfl
@[simp] theorem memWrite_cores (s : State) (a : Nat) (d : List Byte) : (memWrite s a d).cores = s.cores := rfl
@[simp] theorem memWrite_lathes (s : State) (a : Nat) (d : List Byte) : (memWrite s a d).lathes = s.lathes := rfl
@[simp] theorem memWrite_caches (s : State) (a : Nat) (d : List Byte) : (memWrite s a d).caches = s.caches := rfl
@[simp] theorem memWrite_overflow (s : State) (a : Nat) (d : List Byte) : (memWrite s a d).overflow = s.overflow := rfl
@[simp] theorem memWrite_mbx (s : State) (a : Nat) (d : List Byte) : (memWrite s a d).mbx = s.mbx := rfl
@[simp] theorem memWrite_host (s : State) (a : Nat) (d : List Byte) : (memWrite s a d).host = s.host := rfl
@[simp] theorem memWrite_chain (s : State) (a : Nat) (d : List Byte) : (memWrite s a d).chain = s.chain := rfl
@[simp] theorem memWrite_fer (s : State) (a : Nat) (d : List Byte) : (memWrite s a d).fer = s.fer := rfl
@[simp] theorem memWrite_flt (s : State) (a : Nat) (d : List Byte) : (memWrite s a d).flt = s.flt := rfl
@[simp] theorem memWrite_sec (s : State) (a : Nat) (d : List Byte) : (memWrite s a d).sec = s.sec := rfl
@[simp] theorem memWrite_pwr (s : State) (a : Nat) (d : List Byte) : (memWrite s a d).pwr = s.pwr := rfl
@[simp] theorem memWrite_store (s : State) (a : Nat) (d : List Byte) : (memWrite s a d).store = s.store := rfl

@[simp] theorem memClear_pending (s : State) (lo n : Nat) : (memClear s lo n).pending = s.pending := rfl
@[simp] theorem memClear_out (s : State) (lo n : Nat) : (memClear s lo n).out = s.out := rfl
@[simp] theorem memClear_free (s : State) (lo n : Nat) : (memClear s lo n).free = s.free := rfl
@[simp] theorem memClear_ctl (s : State) (lo n : Nat) : (memClear s lo n).ctl = s.ctl := rfl
@[simp] theorem memClear_plat (s : State) (lo n : Nat) : (memClear s lo n).plat = s.plat := rfl
@[simp] theorem memClear_threads (s : State) (lo n : Nat) : (memClear s lo n).threads = s.threads := rfl
@[simp] theorem memClear_cores (s : State) (lo n : Nat) : (memClear s lo n).cores = s.cores := rfl
@[simp] theorem memClear_lathes (s : State) (lo n : Nat) : (memClear s lo n).lathes = s.lathes := rfl
@[simp] theorem memClear_caches (s : State) (lo n : Nat) : (memClear s lo n).caches = s.caches := rfl
@[simp] theorem memClear_overflow (s : State) (lo n : Nat) : (memClear s lo n).overflow = s.overflow := rfl
@[simp] theorem memClear_mbx (s : State) (lo n : Nat) : (memClear s lo n).mbx = s.mbx := rfl
@[simp] theorem memClear_host (s : State) (lo n : Nat) : (memClear s lo n).host = s.host := rfl
@[simp] theorem memClear_chain (s : State) (lo n : Nat) : (memClear s lo n).chain = s.chain := rfl
@[simp] theorem memClear_fer (s : State) (lo n : Nat) : (memClear s lo n).fer = s.fer := rfl
@[simp] theorem memClear_flt (s : State) (lo n : Nat) : (memClear s lo n).flt = s.flt := rfl
@[simp] theorem memClear_sec (s : State) (lo n : Nat) : (memClear s lo n).sec = s.sec := rfl
@[simp] theorem memClear_pwr (s : State) (lo n : Nat) : (memClear s lo n).pwr = s.pwr := rfl
@[simp] theorem memClear_store (s : State) (lo n : Nat) : (memClear s lo n).store = s.store := rfl

@[simp] theorem setPoison_pending (s : State) (a : Nat) : (setPoison s a).pending = s.pending := rfl
@[simp] theorem setPoison_out (s : State) (a : Nat) : (setPoison s a).out = s.out := rfl
@[simp] theorem setPoison_free (s : State) (a : Nat) : (setPoison s a).free = s.free := rfl
@[simp] theorem setPoison_ctl (s : State) (a : Nat) : (setPoison s a).ctl = s.ctl := rfl
@[simp] theorem setPoison_plat (s : State) (a : Nat) : (setPoison s a).plat = s.plat := rfl
@[simp] theorem setPoison_threads (s : State) (a : Nat) : (setPoison s a).threads = s.threads := rfl
@[simp] theorem setPoison_cores (s : State) (a : Nat) : (setPoison s a).cores = s.cores := rfl
@[simp] theorem setPoison_lathes (s : State) (a : Nat) : (setPoison s a).lathes = s.lathes := rfl
@[simp] theorem setPoison_caches (s : State) (a : Nat) : (setPoison s a).caches = s.caches := rfl
@[simp] theorem setPoison_overflow (s : State) (a : Nat) : (setPoison s a).overflow = s.overflow := rfl
@[simp] theorem setPoison_mbx (s : State) (a : Nat) : (setPoison s a).mbx = s.mbx := rfl
@[simp] theorem setPoison_host (s : State) (a : Nat) : (setPoison s a).host = s.host := rfl
@[simp] theorem setPoison_chain (s : State) (a : Nat) : (setPoison s a).chain = s.chain := rfl
@[simp] theorem setPoison_fer (s : State) (a : Nat) : (setPoison s a).fer = s.fer := rfl
@[simp] theorem setPoison_flt (s : State) (a : Nat) : (setPoison s a).flt = s.flt := rfl
@[simp] theorem setPoison_sec (s : State) (a : Nat) : (setPoison s a).sec = s.sec := rfl
@[simp] theorem setPoison_pwr (s : State) (a : Nat) : (setPoison s a).pwr = s.pwr := rfl
@[simp] theorem setPoison_store (s : State) (a : Nat) : (setPoison s a).store = s.store := rfl

@[simp] theorem dropCopies_pending (s : State) (w : Word) (n : Nat) : (dropCopies s w n).pending = s.pending := rfl
@[simp] theorem dropCopies_out (s : State) (w : Word) (n : Nat) : (dropCopies s w n).out = s.out := rfl
@[simp] theorem dropCopies_free (s : State) (w : Word) (n : Nat) : (dropCopies s w n).free = s.free := rfl
@[simp] theorem dropCopies_ctl (s : State) (w : Word) (n : Nat) : (dropCopies s w n).ctl = s.ctl := rfl
@[simp] theorem dropCopies_plat (s : State) (w : Word) (n : Nat) : (dropCopies s w n).plat = s.plat := rfl
@[simp] theorem dropCopies_threads (s : State) (w : Word) (n : Nat) : (dropCopies s w n).threads = s.threads := rfl
@[simp] theorem dropCopies_cores (s : State) (w : Word) (n : Nat) : (dropCopies s w n).cores = s.cores := rfl
@[simp] theorem dropCopies_lathes (s : State) (w : Word) (n : Nat) : (dropCopies s w n).lathes = s.lathes := rfl
@[simp] theorem dropCopies_overflow (s : State) (w : Word) (n : Nat) : (dropCopies s w n).overflow = s.overflow := rfl
@[simp] theorem dropCopies_mbx (s : State) (w : Word) (n : Nat) : (dropCopies s w n).mbx = s.mbx := rfl
@[simp] theorem dropCopies_host (s : State) (w : Word) (n : Nat) : (dropCopies s w n).host = s.host := rfl
@[simp] theorem dropCopies_fer (s : State) (w : Word) (n : Nat) : (dropCopies s w n).fer = s.fer := rfl
@[simp] theorem dropCopies_flt (s : State) (w : Word) (n : Nat) : (dropCopies s w n).flt = s.flt := rfl
@[simp] theorem dropCopies_sec (s : State) (w : Word) (n : Nat) : (dropCopies s w n).sec = s.sec := rfl
@[simp] theorem dropCopies_pwr (s : State) (w : Word) (n : Nat) : (dropCopies s w n).pwr = s.pwr := rfl
@[simp] theorem dropCopies_store (s : State) (w : Word) (n : Nat) : (dropCopies s w n).store = s.store := rfl

/-! ## Sparse maps -/

@[simp] theorem mget?_mset_same {α : Type} (m : SMap α) (k : Nat) (v : α) : mget? (mset m k v) k = some v := by
  induction m with
  | nil => simp [mset, mget?]
  | cons p r ih =>
    obtain ⟨j, w⟩ := p
    by_cases h : j = k
    · simp [mset, mget?, h]
    · by_cases h2 : k < j
      · simp [mset, mget?, h, h2]
      · simp [mset, mget?, h, h2, ih]

theorem mget?_mset_other {α : Type} (m : SMap α) (k n : Nat) (v : α) (h : n ≠ k) : mget? (mset m k v) n = mget? m n := by
  have h' : ¬k = n := fun e => h e.symm
  induction m with
  | nil => simp [mset, mget?, h']
  | cons p r ih =>
    obtain ⟨j, w⟩ := p
    by_cases h1 : j = k
    · subst h1; simp [mset, mget?, h']
    · by_cases h2 : k < j
      · simp [mset, mget?, h1, h2, h']
      · by_cases h3 : j = n
        · subst h3; simp [mset, mget?, h1, h2]
        · simp [mset, mget?, h1, h2, h3, ih]

@[simp] theorem mget_mset_same {α : Type} (m : SMap α) (k : Nat) (v d : α) : mget (mset m k v) k d = v := by
  simp [mget]

theorem mget_mset_other {α : Type} (m : SMap α) (k n : Nat) (v d : α) (h : n ≠ k) :
    mget (mset m k v) n d = mget m n d := by simp [mget, mget?_mset_other m k n v h]

theorem mget?_mdel {α : Type} (m : SMap α) (k n : Nat) : mget? (mdel m k) n = if n = k then none else mget? m n := by
  induction m with
  | nil => simp [mdel, mget?]
  | cons p r ih =>
    obtain ⟨j, w⟩ := p
    rw [mdel, List.filter_cons]
    by_cases h : j = k
    · subst h
      simp only [bne_self_eq_false, Bool.false_eq_true, if_false]
      rw [mdel] at ih
      rw [ih]
      by_cases h2 : n = j
      · simp [h2]
      · have h3 : ¬j = n := fun e => h2 e.symm
        simp [mget?, h2, h3]
    · have h1 : (j != k) = true := by simpa using h
      simp only [h1, if_true]
      rw [mdel] at ih
      by_cases h2 : j = n
      · subst h2; simp [mget?, h]
      · simp [mget?, h2, ih]

/-! ## What stands after an update -/

@[simp] theorem State.setThr_thr (s : State) (t : Tid) (x : Thread) : (s.setThr t x).thr t = x := by
  simp [State.thr, State.setThr]

theorem State.setThr_thr_other (s : State) (t u : Tid) (x : Thread) (h : tkey u ≠ tkey t) :
    (s.setThr t x).thr u = s.thr u := by simp [State.thr, State.setThr, mget_mset_other _ _ _ _ _ h]

@[simp] theorem State.setThr_core (s : State) (t : Tid) (x : Thread) (l c : Nat) : (s.setThr t x).core l c = s.core l c := rfl
@[simp] theorem State.setThr_lathe (s : State) (t : Tid) (x : Thread) (n : Nat) : (s.setThr t x).lathe n = s.lathe n := rfl
@[simp] theorem State.setCore_thr (s : State) (l c : Nat) (x : Core) (t : Tid) : (s.setCore l c x).thr t = s.thr t := rfl
@[simp] theorem State.setCore_lathe (s : State) (l c : Nat) (x : Core) (n : Nat) : (s.setCore l c x).lathe n = s.lathe n := rfl
@[simp] theorem State.setCore_core (s : State) (l c : Nat) (x : Core) : (s.setCore l c x).core l c = x := by
  simp [State.core, State.setCore]
@[simp] theorem State.setLathe_thr (s : State) (n : Nat) (x : Lathe) (t : Tid) : (s.setLathe n x).thr t = s.thr t := rfl
@[simp] theorem State.setLathe_core (s : State) (n : Nat) (x : Lathe) (l c : Nat) : (s.setLathe n x).core l c = s.core l c := rfl
@[simp] theorem State.setLathe_lathe (s : State) (n : Nat) (x : Lathe) : (s.setLathe n x).lathe n = x := by
  simp [State.lathe, State.setLathe]
@[simp] theorem State.modThr_thr (s : State) (t : Tid) (g : Thread → Thread) : (s.modThr t g).thr t = g (s.thr t) := by
  simp [State.modThr]
@[simp] theorem State.modThr_core (s : State) (t : Tid) (g : Thread → Thread) (l c : Nat) :
    (s.modThr t g).core l c = s.core l c := rfl
@[simp] theorem State.modThr_lathe (s : State) (t : Tid) (g : Thread → Thread) (n : Nat) :
    (s.modThr t g).lathe n = s.lathe n := rfl

theorem State.setCore_core_other (s : State) (l c l' c' : Nat) (x : Core) (h : ckey l' c' ≠ ckey l c) :
    (s.setCore l c x).core l' c' = s.core l' c' := by simp [State.core, State.setCore, mget_mset_other _ _ _ _ _ h]

theorem State.setLathe_lathe_other (s : State) (n m : Nat) (x : Lathe) (h : m ≠ n) :
    (s.setLathe n x).lathe m = s.lathe m := by simp [State.lathe, State.setLathe, mget_mset_other _ _ _ _ _ h]

@[simp] theorem ctlGet_ctlSet_same (s : State) (off : Nat) (v : Word) : ctlGet (ctlSet s off v) off = v := by
  simp [ctlGet, ctlSet]

theorem ctlGet_ctlSet_other (s : State) (off off' : Nat) (v : Word) (h : off' ≠ off) :
    ctlGet (ctlSet s off v) off' = ctlGet s off' := by simp [ctlGet, ctlSet, mget_mset_other _ _ _ _ _ h]

/-- Threads have keys of their own. -/
theorem tkey_inj (t u : Tid) (h : tkey t = tkey u) : t = u := by
  obtain ⟨⟨l, hl⟩, ⟨c, hc⟩, ⟨k, hk⟩⟩ := t
  obtain ⟨⟨l', hl'⟩, ⟨c', hc'⟩, ⟨k', hk'⟩⟩ := u
  simp only [tkey] at h
  have e1 : l = l' := by omega
  have e2 : c = c' := by omega
  have e3 : k = k' := by omega
  subst e1 e2 e3; rfl

/-! ## Registers of a thread (02 R58, R59) -/

@[simp] theorem Thread.rg_zero (x : Thread) : x.rg 0 = 0 := rfl
@[simp] theorem Thread.wg_zero (x : Thread) (v : Word) : x.wg 0 v = x := rfl
@[simp] theorem Thread.rp_zero (x : Thread) : x.rp 0 = 0xFFFF#16 := rfl
@[simp] theorem Thread.wp_zero (x : Thread) (v : BitVec 16) : x.wp 0 v = x := rfl

theorem Thread.rg_wg_same (x : Thread) (n : Nat) (v : Word) (h : n ≠ 0) : (x.wg n v).rg n = v := by
  simp [Thread.rg, Thread.wg, h]

theorem Thread.rg_wg_other (x : Thread) (n m : Nat) (v : Word) (h : m ≠ n) : (x.wg n v).rg m = x.rg m := by
  unfold Thread.rg Thread.wg
  by_cases h0 : n = 0
  · simp [h0]
  · simp [h0, mget_mset_other _ _ _ _ _ h]

theorem Thread.rp_wp_same (x : Thread) (n : Nat) (v : BitVec 16) (h : n ≠ 0) : (x.wp n v).rp n = v := by
  simp [Thread.rp, Thread.wp, h]

theorem Thread.rp_wp_other (x : Thread) (n m : Nat) (v : BitVec 16) (h : m ≠ n) : (x.wp n v).rp m = x.rp m := by
  unfold Thread.rp Thread.wp
  by_cases h0 : n = 0
  · simp [h0]
  · simp [h0, mget_mset_other _ _ _ _ _ h]

@[simp] theorem Thread.rv_wv_same (x : Thread) (n : Nat) (v : BitVec 128) : (x.wv n v).rv n = v := by
  simp [Thread.rv, Thread.wv]

theorem Thread.rv_wv_other (x : Thread) (n m : Nat) (v : BitVec 128) (h : m ≠ n) : (x.wv n v).rv m = x.rv m := by
  simp [Thread.rv, Thread.wv, mget_mset_other _ _ _ _ _ h]

end Sys2Proof.Machine
end

