-- ==== Sys2Proof/Laws/Issue.lean ====
section
/-!
SUPPORT. What the issue of an instruction does (02): the stages before it, and what follows from each outcome of its body.
-/

namespace Sys2Proof.Machine

theorem mset_mset {α : Type} (m : SMap α) (k : Nat) (v w : α) : mset (mset m k v) k w = mset m k w := by
  induction m with
  | nil => simp [mset]
  | cons p r ih =>
    obtain ⟨j, u⟩ := p
    by_cases h : j = k
    · simp [mset, h]
    · by_cases h2 : k < j
      · simp [mset, h, h2]
      · simp [mset, h, h2, ih]

theorem State.setThr_setThr (s : State) (t : Tid) (x y : Thread) : (s.setThr t x).setThr t y = s.setThr t y := by
  simp [State.setThr, mset_mset]

/-! ## Loads that are due -/

theorem Thread.wg_fields (x : Thread) (n : Nat) (v : Word) :
    x.wg n v = { x with g := (x.wg n v).g } := by
  unfold Thread.wg
  split <;> rfl

theorem foldl_wg_fields (l : List PendLoad) (p : PendLoad → Bool) (v : PendLoad → Word) (x : Thread) :
    ∃ g, l.foldl (fun y q => if p q = true then y.wg q.dst (v q) else y) x = { x with g := g } := by
  induction l generalizing x with
  | nil => exact ⟨x.g, rfl⟩
  | cons q r ih =>
    rw [List.foldl_cons]
    by_cases h : p q = true
    · obtain ⟨g, e⟩ := ih (x.wg q.dst (v q))
      refine ⟨g, ?_⟩
      rw [if_pos h, e, Thread.wg_fields]
    · obtain ⟨g, e⟩ := ih x
      exact ⟨g, by rw [if_neg h, e]⟩

/-- Due loads change general registers and the list of loads, nothing else of a thread. -/
theorem settleLoads_fields (x : Thread) :
    ∃ g, settleLoads x = { x with g := g, loads := (settleLoads x).loads } := by
  obtain ⟨g, e⟩ := foldl_wg_fields x.loads (fun p => decide (p.cnt = 0)) (fun p => p.val.getD 0) x
  simp only [decide_eq_true_eq] at e
  exact ⟨g, by simp only [settleLoads, e]⟩

@[simp] theorem settleLoads_pc (x : Thread) : (settleLoads x).pc = x.pc := by
  obtain ⟨g, e⟩ := settleLoads_fields x; rw [e]
@[simp] theorem settleLoads_p (x : Thread) : (settleLoads x).p = x.p := by
  obtain ⟨g, e⟩ := settleLoads_fields x; rw [e]
@[simp] theorem settleLoads_v (x : Thread) : (settleLoads x).v = x.v := by
  obtain ⟨g, e⟩ := settleLoads_fields x; rw [e]
@[simp] theorem settleLoads_level (x : Thread) : (settleLoads x).level = x.level := by
  obtain ⟨g, e⟩ := settleLoads_fields x; rw [e]
@[simp] theorem settleLoads_fpcsr (x : Thread) : (settleLoads x).fpcsr = x.fpcsr := by
  obtain ⟨g, e⟩ := settleLoads_fields x; rw [e]

@[simp] theorem found_pc (s : State) (t : Tid) : (found s t).pc = (s.thr t).pc := settleLoads_pc _
@[simp] theorem begun_thr (s : State) (t : Tid) : (begun s t).thr t = found s t := by simp [begun]
@[simp] theorem begun_mem (s : State) (t : Tid) : (begun s t).mem = s.mem := rfl
@[simp] theorem begun_lathe (s : State) (t : Tid) (n : Nat) : (begun s t).lathe n = s.lathe n := rfl

theorem Thread.wg_pc (x : Thread) (n : Nat) (v : Word) : (x.wg n v).pc = x.pc := by rw [Thread.wg_fields]
theorem Thread.wp_pc (x : Thread) (n : Nat) (v : BitVec 16) : (x.wp n v).pc = x.pc := by unfold Thread.wp; split <;> rfl

/-! ## The issue -/

theorem startIssue_go {s : State} {t : Tid} (h : CanIssue s t) : startIssue s t = .go (begun s t) := by
  obtain ⟨h1, h2, h3, h4, h5, h6, h7, h8, h9⟩ := h
  have hi : ((!(s.thr t).bound) && (irqOf s t).isSome) = false := by rcases h6 with h | h <;> simp [h]
  have hc : icHit (s.core t.lathe.val t.core.val) (lineOf t (s.thr t).pc) = false →
      lineOf t (s.thr t).pc ∈ (s.thr t).fetched := by
    intro h
    simpa [h] using h8
  simp [startIssue, startAt, h1, h2, h3, h4, h5, hi, h7, h9, begun, found]
  exact hc

/-- An instruction that issues answers a next state: the end of its body's outcome. -/
theorem issue_run {s : State} {t : Tid} (op : Nat) (f : Fld) (b : Body) (h : CanIssue s t) :
    issue t op f b s = .next (finish (begun s t) t (insWord op f) (b.run t f (begun s t))) := by
  simp [issue, startIssue_go h]

/-- An instruction with a legal form, guard 1 and a body that changes its own thread only. -/
theorem issue_thread {s : State} {t : Tid} (op : Nat) (f : Fld) (g : Thread → Thread) (act : State → Res)
    (h : CanIssue s t) (hg : guarded s t f) (ha : act (begun s t) = .ok ((begun s t).modThr t g))
    (hp : (g (found s t)).pc = (s.thr t).pc) :
    issue t op f (plain true act) s = .next (moved s t (g (found s t)) (pcNext s t)) := by
  have hg' : guardOf (found s t) f = true := hg
  simp [issue_run op f _ h, Body.run, plain, hg', ha, finish, advance, moved, issuedAt, pcNext, State.modThr,
    State.setThr_setThr, hp]

/-- An instruction with guard 0 and a legal form moves the PC and does nothing else (R63). -/
theorem issue_guard_off {s : State} {t : Tid} (op : Nat) (f : Fld) (b : Body) (h : CanIssue s t)
    (hl : b.always (begun s t) = none) (hv : b.vec = false) (hg : ¬guarded s t f) :
    issue t op f b s = .next (moved s t (found s t) (pcNext s t)) := by
  have hg' : guardOf (found s t) f = false := by simpa [guarded] using hg
  simp [issue_run op f _ h, Body.run, hl, hv, hg', finish, advance, moved, issuedAt, pcNext, State.modThr]

/-- A check that holds whatever the guard raises its trap (R64). -/
theorem issue_always {s : State} {t : Tid} (op : Nat) (f : Fld) (b : Body) (h : CanIssue s t) {c : Nat} {v : Word}
    (hl : b.always (begun s t) = some (c, v)) :
    issue t op f b s =
      .next (trapOrWait (begun s t) (begun s t) t c v (s.thr t).pc (insWord op f) none) := by
  simp [issue_run op f _ h, Body.run, hl, finish]

/-- With every load's data in, a trap is taken at once (R97). -/
theorem trapOrWait_taken {s0 s : State} {t : Tid} {c : Nat} {v epc inst : Word} {rep : Option Nat}
    (ha : allArrived (s.thr t) = true) (hd : ((s.thr t).tl && !(s.thr t).nest) = false) :
    trapOrWait s0 s t c v epc inst rep = takeTrap s t c v epc inst rep := by
  simp only [trapOrWait, ha, hd, if_true]
  rfl

/-- A trap that is no double trap and meets no stale epoch is an entry to the runtime level (R97). -/
theorem takeTrap_enter {s : State} {t : Tid} {c : Nat} {v epc inst : Word} {rep : Option Nat}
    (hd : ((s.thr t).tl && !(s.thr t).nest) = false) (hc : c ≠ xFenced) :
    takeTrap s t c v epc inst rep = enter s t epc (BitVec.ofNat 64 c) v inst (trapOffset c) rep := by
  simp [takeTrap, hd, hc]

end Sys2Proof.Machine
end

