-- ==== Sys2Proof/Laws/Memory.lean ====
section
/-!
SUPPORT. Memory: a byte reads as it was last written, a write leaves every other byte alone, and every memory operation keeps
the canonical form.
-/

namespace Sys2Proof.Machine

/-! ## The canonical form -/

/-- The canonical form with every address above a bound. -/
theorem cellsWf_cons {a : Nat} {b : Byte} {r : List (Nat × Byte)} :
    cellsWf ((a, b) :: r) = true ↔ b ≠ 0 ∧ (∀ p ∈ r, a < p.1) ∧ cellsWf r = true := by
  induction r generalizing a b with
  | nil => simp [cellsWf]
  | cons q r ih =>
    obtain ⟨a', b'⟩ := q
    have e := @ih a' b'
    constructor
    · intro h
      simp only [cellsWf, Bool.and_eq_true, bne_iff_ne, decide_eq_true_eq] at h
      obtain ⟨hb, hl, hr⟩ := h
      refine ⟨hb, ?_, hr⟩
      intro p hp
      rcases List.mem_cons.1 hp with rfl | hp
      · exact hl
      · exact Nat.lt_trans hl ((e.1 hr).2.1 p hp)
    · rintro ⟨hb, hl, hr⟩
      simp only [cellsWf, Bool.and_eq_true, bne_iff_ne, decide_eq_true_eq]
      exact ⟨hb, hl (a', b') List.mem_cons_self, hr⟩

theorem cellsWf_filter (m : List (Nat × Byte)) (f : Nat × Byte → Bool) (h : cellsWf m = true) :
    cellsWf (m.filter f) = true := by
  induction m with
  | nil => rfl
  | cons p r ih =>
    obtain ⟨a, b⟩ := p
    obtain ⟨hb, hl, hr⟩ := cellsWf_cons.1 h
    rw [List.filter_cons]
    split
    · exact cellsWf_cons.2 ⟨hb, fun p hp => hl p (List.mem_filter.1 hp).1, ih hr⟩
    · exact ih hr

theorem mem_mset {m : List (Nat × Byte)} {k : Nat} {v : Byte} {p : Nat × Byte} (h : p ∈ mset m k v) :
    p = (k, v) ∨ p ∈ m := by
  induction m with
  | nil => exact .inl (by simpa [mset] using h)
  | cons q r ih =>
    obtain ⟨j, w⟩ := q
    simp only [mset] at h
    split at h
    · rcases List.mem_cons.1 h with h | h
      · exact .inl h
      · exact .inr (List.mem_cons_of_mem _ h)
    · split at h
      · rcases List.mem_cons.1 h with h | h
        · exact .inl h
        · exact .inr h
      · rcases List.mem_cons.1 h with h | h
        · exact .inr (by rw [h]; exact List.mem_cons_self)
        · rcases ih h with h | h
          · exact .inl h
          · exact .inr (List.mem_cons_of_mem _ h)

theorem cellsWf_mset (m : List (Nat × Byte)) (k : Nat) (v : Byte) (hv : v ≠ 0) (h : cellsWf m = true) :
    cellsWf (mset m k v) = true := by
  induction m with
  | nil => exact cellsWf_cons.2 ⟨hv, by simp, rfl⟩
  | cons p r ih =>
    obtain ⟨j, w⟩ := p
    obtain ⟨hw, hl, hr⟩ := cellsWf_cons.1 h
    simp only [mset]
    split
    next e => subst e; exact cellsWf_cons.2 ⟨hv, hl, hr⟩
    next e =>
      split
      next lt =>
        refine cellsWf_cons.2 ⟨hv, ?_, h⟩
        intro p hp
        rcases List.mem_cons.1 hp with rfl | hp
        · exact lt
        · exact Nat.lt_trans lt (hl p hp)
      next nlt =>
        refine cellsWf_cons.2 ⟨hw, ?_, ih hr⟩
        intro p hp
        rcases mem_mset hp with rfl | hp
        · show j < k
          omega
        · exact hl p hp

theorem cellsWf_cellSet (m : List (Nat × Byte)) (a : Nat) (b : Byte) (h : cellsWf m = true) :
    cellsWf (cellSet m a b) = true := by
  unfold cellSet
  split
  · exact cellsWf_filter m _ h
  next hb => exact cellsWf_mset m a b hb h

theorem cellsWf_cellWrite (d : List Byte) (m : List (Nat × Byte)) (a : Nat) (h : cellsWf m = true) :
    cellsWf (cellWrite m a d) = true := by
  induction d generalizing m a with
  | nil => exact h
  | cons b r ih => exact ih _ _ (cellsWf_cellSet m a b h)

/-! ## Reads after writes -/

@[simp] theorem cellGet_cellSet_same (m : List (Nat × Byte)) (a : Nat) (b : Byte) : cellGet (cellSet m a b) a = b := by
  unfold cellGet cellSet
  split
  next hb => simp [mget, mget?_mdel, hb]
  · simp

theorem cellGet_cellSet_other (m : List (Nat × Byte)) (a c : Nat) (b : Byte) (h : c ≠ a) :
    cellGet (cellSet m a b) c = cellGet m c := by
  unfold cellGet cellSet
  split
  · simp [mget, mget?_mdel, h]
  · exact mget_mset_other _ _ _ _ _ h

theorem cellGet_cellWrite_outside (d : List Byte) (m : List (Nat × Byte)) (a c : Nat) (h : c < a ∨ a + d.length ≤ c) :
    cellGet (cellWrite m a d) c = cellGet m c := by
  induction d generalizing m a with
  | nil => rfl
  | cons b r ih =>
    simp only [List.length_cons] at h
    rw [cellWrite, ih _ _ (by omega), cellGet_cellSet_other _ _ _ _ (by omega)]

theorem cellGet_cellWrite_inside (d : List Byte) (m : List (Nat × Byte)) (a k : Nat) (h : k < d.length) :
    cellGet (cellWrite m a d) (a + k) = d[k] := by
  induction d generalizing m a k with
  | nil => simp at h
  | cons b r ih =>
    cases k with
    | zero =>
      rw [cellWrite, cellGet_cellWrite_outside _ _ _ _ (by omega)]
      simp
    | succ k =>
      simp only [List.length_cons] at h
      have e : a + (k + 1) = a + 1 + k := by omega
      rw [cellWrite, e, ih _ _ k (by omega)]
      simp

/-! ## The operations of the state -/

theorem memOk_reset : State.reset.memOk = true := rfl

theorem memOk_memWrite (s : State) (a : Nat) (d : List Byte) (h : s.memOk = true) : (memWrite s a d).memOk = true :=
  cellsWf_cellWrite d _ a h

theorem memOk_memClear (s : State) (lo n : Nat) (h : s.memOk = true) : (memClear s lo n).memOk = true :=
  cellsWf_filter _ _ h

theorem memOk_setPoison (s : State) (a : Nat) (h : s.memOk = true) : (setPoison s a).memOk = true := h

theorem memOk_dropCopies (s : State) (w : Word) (n : Nat) (h : s.memOk = true) : (dropCopies s w n).memOk = true := h

theorem memOk_logVio (s : State) (addr : Word) (agent src : BitVec 16) (kind info : Nat) (h : s.memOk = true) :
    (logVio s addr agent src kind info).memOk = true := by
  unfold logVio
  dsimp only
  split
  · exact cellsWf_cellWrite _ _ _ h
  · exact h

/-- A byte of the state's memory. -/
theorem memWrite_outside (s : State) (a c : Nat) (d : List Byte) (h : c < a ∨ a + d.length ≤ c) :
    cellGet (memWrite s a d).mem.cells c = cellGet s.mem.cells c := cellGet_cellWrite_outside d _ a c h

theorem memWrite_inside (s : State) (a k : Nat) (d : List Byte) (h : k < d.length) :
    cellGet (memWrite s a d).mem.cells (a + k) = d[k] := cellGet_cellWrite_inside d _ a k h

theorem memClear_inside (s : State) (lo n c : Nat) (h : lo ≤ c) (h2 : c < lo + n) :
    cellGet (memClear s lo n).mem.cells c = 0 := by
  unfold cellGet memClear mget
  have : ∀ m : List (Nat × Byte), mget? (m.filter (fun p => !(decide (lo ≤ p.1) && decide (p.1 < lo + n)))) c = none := by
    intro m
    induction m with
    | nil => rfl
    | cons p r ih =>
      obtain ⟨j, w⟩ := p
      rw [List.filter_cons]
      split
      next hk =>
        have : j ≠ c := by rintro rfl; simp [h, h2] at hk
        simp only [mget?, this, if_false]
        exact ih
      · exact ih
  rw [this]
  rfl

end Sys2Proof.Machine
end

