-- ==== Sys2Proof/WellFormed.lean ====
section
/-!
DEFINITION. Which commands are well formed: operands that lie in the ranges the spec gives them. `exec` is total on every
command; an ill-formed one names an event that the spec does not describe.
-/

namespace Sys2Proof

/-- One reading per lathe die, bench die and HBM stack (16 R521). -/
def Temps.wf (t : Temps) : Bool := t.lathe.length == 4 && t.bench.length == 2 && t.hbm.length == 8

/-- One module entry per MRDIMM channel, and a full set of readings. -/
def StartEnv.wf (e : StartEnv) : Bool := e.modules.length == 12 && e.temps.wf

/-- A queue ID of 20 bits and an index of 24 (10 R368, R370). -/
def slotOk (q n : Nat) : Bool := decide (q < 2 ^ 20) && decide (n < 2 ^ 24)

/-- A well-formed command. -/
def Instr.wf (i : Instr) : Bool :=
  match i with
  | .deviceStart env => env.wf
  | .thermalStartHoldRelease => true
  | .devReady => true
  | .mrdimmGranuleZero => true
  | .hostReset pwrOk perstN => !(pwrOk && perstN)
  | .railFault rail => decide (rail < 26)
  | .clockHold _ => true
  | .clockResume _ => true
  | .devTimeTick => true
  | .clockSourceChange _ _ => true
  | .hbmPllRelock _ => true
  | .chainRefclkLoss _ => true
  | .chainRefclkReturn _ => true
  | .devTimeLowRead _ => true
  | .devTimeHighRead _ => true
  | .smbusBlockRead _ => true
  | .smbusWrite _ _ => true
  | .bypass _ => true
  | .idcode => true
  | .samplePreload _ _ => true
  | .extest => true
  | .highz => true
  | .add _ _ => true
  | .sub _ _ => true
  | .andd _ _ => true
  | .orr _ _ => true
  | .xorr _ _ => true
  | .shl _ _ => true
  | .shr _ _ => true
  | .sra _ _ => true
  | .mul _ _ => true
  | .mulh _ _ => true
  | .mulhu _ _ => true
  | .divv _ _ => true
  | .divu _ _ => true
  | .remm _ _ => true
  | .remu _ _ => true
  | .minn _ _ => true
  | .maxx _ _ => true
  | .minu _ _ => true
  | .maxu _ _ => true
  | .addi _ _ => true
  | .andi _ _ => true
  | .ori _ _ => true
  | .xori _ _ => true
  | .shli _ _ => true
  | .shri _ _ => true
  | .srai _ _ => true
  | .muli _ _ => true
  | .li _ _ => true
  | .lih _ _ => true
  | .cmpeq _ _ => true
  | .cmpne _ _ => true
  | .cmplt _ _ => true
  | .cmple _ _ => true
  | .cmpltu _ _ => true
  | .cmpleu _ _ => true
  | .cmpeqi _ _ => true
  | .cmpnei _ _ => true
  | .cmplti _ _ => true
  | .cmplei _ _ => true
  | .cmpltui _ _ => true
  | .cmpleui _ _ => true
  | .pand _ _ => true
  | .por _ _ => true
  | .pxor _ _ => true
  | .pandn _ _ => true
  | .pset _ _ => true
  | .pget _ _ => true
  | .pseti _ _ => true
  | .br _ _ => true
  | .jal _ _ => true
  | .jalr _ _ => true
  | .ldb _ _ => true
  | .ldh _ _ => true
  | .ldw _ _ => true
  | .ldd _ _ => true
  | .ldbu _ _ => true
  | .ldhu _ _ => true
  | .ldwu _ _ => true
  | .stb _ _ => true
  | .sth _ _ => true
  | .stw _ _ => true
  | .std _ _ => true
  | .amoaddW _ _ => true
  | .amoaddD _ _ => true
  | .amoswapW _ _ => true
  | .amoswapD _ _ => true
  | .casW _ _ => true
  | .casD _ _ => true
  | .fence _ _ => true
  | .fadd _ _ => true
  | .fsub _ _ => true
  | .fmul _ _ => true
  | .fdiv _ _ => true
  | .fsqrt _ _ => true
  | .fma _ _ => true
  | .fmin _ _ => true
  | .fmax _ _ => true
  | .fcvti _ _ => true
  | .fcvtf _ _ => true
  | .fcvtw _ _ => true
  | .fcmpeq _ _ => true
  | .fcmplt _ _ => true
  | .fcmple _ _ => true
  | .fcmpun _ _ => true
  | .csrr _ _ => true
  | .csrw _ _ => true
  | .coreTcmpWrite _ f => f.imm.toNat % 4096 == 0x10D
  | .xret _ _ => true
  | .yieldOp _ _ => true
  | .brk _ _ => true
  | .doneTask _ _ => true
  | .tokenOp _ _ => true
  | .mbxsend _ _ => true
  | .mbxrecv _ _ => true
  | .repI _ _ _ => true
  | .repN _ _ _ => true
  | .repetition _ => true
  | .reservedOpcode _ op _ => !Machine.opAssigned op.toNat
  | .timerExpiry _ => true
  | .takeInterrupt _ => true
  | .fetchFill _ => true
  | .loadDataArrival _ _ => true
  | .storeBufferDrain _ => true
  | .longLatencyResult _ => true
  | .writeComplete _ => true
  | .bankAccept bank requester => decide (bank < 2304) && decide (requester < 68)
  | .vadd _ _ => true
  | .vsub _ _ => true
  | .vmul _ _ => true
  | .vand _ _ => true
  | .vor _ _ => true
  | .vxor _ _ => true
  | .vshl _ _ => true
  | .vshr _ _ => true
  | .vsra _ _ => true
  | .vmin _ _ => true
  | .vmax _ _ => true
  | .vminu _ _ => true
  | .vmaxu _ _ => true
  | .vfadd _ _ => true
  | .vfsub _ _ => true
  | .vfmul _ _ => true
  | .vfma _ _ => true
  | .vfmin _ _ => true
  | .vfmax _ _ => true
  | .vcvt _ _ => true
  | .vcmp _ _ => true
  | .vfcmp _ _ => true
  | .vwmul _ _ => true
  | .vdot _ _ => true
  | .vld _ _ => true
  | .vst _ _ => true
  | .vgather _ _ => true
  | .vscatter _ _ => true
  | .vbcast _ _ => true
  | .vins _ _ => true
  | .vext _ _ => true
  | .vectorLoadArrival _ => true
  | .lvld _ _ => true
  | .lvst _ _ => true
  | .lvAlu _ _ => true
  | .lvCmp _ _ => true
  | .lvRed _ _ => true
  | .lvMask _ _ => true
  | .longVectorOpComplete _ => true
  | .longVectorAccessComplete _ _ => true
  | .tcfg _ _ => true
  | .tcfgApply _ => true
  | .tcfgGrant _ => true
  | .trel _ _ => true
  | .tileContextRelease _ => true
  | .tld _ _ => true
  | .tst _ _ => true
  | .tzero _ _ => true
  | .tmma _ _ => true
  | .tileOpComplete _ _ => true
  | .tdrain _ _ => true
  | .tdrainEnd _ => true
  | .tamax _ _ => true
  | .ftab _ _ => true
  | .ftabLoad _ => true
  | .fapply _ _ => true
  | .fderiv _ _ => true
  | .passGrant _ _ => true
  | .arrayStop _ => true
  | .passCheck _ _ _ => true
  | .catchRetry _ _ => true
  | .localisationPass _ marks => marks.all (fun p => decide (p.1 < 130) && decide (p.2 < 514))
  | .selfTestTile _ _ => true
  | .arrShapeWrite _ _ _ => true
  | .shapeChangeApply _ => true
  | .signalToken _ _ => true
  | .armToken _ _ => true
  | .overflowPlacement => true
  | .taskStart _ => true
  | .taskCompletion _ => true
  | .devTaskdbWrite _ _ => true
  | .mbxSendReg _ _ _ _ => true
  | .mbxCommit _ _ _ => true
  | .mbxRecvReg _ _ _ => true
  | .mbxLockRead _ _ => true
  | .mbxLockWrite _ _ _ => true
  | .mailboxWaitRelease _ => true
  | .hostLinkUp rate width => decide (1 ≤ rate) && decide (rate ≤ 7) && [1, 2, 4, 8].contains width
  | .hostLinkReset => true
  | .bar4Resize log2 => decide (log2 ≤ 9)
  | .bar4Read _ len => decide (0 < len)
  | .bar4Write _ data => !data.isEmpty
  | .registerWrite _ _ _ _ _ => true
  | .queue0Create _ => true
  | .queue0Destroy _ => true
  | .queue1Create _ _ => true
  | .queue1Destroy _ _ => true
  | .doorbell _ _ _ => true
  | .completionDoorbell _ _ _ => true
  | .commandFetch _ _ => true
  | .commandComplete q n _ => slotOk q n
  | .nopCmd q n => slotOk q n
  | .queueCreate q n => slotOk q n
  | .queueDestroy q n => slotOk q n
  | .memCopy q n _ => slotOk q n
  | .memFill q n => slotOk q n
  | .programLoad q n _ => slotOk q n
  | .taskGraphSubmit q n _ => slotOk q n
  | .taskSignal q n => slotOk q n
  | .tensorBind q n => slotOk q n
  | .paramBind q n => slotOk q n
  | .reduceJobOpen q n => slotOk q n
  | .reduceJobClose q n => slotOk q n
  | .setLatencyTolerance q n => slotOk q n
  | .setProfile q n => slotOk q n
  | .profileInForce => true
  | .faultLogRead q n => slotOk q n
  | .faultClear q n => slotOk q n
  | .attestQuote q n => slotOk q n
  | .fwStage q n _ => slotOk q n
  | .fwActivate q n => slotOk q n
  | .chainEnumerate q n => slotOk q n
  | .chainStatus q n => slotOk q n
  | .chainRelease q n => slotOk q n
  | .portTraining _ _ => true
  | .dataFlit _ flit _ => flit.length == 640
  | .heartbeat _ _ => true
  | .nak _ _ => true
  | .laneControl _ => true
  | .portRetrain _ _ => true
  | .portDown _ => true
  | .laneDegrade _ _ => true
  | .heartbeatSend _ => true
  | .heartbeatMiss _ => true
  | .probeTimeout _ => true
  | .headProbeTimeout _ => true
  | .readPkt _ => true
  | .writePkt _ => true
  | .atomicPkt _ => true
  | .tokenPacket _ => true
  | .readResp _ => true
  | .ackPkt _ => true
  | .errorResp _ => true
  | .fencedPkt _ => true
  | .reroutePkt _ => true
  | .enumPkt _ => true
  | .topoPkt _ => true
  | .memberPkt _ => true
  | .probePkt _ => true
  | .probeResp _ => true
  | .joinPkt _ => true
  | .claimPkt _ => true
  | .leavePkt _ => true
  | .redBf16 _ => true
  | .redBfp16 _ => true
  | .gatherPkt _ => true
  | .mirrorPkt _ => true
  | .mirrorAck _ => true
  | .nojobPkt _ => true
  | .restartPkt _ => true
  | .stepAbort _ => true
  | .contributionDeadline _ => true
  | .partialWaitExpiry _ => true
  | .faultDetected e => decide (1 ≤ e.cause.toNat) && decide (e.cause.toNat ≤ 0x25)
  | .handlingStart => true
  | .handlingEnd => true
  | .preemptTimeout _ => true
  | .spareSelfTest _ _ => true
  | .lathePoll _ _ => true
  | .supervisorMismatch _ _ => true
  | .fltStickyWrite _ _ _ => true
  | .scrub _ => true
  | .rowCopyComplete => true
  | .memModeWrite _ _ => true
  | .memModeApply => true
  | .memRinvGo _ => true
  | .invalidationComplete => true
  | .ratWrite _ _ _ _ => true
  | .ratWriteComplete => true
  | .worldWrite _ _ _ => true
  | .worldChangeApply blk => decide (blk < 192)
  | .secVstatClear _ => true
  | .secExtend _ _ => true
  | .devRecoveryGo _ => true
  | .recoveryCheckDone => true
  | .latheIdle _ => true
  | .a4Entry => true
  | .wakeComplete _ => true
  | .powerSample _ _ => true
  | .thermalSample temps => temps.wf
  | .hardwareShutdown _ => true
  | .compaction => true
  | .compactionStepDone => true
  | .powerLoss _ => true
  | .bar0Read _ _ _ => true
  | .completionTimeout q n => slotOk q n

end Sys2Proof
end

