-- ==== Sys2Proof/Tests/Slice0.lean ====
section
/-!
SUPPORT. The model's own tests. `test_wf_…`: an ill-formed command for each check of well-formedness is refused. `test_hyps_…`: for
each statement with hypotheses, concrete states and operands that meet them together, clause by clause. The other tests are of
one step on a small state; what they expect is worked out by hand from the rule of spec/ that each names.
-/

namespace Sys2Proof.Tests

set_option maxRecDepth 20000
set_option exponentiation.threshold 600

open Sys2Proof Sys2Proof.Machine Sys2Proof.Claims

theorem all_in {α : Type} {p : α → Prop} [DecidablePred p] {l : List α} (h : l.all (fun x => decide (p x)) = true) :
    ∀ x ∈ l, p x := by simpa using h

/-- What command `c` leads to has the property `P`. -/
def after (c : Instr) (s : State) (P : State → Bool) : Bool :=
  match exec c s with
  | .next u => P u
  | _ => false

/-! ## Small states -/

def t0 : Tid := ⟨0, 0, 0⟩
def t1 : Tid := ⟨0, 0, 1⟩

/-- A running thread at level K at 0x1000. -/
def thrA : Thread :=
  { st := .running, pc := 0x1000, level := .k, xepc := 0x2000
    g := [(1, 5), (2, 0xFFFFFFFFFFFFFFFD), (3, 0x8000000000000000), (5, 0x1000), (6, 64), (10, 0x7FFF00000000), (31, 3)]
    p := [(1, 1), (2, 0xFFFE), (3, 0x55AA)] }

/-- At level U, with one window: 0x1000 to 0x107F, read, write and execute. -/
def thrU : Thread := { thrA with level := .u, win := [(0, ⟨0x40, 0x41, 0xF⟩)] }

/-- Its core, with the instruction lines of 0x1000 to 0x103F and 0x2000 to 0x203F. -/
def coreA : Core := { running := some 0, xtvec := 0x8000, icache := [(0, [⟨1, false, 3⟩, ⟨2, true, 1⟩])] }

def platA : Plat := { pwrOk := true, perstN := true, started := true, stage := 6, ready := true, devTime := 1000 }
def latheA : Lathe := { svc := .inService, epoch := 1, carried := 1 }

/-- Eight bytes at 0x1000. -/
def cellsA : List Host.Cell := [(0x1000, 0x81), (0x1001, 0xFF), (0x1003, 0x92), (0x1007, 0x85)]

/-- A device that has started, with thread 0 of core 0 of lathe 0 as `x`. -/
def only (x : Thread) : State :=
  { plat := platA, threads := [(0, x)], cores := [(0, coreA)], lathes := [(0, latheA)], mem := { cells := cellsA } }

def sA : State := only thrA
def sU : State := only thrU

def fld (d a b : BitVec 6) (i : BitVec 32) : Fld := ⟨0, false, d, a, b, i⟩
/-- The same under guard p1, whose bit 0 is 1, inverted. -/
def off (d a b : BitVec 6) (i : BitVec 32) : Fld := ⟨1, true, d, a, b, i⟩

theorem can_sA : CanIssue sA t0 := by constructor <;> decide
theorem on {s : State} {t : Tid} {d a b i} : guarded s t (fld d a b i) := by
  show xor (((found s t).rp 0).getLsbD 0) false = true
  simp [Thread.rp]
theorem off_sA {d a b i} : ¬guarded sA t0 (off d a b i) := by show ¬guardOf (found sA t0) (off 0 0 0 0) = true; decide
theorem can_sU : CanIssue sU t0 := by constructor <;> decide
theorem trap_sA : CanTrap sA t0 := by constructor <;> decide
theorem trap_sU : CanTrap sU t0 := by constructor <;> decide

/-! ## Well-formedness -/

def tempsA : Temps := ⟨[40, 40, 40, 40], [40, 40], List.replicate 8 40⟩
def envA : StartEnv :=
  { chainHead := false, bootSel := false, altRom := false, railBad := false, romOk := (true, true), slotOk := (true, true)
    clocks := (true, true, true), hbmFail := none, modules := List.replicate 12 ⟨false, false, false, 0, 0, 0, false⟩, lanesFailed := [], temps := tempsA, selfTestFail := [] }

theorem test_wf_start : Instr.wf (.deviceStart envA) = true ∧ Instr.wf (.deviceStart { envA with modules := [] }) = false ∧
    Instr.wf (.deviceStart { envA with temps := ⟨[], [40, 40], List.replicate 8 40⟩ }) = false := by decide
theorem test_wf_reset : Instr.wf (.hostReset true true) = false ∧ Instr.wf (.hostReset true false) = true := by decide
theorem test_wf_rail : Instr.wf (.railFault 26) = false ∧ Instr.wf (.railFault 25) = true := by decide
theorem test_wf_tcmp : Instr.wf (.coreTcmpWrite t0 (fld 0 1 0 0x10C)) = false ∧
    Instr.wf (.coreTcmpWrite t0 (fld 0 1 0 0x10D)) = true := by decide
theorem test_wf_reserved : Instr.wf (.reservedOpcode t0 0 (fld 0 1 0 0)) = false ∧
    Instr.wf (.reservedOpcode t0 0x1FF (fld 0 1 0 0)) = true := by decide
theorem test_wf_bank : Instr.wf (.bankAccept 2304 0) = false ∧ Instr.wf (.bankAccept 0 68) = false ∧
    Instr.wf (.bankAccept 2303 67) = true := by decide
theorem test_wf_link : Instr.wf (.hostLinkUp 8 4) = false ∧ Instr.wf (.hostLinkUp 0 4) = false ∧
    Instr.wf (.hostLinkUp 7 3) = false ∧ Instr.wf (.hostLinkUp 7 8) = true := by decide
theorem test_wf_bar4 : Instr.wf (.bar4Resize 10) = false ∧ Instr.wf (.bar4Read 0 0) = false ∧ Instr.wf (.bar4Write 0 []) = false := by
  decide
theorem test_wf_slot : Instr.wf (.nopCmd (2 ^ 20) 0) = false ∧ Instr.wf (.nopCmd 0 (2 ^ 24)) = false ∧
    Instr.wf (.completionTimeout (2 ^ 20) 0) = false ∧ Instr.wf (.nopCmd (2 ^ 20 - 1) (2 ^ 24 - 1)) = true := by decide
theorem test_wf_flit : Instr.wf (.dataFlit 0 [] false) = false := by decide
theorem test_wf_fault : Instr.wf (.faultDetected ⟨0, 0, 0, 0, none, 0, false⟩) = false ∧
    Instr.wf (.faultDetected ⟨0x26, 0, 0, 0, none, 0, false⟩) = false ∧
    Instr.wf (.faultDetected ⟨0x25, 0, 0, 0, none, 0, false⟩) = true := by decide
theorem test_wf_world : Instr.wf (.worldChangeApply 192) = false ∧ Instr.wf (.worldChangeApply 191) = true := by decide
theorem test_wf_temps : Instr.wf (.thermalSample ⟨[], [], []⟩) = false := by decide
theorem test_wf_marks : Instr.wf (.localisationPass 0 [(130, 0)]) = false ∧ Instr.wf (.localisationPass 0 [(0, 514)]) = false := by
  decide

/-! ## A device with one thread -/

theorem thr_one {s : State} {x : Thread} (h : s.threads = [(0, x)]) (k : Tid) : s.thr k = if k = t0 then x else {} := by
  obtain ⟨⟨a, ha⟩, ⟨b, hb⟩, ⟨c, hc⟩⟩ := k
  by_cases q : (⟨⟨a, ha⟩, ⟨b, hb⟩, ⟨c, hc⟩⟩ : Tid) = t0
  · rw [if_pos q, q]
    simp [State.thr, h, mget, mget?, tkey, t0]
  · rw [if_neg q]
    have : tkey ⟨⟨a, ha⟩, ⟨b, hb⟩, ⟨c, hc⟩⟩ ≠ 0 := by
      intro z
      apply q
      simp only [tkey] at z
      simp only [t0, Tid.mk.injEq, Fin.ext_iff]
      simp
      omega
    simp [State.thr, h, mget, mget?, Ne.symm this]

/-- No request stands before an access of a device whose one thread has none that does. -/
theorem firstInLine_one {s : State} {x : Thread} {t : Tid} {bank age a n} (h : s.threads = [(0, x)])
    (q : ∀ p ∈ x.loads, ahead s (some t) bank age a n t0 p = false) : FirstInLine s t bank age a n := by
  intro u p hp
  rw [thr_one h] at hp
  split at hp
  · rename_i e
    subst e
    exact q p hp
  · cases hp

theorem quiet_one {s : State} {x : Thread} {t : Tid} {a n} (h : s.threads = [(0, x)]) (q : x.loads = []) : Quiet s t a n :=
  fun _ _ => firstInLine_one h (fun p hp => by rw [q] at hp; cases hp)

/-! ## Scalar instructions (02) -/

def sLong : State := only { thrA with st := .waiting .longLatency, result := some (4, 7) }
def sTl : State := only { thrA with tl := true }
theorem can_sTl : CanIssue sTl t0 := by constructor <;> decide

theorem test_hyps_IntegerResults : (CanIssue sA t0 ∧ guarded sA t0 (fld 4 1 2 0) ∧ ggg0 (fld 4 1 2 0) = true ∧ ggg0 (fld 0 31 31 0) = true) ∧
    (ggzI (fld 4 1 0 63) = true ∧ (fld 4 1 0 63).imm.toNat < 2 ^ 6 ∧ ggzI (fld 4 1 0 0xFFFFFFFF) = true ∧
      (fld 4 1 0 0xFFFFFFFF).imm.toNat < 2 ^ 32) ∧ fieldsOk .g .z .z (fld 4 0 0 0xFFFFFFFF) = true ∧
    ((sLong.thr t0).st = .waiting .longLatency ∧ clockRuns sLong t0 = true ∧ (sLong.thr t0).result = some (4, 7)) := by
  refine ⟨⟨can_sA, on, ?_⟩, ?_⟩ <;> decide

theorem test_hyps_PredicateResults : (CanIssue sA t0 ∧ guarded sA t0 (fld 4 1 2 0)) ∧ pgg0 (fld 4 1 2 0) = true ∧
    pgzI (fld 15 1 0 0xFFFFFFFF) = true ∧ ppp0 (fld 15 1 2 0) = true ∧
    (fieldsOk .p .g .z (fld 15 31 0 0) = true ∧ fieldsOk .g .p .z (fld 31 15 0 0) = true ∧
      fieldsOk .p .z .z (fld 4 0 0 0xFFFF) = true ∧ (fld 4 0 0 0xFFFF).imm.toNat < 2 ^ 16) := by
  refine ⟨⟨can_sA, on⟩, ?_⟩; decide

/-- A JALR to g5 = 0x1000 is aligned, to g1 = 5 is not. -/
theorem test_hyps_Branches : (CanIssue sA t0 ∧ CanTrap sA t0) ∧
    guarded sA t0 (fld 0 0 0 7) ∧ ¬guarded sA t0 (off 0 0 0 7) ∧ (fieldsOk .z .z .z (fld 0 0 0 7) = true ∧ fieldsOk .g .z .z (fld 31 0 0 7) = true) ∧
    (fieldsOk .g .g .z (fld 4 5 0 8) = true ∧ ((found sA t0).rg 5 + (8 : Word)).toNat % 8 = 0) ∧
    (fieldsOk .g .g .z (fld 4 1 0 0) = true ∧ ((found sA t0).rg 1 + (0 : Word)).toNat % 8 ≠ 0) ∧
    (fieldsOk .z .z .z (off 0 0 0 7) = true ∧ fieldsOk .g .z .z (off 4 0 0 7) = true ∧
      fieldsOk .g .g .z (off 4 5 0 0) = true) := by
  refine ⟨⟨can_sA, trap_sA⟩, on, off_sA, ?_⟩; decide

theorem test_hyps_IllegalFieldsTrap : (CanIssue sA t0 ∧ CanTrap sA t0 ∧ ¬guarded sA t0 (off 4 1 2 0) ∧ CanIssue sTl t0) ∧
    ggg0 (off 4 1 2 0) = true ∧ ggg0 (fld 32 1 2 0) = false ∧ ggg0 (off 4 1 2 1) = false ∧
    (allArrived (found sTl t0) = true ∧ (sTl.thr t0).tl = true ∧ (sTl.thr t0).nest = false) := by
  refine ⟨⟨can_sA, trap_sA, off_sA, can_sTl⟩, ?_⟩; decide

theorem test_hyps_RegisterInstructionsFrame : CanIssue sA t0 ∧ ggg0 (fld 4 1 2 0) = true ∧
    after (.add t0 (fld 4 1 2 0)) sA (fun _ => true) = true ∧ after (.jalr t0 (fld 4 5 0 8)) sA (fun _ => true) = true := by
  refine ⟨can_sA, ?_⟩; decide

/-- 5 + (-3) = 2; the product of -3 and -3 is 9, its high half 0 signed and -6 unsigned (R67). -/
theorem test_integer : after (.add t0 (fld 4 1 2 0)) sA (fun u => (u.thr t0).rg 4 == 2 && (u.thr t0).pc == 0x1008) = true ∧
    after (.sub t0 (fld 4 1 2 0)) sA (fun u => (u.thr t0).rg 4 == 8) = true ∧
    after (.mul t0 (fld 4 2 2 0)) sA (fun u => (u.thr t0).rg 4 == 9) = true ∧
    after (.mulh t0 (fld 4 2 2 0)) sA (fun u => (u.thr t0).rg 4 == 0) = true ∧
    after (.mulhu t0 (fld 4 2 2 0)) sA (fun u => (u.thr t0).rg 4 == 0xFFFFFFFFFFFFFFFA) = true := by decide

/-- A shift uses the low six bits of s2: g6 = 64 shifts by 0 (Table 2-6). SRA keeps the sign. -/
theorem test_shifts : after (.shl t0 (fld 4 1 6 0)) sA (fun u => (u.thr t0).rg 4 == 5) = true ∧
    after (.shr t0 (fld 4 3 31 0)) sA (fun u => (u.thr t0).rg 4 == 0x1000000000000000) = true ∧
    after (.sra t0 (fld 4 3 31 0)) sA (fun u => (u.thr t0).rg 4 == 0xF000000000000000) = true ∧
    after (.srai t0 (fld 4 3 0 63)) sA (fun u => (u.thr t0).rg 4 == 0xFFFFFFFFFFFFFFFF) = true := by decide

/-- Division by zero gives all ones and its remainder the dividend; the most negative number by -1 gives itself and 0 (R68). -/
theorem test_division : opDiv 7 0 = 0xFFFFFFFFFFFFFFFF ∧ opDivu 7 0 = 0xFFFFFFFFFFFFFFFF ∧ opRem 7 0 = 7 ∧ opRemu 7 0 = 7 ∧
    opDiv 0x8000000000000000 (-1) = 0x8000000000000000 ∧ opRem 0x8000000000000000 (-1) = 0 ∧ opDiv (-7) 2 = -3 ∧ opRem (-7) 2 = -1 ∧
    after (.divv t0 (fld 4 1 2 0)) sA (fun u => (u.thr t0).st == .waiting .longLatency && (u.thr t0).rg 4 == 0) = true := by decide

/-- g0 reads 0 and discards writes (R58); LIH keeps the low half (Table 2-6). -/
theorem test_g0_lih : after (.add t0 (fld 0 1 1 0)) sA (fun u => (u.thr t0).rg 0 == 0) = true ∧
    after (.lih t0 (fld 1 0 0 0x80000001)) sA (fun u => (u.thr t0).rg 1 == 0x8000000100000005) = true ∧
    after (.li t0 (fld 1 0 0 0x80000001)) sA (fun u => (u.thr t0).rg 1 == 0xFFFFFFFF80000001) = true := by decide

/-- Signed -3 < 5 where unsigned it is not; a compare writes all 16 bits (R69). -/
theorem test_compares : after (.cmplt t0 (fld 4 2 1 0)) sA (fun u => (u.thr t0).rp 4 == 0xFFFF) = true ∧
    after (.cmpltu t0 (fld 1 2 1 0)) sA (fun u => (u.thr t0).rp 1 == 0) = true ∧
    after (.cmplei t0 (fld 4 1 0 5)) sA (fun u => (u.thr t0).rp 4 == 0xFFFF) = true ∧
    after (.pandn t0 (fld 4 2 3 0)) sA (fun u => (u.thr t0).rp 4 == 0xAA54) = true ∧
    after (.pget t0 (fld 4 3 0 0)) sA (fun u => (u.thr t0).rg 4 == 0x55AA) = true := by decide

/-- BR goes to PC + 8·imm (R70): back one instruction for -1. -/
theorem test_branches : after (.br t0 (fld 0 0 0 0xFFFFFFFF)) sA (fun u => (u.thr t0).pc == 0xFF8) = true ∧
    after (.br t0 (off 0 0 0 9)) sA (fun u => (u.thr t0).pc == 0x1008) = true ∧
    after (.jal t0 (fld 4 0 0 2)) sA (fun u => (u.thr t0).pc == 0x1010 && (u.thr t0).rg 4 == 0x1008) = true ∧
    after (.jalr t0 (fld 5 5 0 8)) sA (fun u => (u.thr t0).pc == 0x1008 && (u.thr t0).rg 5 == 0x1008) = true := by decide



/-! ## Loads, stores, atomics -/

/-- A load of four bytes at 0x1000 whose data has not arrived; sign-extended they are FFFFFFFF9200FF81. -/
def ldA : PendLoad :=
  { dst := 9, cnt := 2, addr := 0x1000, size := 4, signed := true, amo := none, fwd := [], val := none, tag := none, pc := 0, inst := 0 }
def ldV : PendLoad := { ldA with cnt := 0, val := some 0x77 }
def ldG : PendLoad := { ldA with got := some 0x77 }
def amoA : PendLoad := { ldA with amo := some (.add, 0x7FFFFFFF, 0) }
def casA : PendLoad := { ldA with size := 8, signed := false, amo := some (.cas, 0x1234, 0x850000009200FF81) }
def entA : StoreEnt := ⟨0x1000, [0x11, 0, 0, 0x44], 0, 0, false⟩
/-- To device 2. -/
def entFar : StoreEnt := ⟨0x0002000000001000, [0x11, 0, 0, 0x44], 0, 0, false⟩

def thrDly : Thread := { thrA with loads := [ldV, { ldV with dst := 3, cnt := 1 }] }
def sLd : State := only { thrA with loads := [ldA], st := .waiting (.loadData false) }
def sGot : State := only { thrA with loads := [ldG] }
def sDue : State := only { thrA with loads := [{ ldA with cnt := 0 }] }
def sAmo : State := only { thrA with loads := [amoA] }
def sAmoGot : State := only { thrA with loads := [{ amoA with got := some 5 }] }
def sCas : State := only { thrA with loads := [casA] }
def sFull : State := only { thrA with sbuf := List.replicate 8 entA }
def sSt : State := only { thrA with sbuf := [entA] }
def sMiss : State := only { thrA with pc := 0x1040 }
def sFetch : State := only { thrA with pc := 0x1040, st := .waiting (.fetch false) }
/-- Eight loads outstanding at the queue of 0x1000's bank. -/
def sBusy : State := only { thrA with loads := List.replicate 8 { ldA with bank := some (bankOf sA 0x1000) } }
def bankW : BankWait := ⟨0, 0, t0, false, 3⟩
def sBank : State := { only { thrA with st := .waiting .bank } with mem := { cells := cellsA, bankWait := [bankW] } }
def bankS : BankWait := ⟨bankOf sA 0x1000, 0, t0, true, 3⟩
def sBankSt : State := { sSt with mem := { cells := cellsA, bankWait := [bankS] } }
/-- g12 names a register of lathe 0, CVT_STAT. -/
def sReg : State := only { thrA with g := [(12, 0x300000000000 + BitVec.ofNat 64 (rCvtstat 0)), (3, 5)] }
/-- Every region is uncached. -/
def sUc : State := { sFetch with mem := { cells := cellsA, rat := [(512, 0x40)] } }

/-- A member at address 1 with port 0 up to device 2. -/
def recA : Membership :=
  { epoch := 5, head := 1, members := [(1, 77), (2, 88), (3, 99)], spares := [], trans := []
    topo := [(1, 0, 2, 20), (2, 20, 1, 0), (2, 0, 3, 20), (3, 20, 2, 0), (1, 20, 3, 0), (3, 0, 1, 20)] }
def portA : Port := { st := .up, partner := 2, pport := 20, rxSeq := 9, txSeq := 3, replay := [(1, [1]), (2, [2]), (3, [3])] }
def chainA : Chain :=
  { st := .member, addr := 1, epoch := 5, head := 1, rec_ := some recA, adoptedAt := 5
    ports := [(0, portA), (20, { portA with partner := 3, pport := 0 })] }
/-- g5 = 0x0002000000001000 names device 2. -/
def thrFar : Thread := { thrA with g := [(5, 0x0002000000001000), (1, 5)] }
def sFar : State := { only thrFar with chain := chainA }
/-- No port is up. -/
def sCut : State := { only thrFar with chain := { chainA with ports := [] } }
/-- Mode E, remote regions copied; with the line of 0x0002000000001000 in the die's copies, and without it. -/
def memCopy (c : List RCopy) : Mem := { cells := cellsA, modeE := true, rat := [(0, 0x401), (1, 0xFFFFFFFFF001)], rcopies := c }
def copyA : RCopy := ⟨0, 0x0002000000001000, (List.range 64).map (BitVec.ofNat 8)⟩
def sCopied : State := { sFar with mem := memCopy [copyA] }
def sCopies : State := { sFar with mem := memCopy [] }

theorem can_sFull : CanIssue sFull t0 := by constructor <;> decide
theorem can_sFar : CanIssue sFar t0 := by constructor <;> decide
theorem can_sCut : CanIssue sCut t0 := by constructor <;> decide
theorem can_sCopied : CanIssue sCopied t0 := by constructor <;> decide
theorem can_sCopies : CanIssue sCopies t0 := by constructor <;> decide
theorem can_sReg : CanIssue sReg t0 := by constructor <;> decide
theorem can_sBusy : CanIssue sBusy t0 := by constructor <;> decide

theorem reaches_sA : Reaches sA t0 .r (ea sA t0 (fld 9 5 0 0)) 8 0x1000 false := by
  have e : bankMet (begun sA t0) t0 0x1000 false = some (bankOf sA 0x1000) := by decide
  refine ⟨?_, ?_, ?_, ?_, fun b h => ?_⟩ <;> first | decide | (rw [e] at h; cases h; left; decide)
theorem reaches_amo : Reaches sA t0 .rw (ea sA t0 (fld 9 5 1 4)) 4 0x1004 true := by
  have e : bankMet (begun sA t0) t0 0x1004 true = some (bankOf sA 0x1004) := by decide
  refine ⟨?_, ?_, ?_, ?_, fun b h => ?_⟩ <;> first | decide | (rw [e] at h; cases h; left; decide)

theorem arriving_sLd : Arriving sLd t0 0 0 ldA := by constructor <;> decide
theorem arriving_sGot : Arriving sGot t0 0 0 ldG := by constructor <;> decide
theorem arriving_sAmo : Arriving sAmo t0 0 0 amoA := by constructor <;> decide
theorem arriving_sAmoGot : Arriving sAmoGot t0 0 0 { amoA with got := some 5 } := by constructor <;> decide
theorem served_sLd : Served sLd t0 ldA := by
  refine ⟨?_, ?_, ?_, ?_, firstInLine_one rfl (fun p h => ?_), ?_⟩ <;> first | decide | (cases List.mem_singleton.mp h; decide)
theorem served_sAmo : Served sAmo t0 amoA := by
  refine ⟨?_, ?_, ?_, ?_, firstInLine_one rfl (fun p h => ?_), ?_⟩ <;> first | decide | (cases List.mem_singleton.mp h; decide)
theorem before_sDue : Before sDue t0 := by constructor <;> decide
theorem before_sMiss : Before sMiss t0 := by constructor <;> decide

/-- A load from memory and from a register; the arrival of data that memory gives now and that it has given; the load delay; the wait
for due data. -/
theorem test_hyps_Loads : (CanIssue sA t0 ∧ guarded sA t0 (fld 9 5 0 0) ∧ ggzI (fld 9 5 0 0) = true ∧
      Reaches sA t0 .r (ea sA t0 (fld 9 5 0 0)) 8 0x1000 false) ∧
    (CanIssue sReg t0 ∧ guarded sReg t0 (fld 9 12 0 0) ∧ ggzI (fld 9 12 0 0) = true ∧
      checkData sReg t0 .r (ea sReg t0 (fld 9 12 0 0)) 8 = .ok ∧ isSelf sReg (chainOf (ea sReg t0 (fld 9 12 0 0))) = true ∧
      placeOf sReg t0 (ea sReg t0 (fld 9 12 0 0)) = .ctl (rCvtstat 0) ∧ regCheck sReg t0 (ea sReg t0 (fld 9 12 0 0)) 8 = none ∧
      (sReg.thr t0).sbuf = []) ∧
    (Arriving sLd t0 0 0 ldA ∧ ldA.amo = none ∧ Served sLd t0 ldA) ∧ (Arriving sGot t0 0 0 ldG ∧ ldG.amo = none ∧ ldG.got = some 0x77) ∧
    (ldV ∈ thrDly.loads ∧ ldV.val = some 0x77 ∧
      ldV.cnt = 0 ∧ ldV.dst ≠ 0 ∧ (∀ q ∈ thrDly.loads, q.cnt = 0 → q.dst = ldV.dst → q = ldV) ∧ (∀ p ∈ thrDly.loads, p.cnt = 0 → p.dst ≠ 3) ∧
      ({ ldV with dst := 3, cnt := 1 } : PendLoad) ∈ thrDly.loads) ∧
    (Before sDue t0 ∧ lineThere sDue t0 = true ∧ dueAbsent (sDue.thr t0) = true) := by
  refine ⟨⟨can_sA, on, ?_, reaches_sA⟩, ⟨can_sReg, on, ?_⟩, ⟨arriving_sLd, rfl, served_sLd⟩, ⟨arriving_sGot, rfl, rfl⟩, ?_,
    before_sDue, ?_⟩ <;> decide

/-- A load from device 2: asked for; its line asked for where copies are kept; found in a copy; without a route. -/
theorem test_hyps_Loads_far : (CanIssue sFar t0 ∧ guarded sFar t0 (fld 9 5 0 0) ∧ checkData sFar t0 .r (ea sFar t0 (fld 9 5 0 0)) 8 = .remote 2 ∧
      sFar.chain.st ≠ .fenced ∧ rcacheAt sFar (ea sFar t0 (fld 9 5 0 0)) = false ∧ (route sFar 2).isSome = true) ∧
    (CanIssue sCopies t0 ∧ checkData sCopies t0 .r (ea sCopies t0 (fld 9 5 0 0)) 8 = .remote 2 ∧
      rcacheAt sCopies (ea sCopies t0 (fld 9 5 0 0)) = true ∧ copyOf sCopies t0 (ea sCopies t0 (fld 9 5 0 0)) = none ∧
      (route sCopies 2).isSome = true) ∧
    (CanIssue sCopied t0 ∧ checkData sCopied t0 .r (ea sCopied t0 (fld 9 5 0 0)) 8 = .remote 2 ∧
      rcacheAt sCopied (ea sCopied t0 (fld 9 5 0 0)) = true ∧ copyOf sCopied t0 (ea sCopied t0 (fld 9 5 0 0)) = some copyA ∧
      (sCopied.thr t0).sbuf = []) ∧
    (CanIssue sCut t0 ∧ checkData sCut t0 .r (ea sCut t0 (fld 9 5 0 0)) 8 = .remote 2 ∧ heldTo sCut 2 = false ∧ route sCut 2 = none) := by
  refine ⟨⟨can_sFar, on, ?_⟩, ⟨can_sCopies, ?_⟩, ⟨can_sCopied, ?_⟩, can_sCut, ?_⟩ <;> decide

/-- 0x1001 is aligned to nothing but bytes; at U 0x1080 lies outside the window that ends at 0x107F. -/
theorem test_hyps_DataAccessTraps : (CanIssue sA t0 ∧ CanTrap sA t0 ∧ guarded sA t0 (fld 9 5 0 1) ∧ CanIssue sU t0 ∧ CanTrap sU t0 ∧
      guarded sU t0 (fld 9 5 0 0x80)) ∧ ggzI (fld 9 5 0 1) = true ∧ isControl sA t0 (ea sA t0 (fld 9 5 0 1)) = false ∧
    (ea sA t0 (fld 9 5 0 1)).toNat % 2 ≠ 0 ∧ fieldsOk .z .g .g (fld 0 5 1 1) = true ∧ fieldsOk .g .g .g (fld 9 5 1 1) = true ∧
    isControl sU t0 (ea sU t0 (fld 9 5 0 0x80)) = false ∧ (ea sU t0 (fld 9 5 0 0x80)).toNat % 8 = 0 ∧
    regCheck sU t0 (ea sU t0 (fld 9 5 0 0x80)) 8 = none ∧
    windowOk (sU.thr t0) .r (ea sU t0 (fld 9 5 0 0x80)) 8 = false ∧ windowOk (sU.thr t0) .w (ea sU t0 (fld 0 5 1 0x80)) 8 = false ∧
    windowOk (sU.thr t0) .rw (ea sU t0 (fld 9 5 1 0x80)) 8 = false ∧ windowOk (sU.thr t0) .r 0x1078 8 = true := by
  refine ⟨⟨can_sA, trap_sA, on, can_sU, trap_sU, on⟩, ?_⟩; decide

theorem trap_sReg : CanTrap sReg t0 := by constructor <;> decide
/-- A byte load of a register. -/
theorem test_hyps_DataAccessTraps_register : CanIssue sReg t0 ∧ CanTrap sReg t0 ∧ isControl sReg t0 (ea sReg t0 (fld 9 12 0 0)) = true := by
  refine ⟨can_sReg, trap_sReg, ?_⟩; decide

theorem test_hyps_Stores : (CanIssue sA t0 ∧ guarded sA t0 (fld 0 5 1 0) ∧ CanIssue sFull t0 ∧ guarded sFull t0 (fld 0 5 1 0)) ∧
    (fieldsOk .z .g .g (fld 0 5 1 0) = true ∧ checkData sA t0 .w (ea sA t0 (fld 0 5 1 0)) 8 = .ok ∧
      placeOf sA t0 (ea sA t0 (fld 0 5 1 0)) = .ram 0x1000 ∧ (sA.thr t0).sbuf.length < 8 ∧ 8 ≤ (sFull.thr t0).sbuf.length ∧
      checkData sFull t0 .w (ea sFull t0 (fld 0 5 1 0)) 8 = .ok ∧ placeOf sFull t0 (ea sFull t0 (fld 0 5 1 0)) = .ram 0x1000 ∧
      checkData sFar t0 .w (ea sFar t0 (fld 0 5 1 0)) 8 = .remote 2) ∧
    (fieldsOk .z .g .g (fld 0 12 3 0) = true ∧ checkData sReg t0 .w (ea sReg t0 (fld 0 12 3 0)) 8 = .ok ∧
      placeOf sReg t0 (ea sReg t0 (fld 0 12 3 0)) = .ctl (rCvtstat 0) ∧ isSelf sReg (chainOf (ea sReg t0 (fld 0 12 3 0))) = true ∧
      regCheck sReg t0 (ea sReg t0 (fld 0 12 3 0)) 8 = none ∧ rCvtstat 0 / 8 * 8 ≠ rMemMode) ∧
    (isControl sReg t0 (ea sReg t0 (fld 0 12 3 0)) = true ∧ checkData sReg t0 .w (ea sReg t0 (fld 0 12 3 0)) 1 = .ok) := by
  refine ⟨⟨can_sA, on, can_sFull, on⟩, ?_⟩; decide

def sStFar : State := { only { thrFar with sbuf := [entFar] } with chain := chainA }
theorem test_hyps_Stores_drain : ((sSt.thr t0).sbuf = entA :: [] ∧ clockRuns sSt t0 = true ∧ (sSt.thr t0).vst = none ∧
      isSelf sSt (chainOf entA.addr) = true ∧ placeOf sSt t0 entA.addr = .ram 0x1000 ∧ memBusy sSt 0x1000 = false ∧
      bankFull sSt 0 (bankOf sSt 0x1000) = false) ∧
    FirstInLine sSt t0 (some (bankOf sSt 0x1000)) sSt.mem.presented 0x1000 4 ∧
    ((sStFar.thr t0).sbuf = entFar :: [] ∧ clockRuns sStFar t0 = true ∧ (sStFar.thr t0).vst = none ∧
      isSelf sStFar (chainOf entFar.addr) = false ∧ sStFar.chain.st ≠ .fenced ∧ (route sStFar (chainOf entFar.addr)).isSome = true) := by
  refine ⟨?_, firstInLine_one rfl (fun p h => by cases h), ?_⟩ <;> decide

theorem test_hyps_Atomics : (CanIssue sA t0 ∧ guarded sA t0 (fld 9 5 1 4) ∧ Reaches sA t0 .rw (ea sA t0 (fld 9 5 1 4)) 4 0x1004 true) ∧
    (fieldsOk .g .g .g (fld 9 5 1 4) = true ∧
      (sA.thr t0).sbuf.all (fun e => !entryAt (begun sA t0) t0 (ea sA t0 (fld 9 5 1 4)) 4 e) = true) ∧
    (CanIssue sFar t0 ∧ checkData sFar t0 .rw (ea sFar t0 (fld 9 5 1 4)) 4 true = .remote 2 ∧ (route sFar 2).isSome = true) ∧
    (Arriving sAmo t0 0 0 amoA ∧ amoA.amo = some (.add, 0x7FFFFFFF, 0) ∧ amoA.signed = (amoA.size == 4) ∧ Served sAmo t0 amoA) ∧
    (Arriving sAmoGot t0 0 0 { amoA with got := some 5 } ∧ ({ amoA with got := some 5 } : PendLoad).got = some 5) := by
  refine ⟨⟨can_sA, on, reaches_amo⟩, ?_, ⟨can_sFar, ?_⟩, ⟨arriving_sAmo, rfl, rfl, served_sAmo⟩, arriving_sAmoGot, rfl⟩ <;> decide

theorem test_hyps_FenceFetchBank : (CanIssue sA t0 ∧ guarded sA t0 (fld 0 0 0 1) ∧ CanIssue sFull t0 ∧ guarded sFull t0 (fld 0 0 0 1)) ∧
    (fieldsOk .z .z .z (fld 0 0 0 1) = true ∧ storesDone (found sA t0) = true ∧ noneInFlight (found sA t0) = true ∧
      hasQueued sA t0 = false ∧ storesDone (found sFull t0) = false) ∧
    (Before sMiss t0 ∧ lineThere sMiss t0 = false) ∧
    (∀ s, s = sFetch ∨ s = sUc → (s.thr t0).st = .waiting (.fetch false) ∧ memBusy s (lineOf t0 (s.thr t0).pc * 64) = false ∧
      clockRuns s t0 = true ∧ poisonAt s (lineOf t0 (s.thr t0).pc * 64) 64 = none ∧ icHit (s.core 0 0) (lineOf t0 (s.thr t0).pc) = false) ∧
    ((ratLookup sFetch 0 (lineOf t0 (sFetch.thr t0).pc * 64)).uc = false ∧ (ratLookup sUc 0 (lineOf t0 (sUc.thr t0).pc * 64)).uc = true) := by
  refine ⟨⟨can_sA, on, can_sFull, on⟩, ?_, ⟨before_sMiss, ?_⟩, ?_, ?_⟩
  case refine_3 => rintro s (rfl | rfl) <;> decide
  all_goals decide

/-- A full queue refuses a load; it takes in a load it refused, and performs a store. -/
theorem test_hyps_FenceFetchBank_bank : (CanIssue sBusy t0 ∧ guarded sBusy t0 (fld 10 5 0 0) ∧ ggzI (fld 10 5 0 0) = true ∧
      checkData sBusy t0 .r (ea sBusy t0 (fld 10 5 0 0)) 8 = .ok ∧ placeOf sBusy t0 (ea sBusy t0 (fld 10 5 0 0)) = .ram 0x1000 ∧
      memBusy sBusy 0x1000 = false ∧ bankMet (begun sBusy t0) t0 0x1000 false = some (bankOf sA 0x1000) ∧ (sBusy.thr t0).bankGrant = none ∧
      bankFull (begun sBusy t0) 0 (bankOf sA 0x1000) = true ∧ sBusy.mem.bankWait.all (fun w => w.thread != t0) = true) ∧
    (sBank.mem.bankWait.find? (fun b => b.bank == 0 && b.requester == 0) = some bankW ∧ bankLoad sBank 0 0 + bankGrants sBank 0 0 < 8 ∧
      bankW.store = false ∧ (sBank.thr t0).st = .waiting .bank) ∧
    (sBankSt.mem.bankWait.find? (fun b => b.bank == bankS.bank && b.requester == 0) = some bankS ∧
      bankLoad sBankSt 0 bankS.bank + bankGrants sBankSt 0 bankS.bank < 8 ∧ bankS.store = true ∧ (sBankSt.thr t0).sbuf = entA :: [] ∧
      isSelf sBankSt (chainOf entA.addr) = true ∧ placeOf sBankSt t0 entA.addr = .ram 0x1000 ∧ canon sBankSt t0 entA.addr = 0x1000 ∧
      memBusy sBankSt 0x1000 = false) ∧ FirstInLine sBankSt t0 (some bankS.bank) bankS.age 0x1000 4 := by
  refine ⟨⟨can_sBusy, on, ?_⟩, ?_, ?_, firstInLine_one rfl (fun p h => by cases h)⟩ <;> decide

/-- The arriving value is little-endian and sign-extended (R71); the register does not change yet (R79). -/
theorem test_load_data : after (.loadDataArrival t0 0) sLd (fun u => ((u.thr t0).loads.map (fun p => p.val)) == [some 0xFFFFFFFF9200FF81] &&
    (u.thr t0).rg 9 == 0) = true := by decide

/-- Issue, arrival and the end of the load delay (R79): a word load is visible to the third instruction after it. -/
theorem test_load_delay : (settleLoads { thrA with loads := [ldV] }).rg 9 = 0x77 ∧
    (settleLoads { thrA with loads := [{ ldV with cnt := 1 }] }).rg 9 = 0 ∧
    after (.ldw t0 (fld 9 5 0 0)) sA (fun u => (u.thr t0).loads.map (fun p => p.cnt) == [2]) = true := by decide

/-- 9200FF81 + 7FFFFFFF wraps to 1200FF80 at 0x1000 (R551). A CAS whose comparison holds stores s2's value. -/
theorem test_atomics : after (.loadDataArrival t0 0) sAmo (fun u => byteAt u 0x1000 == 0x80 && byteAt u 0x1003 == 0x12 &&
      byteAt u 0x1004 == 0 && (u.thr t0).loads.map (fun p => p.val) == [some 0xFFFFFFFF9200FF81]) = true ∧
    after (.loadDataArrival t0 0) sCas (fun u => byteAt u 0x1000 == 0x34 && byteAt u 0x1001 == 0x12 && byteAt u 0x1007 == 0) = true := by
  decide

/-- A store reaches memory at its drain; the canonical form lists no zero (R54). -/
theorem test_drain : after (.storeBufferDrain t0) sSt (fun u => u.mem.cells == [(0x1000, 0x11), (0x1003, 0x44), (0x1007, 0x85)]) = true := by
  decide

/-- Misaligned: XC_ALIGN with the address (R72); a reserved opcode: XC_RESERVED; each at XTVEC + 64·cause (R97). -/
theorem test_traps : after (.ldd t0 (fld 9 5 0 4)) sA (fun u => (u.thr t0).xcause == BitVec.ofNat 64 xAlign && (u.thr t0).xtval == 0x1004 &&
      (u.thr t0).pc == 0x8000 + BitVec.ofNat 64 (0x40 * xAlign) && (u.thr t0).xepc == 0x1000 && (u.thr t0).tl) = true := by decide

/-- A load from device 2 sends a READ out of port 0 (11 R408). -/
theorem test_remote_load : after (.ldd t0 (fld 9 5 0 0)) sFar (fun u => u.chain.outst.map (fun o => (o.tag, o.dst, o.pkt.type)) ==
    [(sFar.chain.nextTag, 2, pRead)]) = true := by decide


/-! ## Floating point, CSRs, traps, repeats -/

/-- g1 to g8: 1.0, -1.5, infinity, a NaN, the least subnormal, the greatest finite, 2^63 and 0.5 in FP32. -/
def thrF : Thread :=
  { thrA with g := [(1, 0x3F800000), (2, 0xBFC00000), (3, 0x7F800000), (4, 0x7FC00000), (5, 1), (6, 0x7F7FFFFF), (7, 0x5F000000), (8, 0x3F000000)] }
def sF : State := only thrF
theorem can_sF : CanIssue sF t0 := by constructor <;> decide

theorem test_hyps_FloatResults : (CanIssue sF t0 ∧ guarded sF t0 (fld 9 1 2 0)) ∧ (ggg1 (fld 9 1 2 0) = true ∧ ggg1 (fld 9 1 2 1) = true ∧
      ggz1 (fld 9 1 0 1) = true ∧ pgg1 (fld 9 1 2 0) = true) ∧
    (fpReg sF t0 (fld 9 4 0 0) 4).isNan = true ∧ fpReg sF t0 (fld 9 3 0 0) 3 = .inf false ∧
    fpReg sF t0 (fld 9 7 0 0) 7 = .fin false 0x800000 40 := by
  refine ⟨⟨can_sF, on⟩, ?_⟩; decide

theorem test_hyps_RoundTrips : (RMode.rtz = .rne ∨ RMode.rtz = .rtz) ∧ 0x7F7FFFFF < 2 ^ (fp32.eb + fp32.fb + 1) ∧
    (fp32.decode 0x7F7FFFFF).isNan = false ∧ (fp32.decode 0x7FA00000).isNan = true ∧ 511 < 512 ∧
    (⟨1, 2, 5, pRead, 3, 3, 9, 0, 0x1004, 0, [5, 0]⟩ : Packet).vc < 4 := by decide

theorem test_hyps_CsrAccess : (CanIssue sA t0 ∧ CanTrap sA t0 ∧ CanIssue sU t0 ∧ CanTrap sU t0 ∧ guarded sA t0 (fld 9 0 0 0x102) ∧
      guarded sU t0 (fld 9 0 0 0x11)) ∧ (fld 9 0 0 0xFFF).imm.toNat < 2 ^ 12 ∧
    (fieldsOk .g .z .z (fld 9 0 0 0x102) = true ∧ (0x102, fun (s : State) (t : Tid) => (s.thr t).xepc).1 = 0x102 ∧ (sA.thr t0).level ≠ .u) ∧
    (fieldsOk .z .g .z (fld 0 1 0 0x10E) = true) ∧ csrListed 0xFFF = false ∧ (csrListed 0x102 = true ∧ (sU.thr t0).level = .u) := by
  refine ⟨⟨can_sA, trap_sA, can_sU, trap_sU, on, on⟩, ?_⟩; decide

def brkLoads : List PendLoad := [{ ldA with dst := 3, cnt := 1, val := some 0x77 }, { ldA with dst := 31, cnt := 2, val := some 0x99 }]
def sTwo : State := only { thrA with loads := brkLoads }
theorem can_sTwo : CanIssue sTwo t0 := by constructor <;> decide
theorem trap_sTwo : CanTrap sTwo t0 := by constructor <;> decide

theorem test_hyps_SystemInstructions : (CanIssue sA t0 ∧ guarded sA t0 (fld 0 0 0 0) ∧ CanTrap sA t0 ∧ CanIssue sU t0 ∧ CanTrap sU t0 ∧
      CanIssue sTwo t0 ∧ guarded sTwo t0 (fld 0 0 0 7) ∧ CanTrap sTwo t0) ∧
    (fieldsOk .z .z .z (fld 0 0 0 0) = true ∧ (sA.thr t0).level ≠ .u ∧ (found sA t0).loads = [] ∧ (sA.thr t0).xrep.getLsbD 15 = false ∧
      (sA.thr t0).preemptAt = none) ∧ (sU.thr t0).level = .u ∧ opAssigned 0x1FF = false ∧ (found sTwo t0).loads = brkLoads := by
  refine ⟨⟨can_sA, on, trap_sA, can_sU, trap_sU, can_sTwo, on, trap_sTwo⟩, ?_⟩; decide

def sPre : State := only { thrA with ie := true, ipPre := true, ipTim := true, ieTim := true }
def sTim : State := only { thrA with ie := true, ipTim := true, ieTim := true, tcmp := 1000 }
def sMbx : State :=
  { only { thrA with ie := true, ieMbx := true } with mbx := [(0, { e0 := { msgs := [[1, 2, 3, 4, 5, 6, 7, 8]] } })], ctl := [(rMbx 0, 0x80000000000 + (threadId t0).setWidth 64)] }

theorem test_hyps_TimerAndInterrupts : (CanIssue sA t0 ∧ guarded sA t0 (fld 0 1 0 0x10D)) ∧
    (fieldsOk .z .g .z (fld 0 1 0 0x10D) = true ∧ (sA.thr t0).level ≠ .u) ∧ (sTim.thr t0).tcmp.toNat ≤ sTim.plat.devTime.toNat ∧
    ((sPre.thr t0).st = .running ∧ clockRuns sPre t0 = true ∧ (sPre.lathe 0).svc ≠ .fenced ∧ (sPre.thr t0).rep = none ∧
      (sPre.thr t0).resume = none ∧ (sPre.thr t0).loads = [] ∧ (sPre.thr t0).ie = true ∧ (sPre.thr t0).ipPre = true) ∧
    ((sTim.thr t0).ipPre = false ∧ (sTim.thr t0).ipTim = true ∧ (sTim.thr t0).ieTim = true) ∧
    ((sMbx.thr t0).ipPre = false ∧ ((sMbx.thr t0).ipTim && (sMbx.thr t0).ieTim) = false ∧ (sMbx.thr t0).ieMbx = true ∧
      mbxAttention sMbx (threadId t0) = true) := by
  refine ⟨⟨can_sA, on⟩, ?_⟩; decide

/-- The thread has a TLD queued; it waits for a mailbox. -/
def opA : TileOp := { seq := 0, thread := 0, kind := .tld, d := 3 }
def sQueued : State := { sA with cores := [(0, { coreA with tileQ := [opA] })] }
def sInter : State := only { thrA with ie := true, ipPre := true, st := .waiting (.mbx 0 0 true 0) }
theorem can_sQueued : CanIssue sQueued t0 := by constructor <;> decide
def sLdR : State := only { thrA with loads := [ldA] }
theorem can_sLdR : CanIssue sLdR t0 := by constructor <;> decide

/-- A CSR that waits for the thread's operations, one that does not, CORE_TIME, XTVEC and a read-only one. -/
theorem test_hyps_CsrAccess_kinds : (CanIssue sQueued t0 ∧ hasQueued sQueued t0 = true ∧ hasQueued sA t0 = false) ∧
    (fld 9 0 0 2).imm.toNat = 2 ∧ (fld 9 0 0 1).imm.toNat = 1 ∧ (fld 0 1 0 0x101).imm.toNat = 0x101 ∧
    (fld 0 1 0 0x11).imm.toNat ∈ [0x000, 0x001, 0x003, 0x011] := by
  refine ⟨⟨can_sQueued, ?_⟩, ?_⟩ <;> decide

/-- An XRET with a load in flight, and one that resumes a repeat with no repetition left. -/
theorem test_hyps_SystemInstructions_xret : CanIssue sLdR t0 ∧ allArrived (found sLdR t0) = false := ⟨can_sLdR, by decide⟩

theorem test_hyps_TimerAndInterrupts_waiting : ((sInter.thr t0).st = .waiting (.mbx 0 0 true 0) ∧ interruptible (.mbx 0 0 true 0) = true) ∧
    clockRuns sInter t0 = true ∧ (sInter.lathe 0).svc ≠ .fenced ∧ (sInter.thr t0).rep = none ∧ (sInter.thr t0).resume = none ∧
    (sInter.thr t0).bound = false ∧ allArrived (sInter.thr t0) = true ∧ (sInter.thr t0).ie = true ∧ (sInter.thr t0).ipPre = true ∧
    (lateDue (sPre.thr t0) = none ∧ (sPre.thr t0).bound = false ∧ allArrived (sPre.thr t0) = true) := by decide

/-- ADDI g4, g4, 7. -/
def addi7 : Word := insWord 0x020 (fld 4 4 0 7)
def repA : Rep := { a := 0x1000, intr := true, step := 5, stride := 8, n := 3, word := addi7 }
def sRep : State := only { thrA with rep := some repA, pc := 0x1008 }
theorem can_sRep : CanIssue (sRep.setThr t0 { sRep.thr t0 with rep := none, pc := 0x1008 }) t0 := by constructor <;> decide

/-- REP.I with count 4,096 in imm[11:0]; with a count in g31 = 3 or g3, which is over 4,096; with guard 0. -/
theorem test_hyps_Repeats : (CanIssue sA t0 ∧ guarded sA t0 (fld 5 0 0 0x00080FFF) ∧ CanTrap sA t0 ∧ ¬guarded sA t0 (off 5 0 0 0x00080FFF) ∧
      CanIssue (sRep.setThr t0 { sRep.thr t0 with rep := none, pc := repA.a + 8 }) t0) ∧
    ((sA.thr t0).resume = none ∧ repLegal true t0 (fld 5 0 0 0x00080FFF) addi7 = true ∧ fetchCheck sA t0 (pcNext sA t0) = .ok ∧
      icHit ((begun sA t0).core 0 0) (lineOf t0 (pcNext sA t0)) = true ∧
      ((fld 5 0 0 0x00080FFF).imm &&& 0xFFF#32).toNat + 1 = 4096) ∧
    (repLegal true t0 (fld 5 3 0 0x00081000) addi7 = true ∧ 4096 < ((found sA t0).rg 3).toNat) ∧
    repLegal true t0 (off 5 0 0 0x00080FFF) addi7 = true ∧
    ((sRep.thr t0).rep = some repA ∧ repA.held = false ∧ repA.word = insWord 0x020 (wordFld repA.word) ∧ ggzI (wordFld repA.word) = true ∧
      (sRep.thr t0).loads = []) := by
  refine ⟨⟨can_sA, on, trap_sA, off_sA, can_sRep⟩, ?_⟩; decide

/-- 1.0 - 1.5 = -0.5; 1.0 + least subnormal is inexact; greatest finite + itself overflows to infinity (R75, R76, R549). -/
theorem test_fadd : after (.fadd t0 (fld 9 1 2 0)) sF (fun u => (u.thr t0).rg 9 == 0xBF000000 && (u.thr t0).fpcsr == 0) = true ∧
    after (.fadd t0 (fld 9 1 5 0)) sF (fun u => (u.thr t0).rg 9 == 0x3F800000 && (u.thr t0).fpcsr == 0x20) = true ∧
    after (.fadd t0 (fld 9 6 6 0)) sF (fun u => (u.thr t0).rg 9 == 0x7F800000) = true := by decide

/-- FCVTI: 0.5 rounds to 0, -1.5 to -2 (ties to even); 2^63 and infinity saturate; a NaN gives 0 (R77). -/
theorem test_fcvti : after (.fcvti t0 (fld 9 8 0 0)) sF (fun u => (u.thr t0).rg 9 == 0) = true ∧
    after (.fcvti t0 (fld 9 2 0 0)) sF (fun u => (u.thr t0).rg 9 == 0xFFFFFFFFFFFFFFFE) = true ∧
    after (.fcvti t0 (fld 9 7 0 0)) sF (fun u => (u.thr t0).rg 9 == 0x7FFFFFFFFFFFFFFF && (u.thr t0).fpcsr == 0x200) = true ∧
    after (.fcvti t0 (fld 1 4 0 0)) sF (fun u => (u.thr t0).rg 1 == 0) = true := by decide

/-- 0.5 · 2^63 · … : FMA adds d: 1.0 × -1.5 + 0.5 = -1.0 (R78). FCVTF of 1 is 1.0. -/
theorem test_fma : after (.fma t0 (fld 8 1 2 0)) sF (fun u => (u.thr t0).rg 8 == 0xBF800000) = true ∧
    after (.fcvtf t0 (fld 9 5 0 0)) sF (fun u => (u.thr t0).rg 9 == 0x3F800000) = true ∧
    after (.fcvtw t0 (fld 9 2 0 1)) sF (fun u => (u.thr t0).rg 9 == 0xBFF8000000000000) = true := by decide

/-- A NaN compares false but for FCMPUN; FCMPLT sets invalid (R77). -/
theorem test_fcmp : after (.fcmplt t0 (fld 2 1 4 0)) sF (fun u => (u.thr t0).rp 2 == 0 && (u.thr t0).fpcsr == 0x200) = true ∧
    after (.fcmpun t0 (fld 4 1 4 0)) sF (fun u => (u.thr t0).rp 4 == 0xFFFF && (u.thr t0).fpcsr == 0) = true ∧
    after (.fcmpeq t0 (fld 4 1 1 0)) sF (fun u => (u.thr t0).rp 4 == 0xFFFF) = true := by decide

/-- XRET at K: pc, level and enables come back (R100). At U: XC_PRIV. -/
theorem test_xret : after (.xret t0 (fld 0 0 0 0)) (only { thrA with tl := true, pie := true }) (fun u =>
      (u.thr t0).pc == 0x2000 && (u.thr t0).level == .u && (u.thr t0).ie && !(u.thr t0).tl) = true ∧
    after (.xret t0 (fld 0 0 0 0)) sU (fun u => (u.thr t0).xcause == BitVec.ofNat 64 xPriv && (u.thr t0).level == .k) = true := by decide

/-- A trap with tl = 1 and nest = 0 is a double trap (R99). -/
theorem test_double_trap : after (.brk t0 (fld 0 0 0 7)) sTl (fun u => (u.thr t0).st == .waiting .doubleTrap && (u.thr t0).pc == 0x1000 &&
    (u.thr t0).xepc == 0x2000) = true := by decide

/-- Priority: preempt before timer (R95); its vector is at XTVEC + 0x800 + 64·3. -/
theorem test_interrupt : after (.takeInterrupt t0) sPre (fun u => (u.thr t0).xcause == 0x8000000000000003 && (u.thr t0).pc == 0x88C0) = true ∧
    after (.takeInterrupt t0) sMbx (fun u => (u.thr t0).xcause == 0x8000000000000002 && (u.thr t0).pc == 0x8880) = true := by decide

/-- One repetition of ADDI g4, g4, 7 with step g5 by 8 (R84, R85). -/
theorem test_repetition : after (.repetition t0) sRep (fun u => (u.thr t0).rg 4 == 7 && (u.thr t0).rg 5 == 0x1008 &&
    (u.thr t0).rep == some { repA with n := 2 }) = true := by decide

def sHeld : State := only { thrA with rep := some { repA with held := true }, pc := 0x1008 }
/-- A stray bit in the prefix; a word that may not be repeated; a repetition whose result was awaited. -/
theorem test_hyps_Repeats_more : repFields true (fld 5 0 1 0x00080FFF) = false ∧ repFields true (fld 5 3 0 0x00081000) = true ∧
    (repFields true (fld 5 0 0 0x00080FFF) = true ∧ repLegal true t0 (fld 5 0 0 0x00080FFF) 0 = true ∧
      repLegal true t0 (fld 5 0 0 0x00080FFF) (insWord 0x060 (fld 0 0 0 0)) = false) ∧
    ((sHeld.thr t0).rep = some { repA with held := true } ∧ (sHeld.thr t0).st = .running ∧ clockRuns sHeld t0 = true) := by decide

/-! ## Short vectors -/

def thrV : Thread :=
  { thrA with p := [(1, 0x5A53)], g := [(1, 0x0123456789ABCDEF), (5, 0x1000)]
              v := [(1, 0x7F800000_3F800000_FFC00000_80000001), (2, 0x00112233_BFC0BFC0_C2FE0001_7FFF8000), (8, 0x00000018_00000010_00000008_00000000)] }
def sV : State := only thrV
theorem can_sV : CanIssue sV t0 := by constructor <;> decide
theorem trap_sV : CanTrap sV t0 := by constructor <;> decide

/-- A field word under the lanes of p1: 0101 1010 0101 0011. -/
def masked (d a b : BitVec 6) (i : BitVec 32) : Fld := ⟨1, false, d, a, b, i⟩

theorem test_hyps_ShortVectorInteger : CanIssue sV t0 ∧ (fieldsOk .v .v .v (masked 9 1 2 0xC0000000) = true ∧
      (masked 9 1 2 0xC0000000).imm &&& 0x3FFFFFFF#32 = 0) ∧
    (fieldsOk .p .v .v (masked 4 1 2 0x00500000) = true ∧ (masked 4 1 2 0x00500000).d ≠ 0 ∧
      (masked 4 1 2 0x00500000).imm &&& 0x3F0FFFFF#32 = 0 ∧ ((masked 4 1 2 0x00500000).imm >>> 20 &&& 15#32).toNat < 6) ∧
    ((0x87300000 : BitVec 32) &&& 0x03300000#32 = 0x03300000 ∧
      ((1#32 <<< 30) ||| (1#32 <<< 26) ||| (0x47300000#32 &&& 0x03300000#32)) = 0x47300000) := by
  refine ⟨can_sV, ?_⟩; decide

theorem test_hyps_ShortVectorFloat : CanIssue sV t0 ∧ fieldsOk .v .v .v (masked 9 1 2 0x80000000) = true ∧
    (masked 9 1 2 0x80000000).imm = (2#32 <<< 30) ||| (0#32 <<< 26) ||| ((masked 9 1 2 0x80000000).imm &&& 0x03000000#32) ∧
    (masked 9 1 2 0x4B000000).imm = (1#32 <<< 30) ||| (2#32 <<< 26) ||| ((masked 9 1 2 0x4B000000).imm &&& 0x03000000#32) := by
  refine ⟨can_sV, ?_⟩; decide

/-- VCVT from FP16 to BF16; VWMUL of bytes, unsigned high half; VDOT; VINS and VEXT at the last element. -/
theorem test_hyps_ShortVectorOther : CanIssue sV t0 ∧
    (cvtLegal (masked 9 1 0 0x04200000) = true ∧ fmtReserved (svFmt (masked 9 1 0 0x04200000)) = false ∧
      fmtReserved (svSub (masked 9 1 0 0x04200000)) = false ∧
      fmtBits (svSub (masked 9 1 0 0x04200000)) = fmtBits (svFmt (masked 9 1 0 0x04200000))) ∧
    (fieldsOk .v .v .v (masked 9 1 2 0x40300000) = true ∧ (0x40300000 : BitVec 32) &&& 0xBFCFFFFF#32 = 0 ∧
      laneW (masked 9 1 2 0x40300000) ≤ 16) ∧
    ((0x94000000 : BitVec 32) &&& 0xFCFFFFFF#32 = 0x94000000#32) ∧
    (fieldsOk .v .g .z (masked 9 1 0 0x40000000) = true ∧ (0x40000000 : BitVec 32) &&& 0x3FFFFFFF#32 = 0) ∧
    (((masked 9 1 0 0x40000007).imm &&& 0xFFFF#32).toNat < laneN (masked 9 1 0 0x40000007)) ∧
    (fieldsOk .g .v .z (masked 9 1 0 0x4010000F) = true ∧ (0x40100007 : BitVec 32) &&& 0x3FEF0000#32 = 0) ∧
    CanTrap sV t0 ∧ (fieldsOk .v .v .v (masked 9 1 2 0x9C000000) = true ∧ (0x9C000000 : BitVec 32) &&& 0x00FFFFFF#32 = 0 ∧
      fmtReserved ((masked 9 1 2 0x9C000000).imm >>> 26 &&& 15#32).toNat = true ∧ laneW (masked 9 1 2 0x9C000000) = 32 ∧
      laneOn sV t0 (masked 9 1 2 0x9C000000) 0 = true ∧ 0 < laneN (masked 9 1 2 0x9C000000)) := by
  refine ⟨can_sV, ?_, ?_, ?_, ?_, ?_, ?_, trap_sV, ?_⟩ <;> decide

def sVld : State := only { thrV with st := .waiting .vecLoad, vprog := 1, vld := some ⟨true, 9, 32, [⟨1, 0x1000, none, some 7, none⟩, ⟨3, 0x1008, none, some 9, none⟩], 0⟩ }

theorem below {P : Nat → Prop} {n : Nat} (h : ∀ i, i < n → P i) : ∀ i, 0 ≤ i → i < n → P i := fun i _ => h i

/-- The permission and the place of an access. -/
theorem reach_run (p : Perm) (home : Bool) : VecReaches sV t0 p (masked 9 5 0 0xC0000000) (runAddr sV t0 (masked 9 5 0 0xC0000000)) 0
    (fun i => 0x1000 + 8 * i) home :=
  { checked := below (by cases p <;> decide)
    lies := below (by decide)
    clean := below (by decide)
    taken := below (by cases home <;> decide)
    first_ := fun _ _ _ _ => ⟨firstInLine_one rfl (fun p h => by cases h), firstInLine_one rfl (fun p h => by cases h)⟩
    noStores := fun _ _ _ _ e h => by cases h
    some_ := ⟨0, by decide⟩ }

theorem reach_index (p : Perm) (home : Bool) : VecReaches sV t0 p (masked 9 5 8 0x80000000)
    (indexAddr sV t0 (masked 9 5 8 0x80000000)) 0 (fun i => 0x1000 + 8 * i) home :=
  { checked := below (by cases p <;> decide)
    lies := below (by decide)
    clean := below (by decide)
    taken := below (by cases home <;> decide)
    first_ := fun _ _ _ _ => ⟨firstInLine_one rfl (fun p h => by cases h), firstInLine_one rfl (fun p h => by cases h)⟩
    noStores := fun _ _ _ _ e h => by cases h
    some_ := ⟨0, by decide⟩ }

/-- The lanes of p5, none of them active. -/
def unmasked (d a b : BitVec 6) (i : BitVec 32) : Fld := ⟨5, false, d, a, b, i⟩

theorem test_hyps_ShortVectorMemory : (CanIssue sV t0 ∧
      VecReaches sV t0 .r (masked 9 5 0 0xC0000000) (runAddr sV t0 (masked 9 5 0 0xC0000000)) 0 (fun i => 0x1000 + 8 * i) false ∧
      VecReaches sV t0 .w (masked 9 5 0 0xC0000000) (runAddr sV t0 (masked 9 5 0 0xC0000000)) 0 (fun i => 0x1000 + 8 * i) true ∧
      VecReaches sV t0 .r (masked 9 5 8 0x80000000) (indexAddr sV t0 (masked 9 5 8 0x80000000)) (sV.thr t0).vprog.toNat
        (fun i => 0x1000 + 8 * i) false ∧
      VecReaches sV t0 .w (masked 9 5 8 0x80000000) (indexAddr sV t0 (masked 9 5 8 0x80000000)) (sV.thr t0).vprog.toNat
        (fun i => 0x1000 + 8 * i) true) ∧
    (noneOn sV t0 (unmasked 9 5 0 0xC0000000) 0 ∧ noneOn sV t0 (unmasked 9 5 8 0x80000000) (sV.thr t0).vprog.toNat) ∧
    (fieldsOk .v .g .z (masked 9 5 0 0xC0000000) = true ∧ (0xC0000000 : BitVec 32) &&& 0x3FFF0000#32 = 0) ∧
    indexLegal true (masked 9 5 8 0x80000000) = true ∧ indexLegal false (masked 9 5 8 0x80000000) = true ∧
    indexLegal true (unmasked 9 5 8 0x80000000) = true ∧ (0x80000000 : BitVec 32) &&& 0x3C000000#32 = 0 ∧
    (∃ v, (sVld.thr t0).vld = some v ∧ (sVld.thr t0).st = .waiting .vecLoad ∧ clockRuns sVld t0 = true ∧
      (∀ q ∈ v.parts, q.val.isSome ∧ q.err = none) ∧ v.w = 32 ∧ (v.parts.map (fun q => q.elem)).Nodup ∧
      (∀ q ∈ v.parts, v.w * q.elem + v.w ≤ 128)) := by
  refine ⟨⟨can_sV, reach_run _ _, reach_run _ _, reach_index _ _, reach_index _ _⟩, ⟨below (by decide), below (by decide)⟩, ?_, ?_, ?_,
    ?_, ?_, _, rfl, ?_⟩ <;> decide

/-- At U with a window from 0x1000 to 0x107F, element 1 of a run from 0x1078 lies outside it. -/
def sVU : State := only { thrV with level := .u, win := [(0, ⟨0x40, 0x41, 0xF⟩)], g := [(5, 0x1000)] }
theorem can_sVU : CanIssue sVU t0 := by constructor <;> decide
theorem trap_sVU : CanTrap sVU t0 := by constructor <;> decide
theorem test_hyps_ShortVectorMemory_trap (p : Perm) (h : p = .r ∨ p = .w) :
    let f := masked 9 5 0 0xC0000078
    CanIssue sVU t0 ∧ CanTrap sVU t0 ∧ fieldsOk .v .g .z f = true ∧ f.imm &&& 0x3FFF0000#32 = 0 ∧ xWindow ≠ xWorld ∧ 1 < laneN f ∧
    laneOn sVU t0 f 1 = true ∧ checkData sVU t0 p (runAddr sVU t0 f 1) (laneW f / 8) true = .trap xWindow 0x1080 ∧
    (∀ i, i < 1 → laneOn sVU t0 f i = true → ∀ d x, checkData sVU t0 p (runAddr sVU t0 f i) (laneW f / 8) true ≠ .trap d x) := by
  have e : checkData sVU t0 p (runAddr sVU t0 (masked 9 5 0 0xC0000078) 0) 8 true = .ok := by rcases h with rfl | rfl <;> decide
  refine ⟨can_sVU, trap_sVU, ?_, ?_, ?_, ?_, ?_, ?_, fun i hi _ d x q => ?_⟩
  case refine_6 => rcases h with rfl | rfl <;> decide
  case refine_7 =>
    obtain rfl : i = 0 := by omega
    exact Acc.noConfusion (e.symm.trans q)
  all_goals decide

/-- Reserved codes: of VFADD with an active lane and without, of VCVT, of VADD; a legal VDOT and VWMUL in each class. -/
theorem test_hyps_ShortVectorOther_reserved : (∀ f ∈ [masked 9 1 2 0xB8000000, unmasked 9 1 2 0xB8000000],
      fieldsOk .v .v .v f = true ∧ f.imm &&& 0x00FFFFFF#32 = 0 ∧ laneW f = 32 ∧ fmtReserved (fmtCode f) = true) ∧
    (laneOn sV t0 (masked 9 1 2 0xB8000000) 0 = true ∧ ∀ i, i < 4 → laneOn sV t0 (unmasked 9 1 2 0xB8000000) i = false) ∧
    (∀ f ∈ [masked 9 1 0 0x38000000, unmasked 9 1 0 0x38000000], cvtLegal f = true ∧ fmtReserved (svFmt f) = true) ∧
    (laneOn sV t0 (masked 9 1 0 0x38000000) 0 = true ∧ ∀ i, i < 16 → laneOn sV t0 (unmasked 9 1 0 0x38000000) i = false) ∧
    (∀ c ∈ [1, 3, 5], let f := masked 9 1 2 (0x80000000 ||| BitVec.ofNat 32 (c * 2 ^ 26))
      fieldsOk .v .v .v f = true ∧ laneW f = 32 ∧ f.imm &&& 0x00FFFFFF#32 = 0 ∧ fmtCode f = c) ∧
    (∀ c ∈ [1, 2], let f := masked 9 1 2 (0x40000000 ||| BitVec.ofNat 32 (c * 2 ^ 26))
      fieldsOk .v .v .v f = true ∧ laneW f = 16 ∧ f.imm &&& 0x00DFFFFF#32 = 0 ∧ fmtCode f = c) ∧
    (laneOn sV t0 (masked 9 1 0 0x40000001) 1 = true ∧ laneOn sV t0 (unmasked 9 1 0 0x40000001) 1 = false) := by
  refine ⟨?_, ?_, ?_, ?_, ?_, ?_, ?_⟩ <;> decide

/-- Only active byte lanes change: p1's low bits are 0101 0011 (R110, R115). -/
theorem test_vadd : after (.vadd t0 (masked 1 1 1 0)) sV (fun u => (u.thr t0).rv 1 == 0xFEFF0000_7E800000_FFFF0000_80000002 ||
      (u.thr t0).rv 1 &&& 0xFFFFFFFF == 0x80000002) = true ∧
    after (.vsub t0 (masked 9 2 2 0x80000000)) sV (fun u => (u.thr t0).rv 9 == 0) = true := by decide

/-- FP32 lanes 0 and 1 of p1 are active: VFADD of v1 and v1 gives 80000002 and the canonical NaN, the others keep (R110, R116). -/
theorem test_vfadd : after (.vfadd t0 (masked 1 1 1 0x80000000)) sV (fun u =>
    (u.thr t0).rv 1 == 0x7F800000_3F800000_7FC00000_80000002) = true := by decide

/-- VBCAST of halves in lanes 0, 1, 4, 6 (R122). VEXT of byte 15 of v1, 0x7F, needs an active lane 15: it is not. -/
theorem test_vbcast : after (.vbcast t0 (masked 9 1 0 0x40000000)) sV (fun u => (u.thr t0).rv 9 == 0x0000CDEF_0000CDEF_00000000_CDEFCDEF) = true ∧
    after (.vext t0 (fld 9 1 0 0x0000000F)) sV (fun u => (u.thr t0).rg 9 == 0x7F) = true := by decide

/-- VST of 64-bit lanes 0 and 1 at 0x1000 writes 16 bytes (R124). -/
theorem test_vst : after (.vst t0 (masked 2 5 0 0xC0000000)) sV (fun u => memRead u 0x1000 16 == leBytes 16 0x00112233BFC0BFC0C2FE00017FFF8000) = true := by
  decide

/-- The values of a gather arrive in lanes 1 and 3 and VPROG is cleared (R127, R128). -/
theorem test_gather : after (.vectorLoadArrival t0) sVld (fun u => (u.thr t0).rv 9 == 0x00000009_00000000_00000007_00000000 &&
    (u.thr t0).vprog == 0 && (u.thr t0).pc == 0x1008) = true := by decide

/-- VADD with fmt 7 and an active lane raises XC_FORMAT with XTVAL 7; VFCMP with fmt 14 and no active lane clears its predicate
(R110, R114, R118). -/
theorem test_reserved_format : after (.vadd t0 (masked 9 1 2 0x9C000000)) sV (fun u =>
      (u.thr t0).xcause == BitVec.ofNat 64 xFormat && (u.thr t0).xtval == 7) = true ∧
    after (.vfcmp t0 ⟨2, false, 1, 1, 2, 0xB8000000⟩) sV (fun u => (u.thr t0).rp 1 == 0 && (u.thr t0).pc == 0x1008) = true := by decide

/-! ## Long vectors and tiles -/

/-- The cells of an `n`-byte number at `a`. -/
def cell (a n v : Nat) : List Host.Cell := ((leBytes n v).zipIdx.map (fun p => (a + p.2, p.1))).filter (fun p => p.2 ≠ 0)

/-- A queued long-vector operation of thread 0 on registers 3, 1, 2 under mask 1. -/
def finA (k : FinKind) (sub : Nat) : FinOp :=
  { seq := 0, thread := 0, kind := k, d := 3, s1 := 1, s2 := 2, sub := sub, scalar := none, me := true, mreg := 1 }

/-- Its core owns the context; lanes 0 to 3 of v1 and v2; mask 1 has lanes 0, 2 and 3. -/
def coreL : Core :=
  { coreA with owner := some 0, lm := [(1, 13)]
               lv := [(1, [0x3F800000, 0xBFC00000, 0x7FC00000, 0x40490FDB]), (2, [0x3F800000, 0x40000000, 0x3F800000, 0])] }
def thrL : Thread :=
  { thrA with g := [(1, 0x40000000), (10, 0x5000), (12, 0x2000), (13, 0x3000), (16, 0x100000001), (18, 2), (19, 4)] }

def onCore (x : Thread) (c : Core) (cells : List Host.Cell) : State :=
  { only x with cores := [(0, c)], mem := { cells := cells }, lathes := [(0, { latheA with tileFree := 4000, accFree := 2000 })] }

def sL : State := onCore thrL coreL cellsA
def sLfull : State := onCore thrL { coreL with finQ := List.replicate 8 (finA .alu 0) } cellsA
def sLother : State := onCore thrL { coreL with owner := some 3 } cellsA
def sLfree : State := onCore thrL { coreL with owner := none } cellsA
def sAlu : State := onCore thrL { coreL with finQ := [finA .alu 0] } cellsA
def sCmp : State := onCore thrL { coreL with finQ := [finA .cmp 2] } cellsA
def sMask : State := onCore thrL { coreL with finQ := [{ finA .mask 4 with d := 2 }] } cellsA
def accA (store : Bool) : LvAccess :=
  { thread := 0, store := store, d := 3, addr := 0x5000, stride := 1, fmt := 0, rm := 0, me := true, mreg := 1, key := 0, src := 1, seed := 0, step := 0, inst := 0 }
def sAcc (store : Bool) : State := onCore { thrL with st := .waiting .lvAccess } { coreL with lvAccess := some (accA store) } (cell 0x5000 4 0x3F800000 ++ cell 0x500C 4 0x40000000)

theorem can_sL : CanIssue sL t0 := by constructor <;> decide
theorem can_sLfull : CanIssue sLfull t0 := by constructor <;> decide
theorem can_sLother : CanIssue sLother t0 := by constructor <;> decide
theorem can_sLfree : CanIssue sLfree t0 := by constructor <;> decide
theorem owns_sL : owns sL t0 := by show (sL.ctx t0).owner = some 0; decide
theorem head_sAlu : FinHead sAlu t0 (finA .alu 0) [] := by constructor <;> decide
theorem head_sCmp : FinHead sCmp t0 (finA .cmp 2) [] := by constructor <;> decide
theorem head_sMask : FinHead sMask t0 { finA .mask 4 with d := 2 } [] := by constructor <;> decide

/-- LV.ALU add of v1 and v2 into v3 under mask 1: me = 1, mk = 1. -/
def lvf (sub : Nat) : Fld := fld 3 1 2 (BitVec.ofNat 32 (2 ^ 25 + 2 ^ 23 + sub * 2 ^ 16))

theorem test_hyps_LongVectorQueue : (CanIssue sL t0 ∧ guarded sL t0 (lvf 12) ∧ owns sL t0 ∧ CanIssue sLfull t0 ∧ guarded sLfull t0 (lvf 0) ∧
      CanIssue sLother t0 ∧ CanIssue sLfree t0 ∧ FinHead sAlu t0 (finA .alu 0) [] ∧ FinHead sCmp t0 (finA .cmp 2) [] ∧
      FinHead sMask t0 { finA .mask 4 with d := 2 } []) ∧
    (lvAluLegal (lvf 0) = true ∧ lvMaskLegal (fld 3 1 2 0) = true ∧ ((sL.ctx t0).finQ.filter (fun o => o.kind.isLv)).length < 8 ∧
      8 ≤ ((sLfull.ctx t0).finQ.filter (fun o => o.kind.isLv)).length ∧ (sLother.ctx t0).owner = some 3 ∧
      (sLfree.ctx t0).owner = none ∧ (sLfree.ctx t0).finQ = []) ∧
    (hasQueued sL t0 = false ∧ lvFmt (fld 9 1 0 0) = 0 ∧ lvSb (fld 9 1 0 0) = false ∧ lvSub (fld 9 1 0 0) = 0 ∧
      lvMe (fld 9 1 0 0x02010000) = true ∧ (∀ i, i < 512 → lvOn (sL.ctx t0) (lvMe (fld 9 1 0 0x02010000)) (lvMk (fld 9 1 0 0x02010000)) i = false)) ∧
    (lvMemLegal false (fld 3 10 0 0x02800001) = true ∧ lvFmt (fld 3 10 0 0x02800001) ≤ 5 ∧ (sL.thr t0).sbuf = [] ∧ (sL.thr t0).loads = [] ∧
      lvMemLegal true (fld 0 10 1 0x02800001) = true ∧ keyAmax ((found sL t0).rg 0) = false ∧
      (∀ p ∈ [Perm.r, Perm.w], ∀ e ∈ lvElems (sL.ctx t0) ((found sL t0).rg 10) 1 0 true 1, checkData sL t0 p e.2 4 true = .ok ∧
        isSelf sL (chainOf e.2) = true ∧ placeOf sL t0 e.2 = .ram (0x5000 + 4 * e.1) ∧ memBusy sL (canon sL t0 e.2) = false ∧
        elemRefused (begun sL t0) t0 true (canon sL t0 e.2) = none)) ∧
    (lvMemLegal false (fld 3 10 0 0xE2800001) = true ∧ fmtReserved (lvFmt (fld 3 10 0 0xE2800001)) = true) ∧
    (((sAcc false).ctx t0).lvAccess = some (accA false) ∧ (accA false).thread = t0.thread.val ∧ ((sAcc false).thr t0).st = .waiting .lvAccess ∧
      (accA false).lines = [] ∧ (accA false).fmt.toNat ≤ 5 ∧ clockRuns (sAcc false) t0 = true ∧ keyAmax (accA true).key = false ∧
      (∀ e ∈ lvElems ((sAcc true).ctx t0) 0x5000 1 0 true 1, isSelf (sAcc true) (chainOf e.2) = true ∧
        e.2.toNat % 4 = 0 ∧
        canon (sAcc true) t0 e.2 = 0x5000 + 4 * e.1 ∧ poisonAt (sAcc true) (0x5000 + 4 * e.1) 4 = none ∧ memBusy (sAcc true) (0x5000 + 4 * e.1) = false)) := by
  refine ⟨⟨can_sL, on, owns_sL, can_sLfull, on, can_sLother, can_sLfree, head_sAlu, head_sCmp, head_sMask⟩, ?_⟩; decide

theorem trap_sL : CanTrap sL t0 := by constructor <;> decide
/-- Mask 2 has lane 2 alone, a NaN; no element is in the line of an older request; lanes lie apart. -/
def sNan : State := onCore thrL { coreL with lm := [(2, 4)] } cellsA
theorem can_sNan : CanIssue sNan t0 := by constructor <;> decide
theorem test_hyps_LongVectorQueue_more : CanTrap sL t0 ∧ CanIssue sNan t0 ∧ owns sNan t0 ∧
    (∀ r bank, FirstInLine (sAcc true) t0 bank (sAcc true).mem.presented r 4 ∧ FirstInLine (sAcc false) t0 bank (sAcc false).mem.presented r 4) ∧
    (let f := fld 9 1 0 0x03010000
     lvSub f = 1 ∧ lvOn (sNan.ctx t0) (lvMe f) (lvMk f) 2 = true ∧
     ∀ i, i < 512 → lvOn (sNan.ctx t0) (lvMe f) (lvMk f) i = true → (f32v (lvLane (sNan.ctx t0) 1 i)).isNan = true) ∧
    (∀ i j, i < j → 0x5000 + 4 * i + 4 ≤ 0x5000 + 4 * j) ∧
    (let f := fld 9 1 0 0x02810000
     lvSub f = 1 ∧ lvOn (sL.ctx t0) (lvMe f) (lvMk f) 0 = true ∧ (f32v (lvLane (sL.ctx t0) 1 0)).isNan = false) := by
  refine ⟨trap_sL, can_sNan, by show (sNan.ctx t0).owner = some 0; decide, fun _ _ => ⟨firstInLine_one rfl (fun p h => by cases h),
    firstInLine_one rfl (fun p h => by cases h)⟩, by decide, fun i j h => by omega, by decide⟩

/-- 1 + 1 in lane 0, a NaN in lane 2, π + 0 in lane 3; lane 1 is inactive and keeps its 0 (R141). -/
theorem test_lv_alu : after (.longVectorOpComplete (cidOf t0)) sAlu (fun u =>
    (List.range 4).map (lvLane (u.ctx t0) 3) == [0x40000000, 0, 0x7FC00000, 0x40490FDB]) = true := by decide

/-- Less or equal: 1 ≤ 1 is true, lane 1 is inactive, a NaN and π ≤ 0 are false; NOT of mask 1 (R142, R143). -/
theorem test_lv_cmp : after (.longVectorOpComplete (cidOf t0)) sCmp (fun u => (List.range 5).map (lmBit (u.ctx t0) 3) == [true, false, false, false, false]) = true ∧
    after (.longVectorOpComplete (cidOf t0)) sMask (fun u => (List.range 5).map (lmBit (u.ctx t0) 2) == [false, true, false, false, true]) = true := by
  decide

/-- An LVLD of FP32 takes lanes 0, 2 and 3; an LVST writes its active lanes only (R145, R146). -/
theorem test_lv_memory : after (.longVectorAccessComplete t0 []) (sAcc false) (fun u =>
      (List.range 4).map (lvLane (u.ctx t0) 3) == [0x3F800000, 0, 0, 0x40000000]) = true ∧
    after (.longVectorAccessComplete t0 []) (sAcc true) (fun u => memRead u 0x5000 16 ==
      leBytes 4 0x3F800000 ++ leBytes 4 0 ++ leBytes 4 0x7FC00000 ++ leBytes 4 0x40490FDB) = true := by decide

/-- Tile 0: 2 × 3 FP32; tile 1: 4 × 4 BF16 holding i at element i; accumulator 0 (tile 8): 2 × 3. -/
def tileZ (r c : Nat) (f : BitVec 4) : Tile := { rows := r, cols := c, fmt := f, loaded := false, data := [], exps := [] }
def tiles1 : SMap Tile :=
  [(0, tileZ 2 3 0), (1, { tileZ 4 4 1 with loaded := true, data := (List.range 16).map (BitVec.ofNat 32) }), (8, { tileZ 2 3 0 with loaded := true, data := [1, 2, 3] })]
def coreT : Core := { coreL with tiles := tiles1 }
/-- A configuration record at 0x2000 (entry 0: 4 × 4 FP32, entry 2: 512 × 64) and a descriptor of a 3 × 4 BF16 tensor at 0x4000. -/
def cellsT : List Host.Cell :=
  cell 0x2000 8 (4 + 4 * 2 ^ 16) ++ cell 0x2010 8 (512 + 64 * 2 ^ 16) ++ cell 0x2040 8 (4 + 4 * 2 ^ 16) ++ cell 0x3000 8 0x4000 ++ cell 0x3018 4 3 ++ cell 0x301C 4 4 ++ cell 0x3022 1 1 ++
    cell 0x4000 8 0x0008000700060005 ++ cell 0x4008 8 0x000C000B000A0009
def sT : State := onCore thrL coreT cellsT
def descT : TDesc := tdescOf 0x3000 ((List.range 64).map (fun k => byteAt sT (0x3000 + k)))
def opT (k : TileKind) (d : Nat) (ds : Option TDesc) : TileOp := { seq := 0, thread := 0, kind := k, d := d, desc := ds, r0 := 1, c0 := 1 }
def sTq : State := onCore thrL { coreT with tileQ := [opT .tzero 0 none] } cellsT
def sTfull : State := onCore thrL { coreT with tileQ := List.replicate 8 (opT .tzero 0 none) } cellsT
def sTld : State := onCore thrL { coreT with tileQ := [opT .tld 1 (some descT)] } cellsT
def sTst : State := onCore thrL { coreT with tileQ := [opT .tst 1 (some descT)] } cellsT
def bare : State := onCore thrL coreL cellsT
def sTrel : State := onCore { thrL with st := .waiting (.trel 0) } coreL cellsT
def waitCfg (g : Bool) : State :=
  { onCore { thrL with st := .waiting (.tcfg 7 [(0, 4, 4, 0), (8, 4, 4, 0)] g) } coreL cellsT with
    lathes := [(0, { latheA with tcfgQ := [(0, 0)], tileFree := 4000, accFree := 2000 })] }

/-- Tile 7 is larger than any that R195 allows. -/
def sBig : State := onCore thrL { coreT with tiles := [(7, tileZ 65535 32 0)] } cellsT
def sStall : State :=
  { onCore { thrL with st := .waiting (.tcfg 7 [(0, 4, 4, 0)] false) } coreL cellsT with lathes := [(0, { latheA with tcfgQ := [(0, 0)], tileFree := 0 })] }

theorem can_sT : CanIssue sT t0 := by constructor <;> decide
theorem can_sTq : CanIssue sTq t0 := by constructor <;> decide
theorem can_sTfull : CanIssue sTfull t0 := by constructor <;> decide
theorem can_bare : CanIssue bare t0 := by constructor <;> decide
theorem owns_sT : owns sT t0 := by show (sT.ctx t0).owner = some 0; decide
theorem trap_sT : CanTrap sT t0 := by constructor <;> decide
theorem read_cfg : Readable sT t0 ((found sT t0).rg 12) 128 ((List.range 128).map (fun k => byteAt sT (0x2000 + k))) := by
  constructor <;> first | decide | exact quiet_one rfl rfl
theorem read_desc : Readable sT t0 ((found sT t0).rg 13) 64 ((List.range 64).map (fun k => byteAt sT (0x3000 + k))) := by
  constructor <;> first | decide | exact quiet_one rfl rfl

/-- The record's entries that an immediate names. -/
def chosen (i : BitVec 32) : List Shape :=
  ((List.range 10).filter (fun e => i.getLsbD e)).map (cfgEntry ((List.range 128).map (fun k => byteAt sT (0x2000 + k))))

theorem test_hyps_TileConfigure : (CanIssue sT t0 ∧ guarded sT t0 (fld 0 12 0 1) ∧ owns sT t0 ∧ CanTrap sT t0 ∧
      Readable sT t0 ((found sT t0).rg 12) 128 ((List.range 128).map (fun k => byteAt sT (0x2000 + k)))) ∧
    (fieldsOk .z .g .z (fld 0 12 0 0x3FF) = true ∧ (0x3FF : BitVec 32).toNat < 2 ^ 10 ∧ (sT.thr t0).sbuf = []) ∧
    (cfgBad (chosen 1) = none ∧ chosen 1 = [(0, 4, 4, 0)] ∧ tooMuch (sT.ctx t0) (chosen 1) = false ∧ tilesBusy (sT.ctx t0) [0] = false ∧
      adds sT t0 false (chosen 1) ≤ 0 ∧ adds sT t0 true (chosen 1) ≤ 0) ∧
    (cfgBad (chosen 4) = none ∧ tooMuch (sBig.ctx t0) (chosen 4) = true) ∧
    (cfgBad (chosen 0x100) = none ∧ tooMuch (sTq.ctx t0) (chosen 0x100) = false ∧ tilesBusy (sTq.ctx t0) ((chosen 0x100).map (fun x => x.1)) = true) ∧
    cfgHead (waitCfg false) 0 = some (t0, 7, [(0, 4, 4, 0), (8, 4, 4, 0)]) ∧ cfgHead sStall 0 = some (t0, 7, [(0, 4, 4, 0)]) ∧
    (clockRuns (waitCfg false) t0 = true ∧
      adds (waitCfg false) t0 false [(0, 4, 4, 0), (8, 4, 4, 0)] ≤ ((waitCfg false).lathe 0).tileFree ∧
      adds (waitCfg false) t0 true [(0, 4, 4, 0), (8, 4, 4, 0)] ≤ ((waitCfg false).lathe 0).accFree) ∧
    (((waitCfg true).thr t0).st = .waiting (.tcfg 7 [(0, 4, 4, 0), (8, 4, 4, 0)] true) ∧ ((waitCfg true).thr t0).rep = none ∧
      ((waitCfg true).lathe 0).tcfgQ.contains (0, 0) = true) ∧
    (clockRuns sStall t0 = true ∧ (sStall.ctx t0).owner = some 0 ∧ (sStall.lathe 0).tcfgQ = [(0, 0)] ∧
      ((sStall.lathe 0).tileFree : Int) < adds sStall t0 false [(0, 4, 4, 0)] ∧ allArrived (sStall.thr t0) = true ∧
      (sStall.thr t0).tl = false ∧ (sStall.thr t0).rep = none) ∧
    (∀ c, c < 68 → c ≠ 0 → fileGranules (sStall.core 0 c) = 0 ∧ accGranules (sStall.core 0 c) = 0) := by
  refine ⟨⟨can_sT, on, owns_sT, trap_sT, read_cfg⟩, ?_, ?_, ?_, ?_, rfl, rfl, ?_, ?_, ?_, ?_⟩ <;> decide

theorem test_hyps_TileRelease : (CanIssue sT t0 ∧ guarded sT t0 (fld 0 0 0 1) ∧ owns sT t0 ∧ CanIssue sTq t0 ∧ CanIssue bare t0) ∧
    (fieldsOk .z .z .z (fld 0 0 0 0x3FF) = true ∧ tilesBusy (sTq.ctx t0) [8] = true ∧ tilesBusy (sT.ctx t0) [0] = false ∧
      ((sT.ctx t0).tile 1).conf = true ∧ hasQueued bare t0 = false ∧ (∀ k, k < 10 → ((bare.ctx t0).tile k).conf = false)) ∧
    ((sTrel.ctx t0).owner = some 0 ∧ (sTrel.thr t0).st = .waiting (.trel 0) ∧ (∀ k, k < 10 → ((sTrel.ctx t0).tile k).conf = false) ∧
      hasQueued sTrel t0 = false ∧ clockRuns sTrel t0 = true ∧ (sTrel.thr t0).rep = none) := by
  refine ⟨⟨can_sT, on, owns_sT, can_sTq, can_bare⟩, ?_⟩; decide

/-- TLD into tile 1 of the window at (1, 1); TZERO; TMMA of accumulator 0 by tiles 2 and 3, with K = 0, K = 2 and K too long. -/
def coreM : Core := { coreT with tiles := [(2, { tileZ 2 2 1 with loaded := true }), (3, { tileZ 2 3 1 with loaded := true }), (8, { tileZ 2 3 0 with loaded := true })] }
def sM : State := onCore thrL coreM cellsT
theorem can_sM : CanIssue sM t0 := by constructor <;> decide
theorem trap_sM : CanTrap sM t0 := by constructor <;> decide

theorem test_hyps_TileIssue : (CanIssue sT t0 ∧ guarded sT t0 (fld 1 13 16 0) ∧ owns sT t0 ∧ CanIssue sTfull t0 ∧ CanIssue sM t0 ∧ CanTrap sM t0 ∧
      Readable sT t0 ((found sT t0).rg 13) 64 ((List.range 64).map (fun k => byteAt sT (0x3000 + k)))) ∧
    (let o := moveOp (begun sT t0) t0 false (fld 1 13 16 0) descT
     let ps := spansOf .r descT (windowRuns descT o.r0 o.c0 4 4)
     moveLegal false (fld 1 13 16 0) = true ∧ moveLegal true (fld 1 13 16 0) = true ∧ (sT.ctx t0).tileQ.length < 8 ∧ (sT.thr t0).sbuf = [] ∧
       noneInFlight (found sT t0) = true ∧ descT.bad = false ∧ firstBad (moveChecks ((sT.ctx t0).tile 1) 1 descT o.c0 o.tr o.conv) = none ∧
       checkSpans (begun sT t0) t0 ps = .ok ∧ spansBusy (begun sT t0) t0 (ps.map Span.run) = false ∧
       mayMerge sT .ns descT.tensor = true) ∧
    (((sT.ctx t0).tile 8).conf = true ∧ 8 ≤ (sTfull.ctx t0).tileQ.length) ∧
    (firstBad (mmaChecks (sM.ctx t0) false 0 2 3 0) = none ∧ firstBad (mmaChecks (sM.ctx t0) false 0 2 3 2) = none ∧
      ((found sM t0).rg 18).toNat = 2 ∧ ((found sM t0).rg 0).toNat = 0) ∧
    ((firstBad (mmaChecks (sM.ctx t0) false 0 2 3 4)).isSome = true ∧ (firstBad (mmaChecks (sM.ctx t0) false 1 2 3 2)).isSome = true) := by
  refine ⟨⟨can_sT, on, owns_sT, can_sTfull, can_sM, trap_sM, read_desc⟩, ?_⟩; decide

theorem head_sTq : TileHead sTq t0 (opT .tzero 0 none) [] := by constructor <;> decide
theorem head_sTld : TileHead sTld t0 (opT .tld 1 (some descT)) [] := by constructor <;> decide
theorem head_sTst : TileHead sTst t0 (opT .tst 1 (some descT)) [] := by constructor <;> decide

theorem test_hyps_TileOpComplete : (TileHead sTq t0 (opT .tzero 0 none) [] ∧ TileHead sTld t0 (opT .tld 1 (some descT)) [] ∧
      TileHead sTst t0 (opT .tst 1 (some descT)) []) ∧
    (fmtBits descT.c = 8 * 2 ∧ fmtBlock descT.c = false ∧ ((sTld.ctx t0).tile 1).fmt = descT.fmt ∧ 2 * descT.rows * descT.cols = 24) ∧
    (∀ s, s = sTld ∨ s = sTst → (∀ k, isSelf s (chainOf (dataAt descT k)) = true ∧ canon s t0 (dataAt descT k) = 0x4000 + k ∧
      localOf (dataAt descT k) = localOf descT.data + k ∨ 24 ≤ k) ∧ Quiet s t0 0x4000 24 ∧ (∀ a n, poisonAt s a n = none)) ∧
    (localOf descT.data + 24 ≤ 2 ^ 48 ∧
      ∀ c, c < 24 → 0x4000 + c < scaleAt sTst descT.tensor ∨ scaleAt sTst descT.tensor + 128 ≤ 0x4000 + c) := by
  have a : ∀ k, k < 24 → isSelf sTld (chainOf (dataAt descT k)) = true ∧ canon sTld t0 (dataAt descT k) = 0x4000 + k ∧
      localOf (dataAt descT k) = localOf descT.data + k := by decide
  have b : ∀ k, k < 24 → isSelf sTst (chainOf (dataAt descT k)) = true ∧ canon sTst t0 (dataAt descT k) = 0x4000 + k ∧
      localOf (dataAt descT k) = localOf descT.data + k := by decide
  refine ⟨⟨head_sTq, head_sTld, head_sTst⟩, by decide, ?_, by decide⟩
  rintro s (rfl | rfl)
  · exact ⟨fun k => (Nat.lt_or_ge k 24).imp (a k) id, quiet_one rfl rfl, fun _ _ => rfl⟩
  · exact ⟨fun k => (Nat.lt_or_ge k 24).imp (b k) id, quiet_one rfl rfl, fun _ _ => rfl⟩

/-- TZERO; TLD at (1, 1) of the 3 × 4 tensor: rows 1 and 2, columns 1 to 3, +0.0 beyond (R213); TST of tile 1 there: its element
(0, 0) = 0 at (1, 1) and (1, 2) = 6 at (2, 3), and 5 stays at (0, 0) (R214). -/
theorem test_tile_ops : after (.tileOpComplete (cidOf t0) none) sTq (fun u => (List.range 6).map (tileVal u t0 8) == [0, 0, 0, 0, 0, 0]) = true ∧
    after (.tileOpComplete (cidOf t0) none) sTld (fun u => (List.range 8).map ((u.ctx t0).tile 1).code == [0x0A, 0x0B, 0x0C, 0, 0, 0, 0, 0]) = true ∧
    after (.tileOpComplete (cidOf t0) none) sTst (fun u => memRead u 0x4000 2 == [5, 0] && memRead u 0x400A 2 == [0, 0] &&
      memRead u 0x4016 2 == [6, 0]) = true := by decide

/-- A record with a reserved format, one whose shape fails; a TCFG that must wait for storage; one that may apply what it holds or
enter the FIFO. -/
def recBad (v : Nat) : List Byte := putAt (List.replicate 128 0) 0 (leBytes 8 v)
def entry0 (v : Nat) : List Shape := [cfgEntry (recBad v) 0]
def sWait (x : SMap Tile) (q : List (Nat × Nat)) : State :=
  { onCore { thrL with st := .waiting (.tcfg 7 [(0, 4, 4, 0)] false) } { coreL with tiles := x } cellsT with
    lathes := [(0, { latheA with tcfgQ := q, tileFree := 4000, accFree := 2000 })] }
theorem test_hyps_TileConfigure_more : (∃ c, cfgBad (entry0 (4 + 4 * 2 ^ 16 + 14 * 2 ^ 32)) = some (.inl c)) ∧
    (∃ q, cfgBad (entry0 (5 + 700 * 2 ^ 16)) = some (.inr q)) ∧
    (cfgBad (chosen 4) = none ∧ tooMuch (sT.ctx t0) (chosen 4) = false ∧ tilesBusy (sT.ctx t0) [2] = false ∧ chosen 4 = [(2, 512, 64, 0)] ∧
      0 < adds sT t0 false (chosen 4)) ∧
    (clockRuns (sWait [(0, tileZ 4 4 0)] []) t0 = true ∧ ((sWait [(0, tileZ 4 4 0)] []).lathe 0).tcfgQ.contains (0, 0) = false ∧
      tilesBusy ((sWait [(0, tileZ 4 4 0)] []).ctx t0) [0] = false ∧ adds (sWait [(0, tileZ 4 4 0)] []) t0 false [(0, 4, 4, 0)] ≤ 0 ∧
      adds (sWait [(0, tileZ 4 4 0)] []) t0 true [(0, 4, 4, 0)] ≤ 0) ∧
    (((sWait [] []).thr t0).st = .waiting (.tcfg 7 [(0, 4, 4, 0)] false) ∧ ((sWait [] []).lathe 0).tcfgQ = [] ∧
      tilesBusy ((sWait [] []).ctx t0) [0] = false ∧ 0 < adds (sWait [] []) t0 false [(0, 4, 4, 0)] ∧
      adds (sWait [] []) t0 false [(0, 4, 4, 0)] ≤ ((sWait [] []).lathe 0).tileFree ∧
      adds (sWait [] []) t0 true [(0, 4, 4, 0)] ≤ ((sWait [] []).lathe 0).accFree) := by
  refine ⟨?_, ?_, ?_, ?_, ?_⟩
  · exact ⟨14, by decide⟩
  · exact ⟨_, rfl⟩
  all_goals decide

/-- A TREL of the last tiles behind a queued operation. -/
def sLast : State := onCore thrL { coreL with finQ := [finA .alu 0] } cellsT
theorem can_sLast : CanIssue sLast t0 := by constructor <;> decide
theorem test_hyps_TileRelease_last : CanIssue sLast t0 ∧ owns sLast t0 ∧ hasQueued sLast t0 = true ∧
    tilesBusy (sLast.ctx t0) [0] = false ∧ (∀ k, k < 10 → ((sLast.ctx t0).tile k).conf = false) := by
  refine ⟨can_sLast, by show (sLast.ctx t0).owner = some 0; decide, ?_⟩; decide

/-- A bad descriptor; an accumulator that is not configured; one of the checks of a TLD fails. -/
def descBad : TDesc := { descT with fmt := 14 }
theorem test_hyps_TileIssue_bad : descBad.bad = true ∧ ((bare.ctx t0).tile 8).conf = false ∧ CanIssue bare t0 ∧
    (firstBad (moveChecks ((bare.ctx t0).tile 1) 1 descT 0 false false)).isSome = true := by
  refine ⟨?_, ?_, can_bare, ?_⟩ <;> decide

/-! ## Arrays and finishing -/

/-- INT8 tiles: 2 is [1 -2; 3 -128], 3 is [5 1; -1 127]; accumulator 0 holds 2 × 2 of 1.0; BF16 tiles 4 and 5 of 1.0 and 2.0. -/
def tiles8 : SMap Tile :=
  [(0, tileZ 2 2 0), (2, { tileZ 2 2 5 with loaded := true, data := [1, 0xFE, 3, 0x80] }), (3, { tileZ 2 2 5 with loaded := true, data := [5, 1, 0xFF, 0x7F] }),
   (4, { tileZ 2 2 1 with loaded := true, data := [0x3F80, 0x3F80, 0x3F80, 0x3F80] }), (5, { tileZ 2 2 1 with loaded := true, data := [0x4000, 0x4000, 0x4000, 0x4000] }),
   (8, { tileZ 2 2 0 with loaded := true, data := [0x3F800000, 0x3F800000, 0x3F800000, 0x3F800000] })]
def mmaOp (a w : Nat) : TileOp := { seq := 0, thread := 0, kind := .tmma, d := 0, s1 := a, s2 := w, k := 2 }
def onArray (o : TileOp) (a : ArrayUnit) : State :=
  { onCore thrL { coreL with tiles := tiles8, tileQ := [o] } cellsT with lathes := [(0, { latheA with arr := a })] }
def passA (exact inTol : Bool) : Pass :=
  { core := 0, acc := 0, held := tileZ 2 2 0, result := { tileZ 2 2 0 with loaded := true, data := [7] }, exact := exact, inTol := inTol, k := 2 }
def opP : TileOp := { mmaOp 2 3 with granted := true }
/-- Its pass is in band 0; `rows` and `cols` are removed. -/
def inArr (exact inTol : Bool) (c : Option Catch) (rows cols : List Nat) : State :=
  onArray opP { running := true, passes := [(0, passA exact inTol)], caught := c, removedRows := rows, removedCols := cols }
def inPass (exact inTol : Bool) (c : Option Catch) : State := inArr exact inTol c [7] []
def sIdle : State := { onCore thrL coreL cellsT with lathes := [(0, { latheA with arr := { running := true } })], host := { linkUp := true } }
def sShape : State :=
  { onCore thrL coreL cellsT with lathes := [(0, { latheA with arr := { shapeQ := [true] } })], ctl := [(rArrShape 0, 3)] }

theorem in_arr (e i : Bool) (c : Option Catch) (rows cols : List Nat) : InArray (inArr e i c rows cols) 0 0 (passA e i) opP := by
  constructor
  · show arrayRuns (inPass true true none) 0 = true; decide
  · rfl
  · rfl
theorem caught_at (e i : Bool) (st : CatchStage) (m : Option (Nat × Nat)) (rows cols : List Nat) :
    caughtAt (inArr e i (some ⟨0, st, m⟩) rows cols) 0 0 st m := ⟨rfl, rfl⟩

theorem test_hyps_ArrayPass : (∀ e i c rows cols, InArray (inArr e i c rows cols) 0 0 (passA e i) opP ∧ (arr (inArr e i c rows cols) 0).catchQ = []) ∧
    (∀ st m, caughtAt (inPass true true (some ⟨0, st, m⟩)) 0 0 st m) ∧
    (fails (passA true true) false = false ∧ fails (passA true true) true = true ∧ fails (passA false false) false = true) ∧
    (arrayRuns (onArray (mmaOp 2 3) {}) 0 = true ∧ mayGrant (arr (onArray (mmaOp 2 3) {}) 0) 0 = true ∧
      ((onArray (mmaOp 2 3) {}).core 0 0).tileQ = mmaOp 2 3 :: [] ∧ behindFin ((onArray (mmaOp 2 3) {}).core 0 0) (mmaOp 2 3) = false ∧
      (mmaOp 2 3).gen = (arr (onArray (mmaOp 2 3) {}) 0).gen ∧ 0 < (mmaOp 2 3).k) ∧
    (∀ c, c ≠ 0 → readyMma ((onArray (mmaOp 2 3) {}).core 0 c) (arr (onArray (mmaOp 2 3) {}) 0) 0 = none) ∧
    ((arr sIdle 0).running = true ∧ (arr sIdle 0).passes = [] ∧ (arr sIdle 0).caught = none) ∧
    (reachesReg sIdle .host (rArrShape 0) 8 ∧ ctlGet sIdle (rArrShape 0) = 0 ∧ (sIdle.lathe 0).power = 0) ∧
    ((arr sShape 0).shapeQ = [true] ∧ (arr sShape 0).running = false ∧ arrayRuns sShape 0 = true ∧ ∀ c, (sShape.core 0 c).tileQ = []) := by
  refine ⟨fun _ _ _ _ _ => ⟨in_arr .., rfl⟩, fun _ _ => caught_at .., ?_, ?_, ?_, ?_, ?_, rfl, rfl, ?_, ?_⟩
  · decide
  · decide
  · intro c h
    cases c
    · exact absurd rfl h
    · rfl
  · decide
  · unfold reachesReg; decide
  · decide
  · intro c; cases c <;> rfl

/-- Marks of every class, in a pass that uses rows and columns 0 and 1; two rows removed, and a column. -/
theorem test_hyps_ArrayPass_localise : (∀ q ∈ (arr (inPass true true none) 0).passes, q.1 = 0) ∧
    (let u := arr (inPass true true none) 0
     let found_ (ms : List (Nat × Nat)) : Located := classify (markable u 1 2 2 0 ms)
     found_ [] = .none_ ∧ found_ [(0, 0)] = .cell 0 0 ∧ found_ [(0, 0), (0, 1)] = .row 0 ∧ found_ [(0, 0), (1, 0)] = .col 0 ∧
       found_ [(0, 0), (1, 1)] = .uncoverable ∧ u.removedRows.length < 2 ∧ u.removedCols = []) ∧
    (¬(arr (inArr true true none [7, 8] []) 0).removedRows.length < 2 ∧ (arr (inArr true true none [7, 8] []) 0).removedCols = [] ∧
      (arr (inArr true true none [7, 8] [9]) 0).removedCols ≠ []) := by decide

/-- An open handling of the array's catch. -/
def handC : Handling :=
  { seq := 5, time := 9, ev := ⟨cCatchRetry, 2, 0, 0, none, 0, false⟩, cls := 0, nested := false, escalated := false, supFailover := false
    count := 0, task := 0, epoch := 0, joined := [], step := 0, spare := none, begun := 0, lost := none, recs := [], catching := true }
def sCatching (st : CatchStage) : State := { inPass true true (some ⟨0, st, none⟩) with flt := { queue := [handC] } }
theorem test_hyps_ArrayPass_handling (st : CatchStage) : (sCatching st).flt.cur = none ∧ (sCatching st).flt.queue = [handC] ∧
    handC.catching = true ∧ handC.unit = (0, 0) ∧ caughtAt (sCatching st) 0 0 st none := ⟨rfl, rfl, rfl, by decide, rfl, rfl⟩

/-- 1·5 + (-2)(-1) = 7, and 1·1 + (-2)·127 = -253; 3·5 + (-128)(-1) = 143, 3·1 - 128·127 = -16253; each added to 1.0 once (R242).
BF16: 1·2 + 1·2 = 4, plus 1.0 is 5.0. -/
theorem test_pass : after (.passGrant 0 0) (onArray (mmaOp 2 3) {}) (fun u => (mget? (arr u 0).passes 0).map (fun p => (List.range 4).map p.result.elem) ==
      some [0x41000000, 0xC37C0000, 0x43100000, 0xC67DF000]) = true ∧
    after (.passGrant 0 0) (onArray (mmaOp 4 5) {}) (fun u => (mget? (arr u 0).passes 0).map (fun p => (List.range 4).map p.result.elem) ==
      some [0x40A00000, 0x40A00000, 0x40A00000, 0x40A00000]) = true := by decide

/-- A pass whose checks hold commits; one caught is retried; a self-test that fails retires the lathe (R260 to R265). -/
theorem test_catch : after (.passCheck 0 0 false) (inPass true true none) (fun u => ((u.core 0 0).tile 8).elem 0 == 7 && (u.core 0 0).tileQ.isEmpty) = true ∧
    after (.passCheck 0 0 true) (inPass true true none) (fun u => (arr u 0).caught == some ⟨0, .retry, none⟩) = true ∧
    after (.selfTestTile 0 false) (inPass true true (some ⟨0, .selfTest, none⟩)) (fun u =>
      u.flt.queue.map (fun h => (h.ev.cause, h.ev.kind, h.ev.index)) == [(cCatchRetire, 0, 0)]) = true := by decide

/-- A table over [-2, 2): scale 64, tails 1 + x/2 below and 1.0 above, and zero coefficients. -/
def tableCells (a : Nat) : List Host.Cell :=
  cell (a + 8) 4 0xC0000000 ++ cell (a + 0xC) 4 0x40000000 ++ cell (a + 0x10) 4 0x42800000 ++ cell (a + 0x14) 4 0x3F800000 ++ cell (a + 0x18) 4 0x3F000000 ++
    cell (a + 0x1C) 4 0x3F800000
def cellsF : List Host.Cell := cell 0x1820 4 0x40200000 ++ cell 0x1828 1 0x13 ++ cell 0x1829 1 1 ++ tableCells 0x8000 ++ tableCells 0x8C40
def thrT : Thread := { thrL with g := [(10, 0x8000), (11, 0xA000), (12, 0x1800)] }
def sFt : State := onCore thrT { coreL with tiles := tiles8 } cellsF
def sFtU : State := onCore { thrT with level := .u, win := thrU.win } { coreL with tiles := tiles8 } cellsF
def sFtl (a : Word) : State := onCore { thrT with st := .waiting (.ftab 3 a) } coreL cellsF
def tabA : FTable :=
  { lo := 0xC0000000, hi := 0x40000000, scale := 0x42800000, la := 0x3F800000, lb := 0x3F000000, ra := 0x3F800000, rb := 0, coef := List.replicate 256 (0, 0x3F800000, 0) }
def fnOp (k : FinKind) (slot : Nat) : FinOp := { finA k 0 with slot := slot }
def sFn (k : FinKind) (slot : Nat) : State :=
  { onCore thrT { coreL with finQ := [fnOp k slot] } cellsF with lathes := [(0, { latheA with slots := [(3, ⟨0, tabA, tabA⟩)] })] }
def drainA : Drain :=
  { rec_ := 0, out := none, save := none, bias := 0, cscale := 0, alpha := 0x40000000, fnEn := false, outTile := some 0, outTr := true, outMerge := none
    saveEn := false, saveTile := none, saveTr := false, saveMerge := none, z := true, outBase := 0, saveBase := 0 }
def drOp : FinOp := { finA .tdrain 0 with d := 0, me := false, drain := some drainA }
def sDr : State := onCore thrT { coreL with tiles := tiles8, finQ := [drOp] } cellsF
def endA : DrainEnd := { out := none, save := none, step := 3 }
def sEnd : State := onCore thrT { coreL with drainEnd := some endA } cellsF

theorem can_sFt : CanIssue sFt t0 := by constructor <;> decide
theorem can_sFtU : CanIssue sFtU t0 := by constructor <;> decide
theorem trap_sFtU : CanTrap sFtU t0 := by constructor <;> decide
theorem owns_sFt : owns sFt t0 := by show (sFt.ctx t0).owner = some 0; decide
theorem head_fn (k : FinKind) (n : Nat) (h : k = .fapply ∨ k = .fderiv) : FinHead (sFn k n) t0 (fnOp k n) [] := by
  rcases h with rfl | rfl <;> constructor <;> rfl
theorem head_dr : FinHead sDr t0 drOp [] := by constructor <;> decide
theorem read_drain : Readable sFt t0 ((found sFt t0).rg 12) 64 ((List.range 64).map (fun k => byteAt sFt (0x1800 + k))) := by
  constructor <;> first | decide | exact quiet_one rfl rfl

theorem test_hyps_FunctionUnit : (CanIssue sFt t0 ∧ guarded sFt t0 (fld 0 10 0 11) ∧ CanIssue sFtU t0 ∧ CanTrap sFtU t0 ∧ owns sFt t0 ∧
      FinHead (sFn .fapply 3) t0 (fnOp .fapply 3) [] ∧ FinHead (sFn .fderiv 9) t0 (fnOp .fderiv 9) []) ∧
    (fieldsOk .z .g .z (fld 0 10 0 11) = true ∧ (sFtU.thr t0).level = .u ∧ ((found sFt t0).rg 10).toNat % 64 = 0 ∧
      checkRun (begun sFt t0) t0 .r ((found sFt t0).rg 10) 6272 = .ok ∧ (sFt.thr t0).sbuf = []) ∧
    (((sFtl 0x8000).thr t0).st = .waiting (.ftab 3 0x8000) ∧ slotFree (sFtl 0x8000) t0 3 = true ∧ clockRuns (sFtl 0x8000) t0 = true ∧
      isSelf (sFtl 0x8000) (chainOf 0x8000) = true ∧ localOf 0x8000 + 6272 ≤ 2 ^ 48 ∧
      poisonAt (sFtl 0x8000) (canon (sFtl 0x8000) t0 0x8000) 6272 = none) ∧
    (lvReg (fld 3 1 2 0x183).d = true ∧ (fld 3 1 0 0x183).imm.getLsbD 4 = false ∧ (fld 3 1 0 0x183).imm >>> 5 &&& 3#32 = 0) ∧
    (tabA.valid = true ∧ (fp32.decode 0x3F800000).lt (fp32.decode tabA.lo.toNat) = false ∧
      (fp32.decode 0x3F800000).lt (fp32.decode tabA.hi.toNat) = true ∧ (fp32.decode 0xC0400000).lt (fp32.decode tabA.lo.toNat) = true ∧
      (fp32.decode 0x40000000).lt (fp32.decode tabA.hi.toNat) = false) ∧
    (mget? (sFt.lathe 0).slots 9 = none ∧ hasQueued sFt t0 = false ∧ lvReg (fld 9 1 0 0).s1 = true) := by
  refine ⟨⟨can_sFt, on, can_sFtU, trap_sFtU, owns_sFt, head_fn _ _ (.inl rfl), head_fn _ _ (.inr rfl)⟩, ?_, ?_, ?_, ?_, ?_⟩ <;> decide

/-- The record at 0x1800 names output tile 0, not transposed. -/
theorem test_hyps_Drain : (CanIssue sFt t0 ∧ guarded sFt t0 (fld 0 12 0 4) ∧ owns sFt t0 ∧ FinHead sDr t0 drOp [] ∧
      Readable sFt t0 ((found sFt t0).rg 12) 64 ((List.range 64).map (fun k => byteAt sFt (0x1800 + k)))) ∧
    (let r := drainRecOf ((List.range 64).map (fun k => byteAt sFt (0x1800 + k)))
     noneInFlight (found sFt t0) = true ∧ r.outTile.isSome = true ∧ r.saveEn = false ∧ r.outMerge = false ∧ r.bias = 0 ∧ r.cscale = 0 ∧
       firstBad (drainChecks (sFt.ctx t0) 0 r 0 none none) = none) ∧
    (drOp.kind = .tdrain ∧ drainA.outTile = some 0 ∧ ((sDr.ctx t0).tile 0).fmt = 0) ∧
    ((sEnd.ctx t0).drainEnd = some endA ∧ endA.out = none ∧ endA.save = none) := by
  refine ⟨⟨can_sFt, on, owns_sFt, head_dr, read_drain⟩, ?_, ?_, ?_⟩ <;> decide

/-- f = t in each segment: at 1.0, u = 192 and t = 0; at -3 the tail gives 1 - 1.5; an empty slot is the identity (R282, R284). -/
theorem test_table : tabA.eval 0x3F800000 = 0 ∧ tabA.eval 0xC0400000 = 0xBF000000 ∧ tabA.eval 0x40000000 = 0x3F800000 ∧
    tabA.eval 0x7FC00001 = 0x7FC00000 ∧
    after (.longVectorOpComplete (cidOf t0)) (sFn .fapply 9) (fun u => lvLane (u.ctx t0) 3 3 == 0x40490FDB) = true ∧
    after (.longVectorOpComplete (cidOf t0)) (sFn .fderiv 9) (fun u => lvLane (u.ctx t0) 3 0 == 0x3F800000) = true := by decide

/-- alpha = 2.0: every 1.0 drains as 2.0, and z empties the accumulator (R272, R275). -/
theorem test_tdrain : after (.longVectorOpComplete (cidOf t0)) sDr (fun u => (List.range 4).map ((u.ctx t0).tile 0).elem == [0x40000000, 0x40000000, 0x40000000, 0x40000000] &&
    ((u.ctx t0).tile 8).elem 0 == 0) = true := by decide

/-- The largest magnitude of v1, π, the NaN aside (R289). -/
theorem test_tamax : after (.tamax t0 (fld 9 1 0 0)) sFt (fun u => (u.thr t0).result == some (9, 0x40490FDB)) = true := by decide


theorem trap_sFt : CanTrap sFt t0 := by constructor <;> decide
theorem quiet_ftab : Quiet (sFtl 0x8000) t0 (canon (sFtl 0x8000) t0 0x8000) 6272 := quiet_one rfl rfl
/-- FAPPLY of tile 2 into tile 0, which fits, and of tile 7, which is not configured; TAMAX of each; an operation over a tile. -/
theorem test_hyps_FunctionUnit_tile : CanTrap sFt t0 ∧ Quiet (sFtl 0x8000) t0 (canon (sFtl 0x8000) t0 0x8000) 6272 ∧
    ((fld 0 2 0 0x13).imm.getLsbD 4 = true ∧ kindReg true (fld 0 2 0 0x13).d = true ∧ kindOk (fld 0 2 0 0x13) = true ∧
      firstBad (fnChecks (sFt.ctx t0) 0 2 0 false) = none ∧ (firstBad (fnChecks (sFt.ctx t0) 0 7 0 false)).isSome = true) ∧
    (amaxLegal (fld 9 2 0 1) = true ∧ ((sFt.ctx t0).tile 2).conf = true ∧ ((sFt.ctx t0).tile 7).conf = false ∧
      amaxLegal (fld 9 1 10 2) = true ∧ mayMerge sFt .ns (((found sFt t0).rg 10).setWidth 16) = true) ∧
    (fnOp .fapply 3).tile = false ∧ ({ fnOp .fapply 3 with tile := true } : FinOp).tile = true := by
  refine ⟨trap_sFt, quiet_ftab, ?_, ?_, ?_, ?_⟩ <;> decide

/-- A record that names an output in memory, with a bias and a save; one whose tile does not fit; a drain with a bias vector. -/
def recDr : List Byte := (List.range 64).map (fun k => byteAt sFt (0x1800 + k))
theorem test_hyps_Drain_more : CanTrap sFt t0 ∧
    (firstBad (drainChecks (sFt.ctx t0) 1 (drainRecOf recDr) 0 none none)).isSome = true ∧
    (let d : Drain := { drainA with bias := 0x8000, cscale := 0x8000 }
     let acc := (sDr.ctx t0).tile 8
     d.bias ≠ 0 ∧ isSelf sDr (chainOf d.bias) = true ∧ localOf d.bias + 4 * acc.cols ≤ 2 ^ 48 ∧
       poisonAt sDr (canon sDr t0 d.bias) (4 * acc.cols) = none) ∧
    Quiet sDr t0 (canon sDr t0 0x8000) (4 * ((sDr.ctx t0).tile 8).cols) := by
  refine ⟨trap_sFt, ?_, ?_, quiet_one rfl rfl⟩ <;> decide

/-! ## Tasks and mailboxes -/

/-- A task descriptor at 0x3000: entry 0x2000, arguments 77 and 99, need 2, affinity all, step 12. -/
def desc (st count early flags status : Nat) (entry : Nat := 0x2000) (need : Nat := 2) : List Host.Cell :=
  cell 0x3000 8 entry ++ cell 0x3008 8 0x4000 ++ cell 0x3010 8 77 ++ cell 0x3018 8 99 ++ cell 0x302A 2 need ++ cell 0x302C 2 count ++ cell 0x302E 2 early ++
    cell 0x3040 4 12 ++ cell 0x3045 1 flags ++ cell 0x3049 1 st ++ cell 0x304A 1 status ++ cell 0x3058 4 0xFFFFFFFF
def snapA : Snapshot := { desc := 0x3000, entry := 0x2000, win := [], arg0 := 5, arg1 := 6, affinity := 0, step := 3, seed := 9, flags := 0x10, seq := none, firedAt := 100 }
def queuedA : Queued := ⟨snapA, false, 0, 0⟩
def queuedB : Queued := ⟨{ snapA with seq := some (7, 8, 9), flags := 2 }, false, 1, 0⟩
def runA : TaskRun := { snap := snapA }
def thrD : Thread := { thrA with g := [(1, 0x3000), (3, 0x1122334455667788), (23, 0x77), (31, 0x88)] }
def withDesc (d : List Host.Cell) (x : Thread) : State := { only x with mem := { cells := d } }
def sTok : State := withDesc (desc 1 2 0 0 0) { thrD with task := some runA }
def sOne : State := withDesc (desc 1 1 0 0 0) thrD
def sQueue : State :=
  { withDesc (desc 2 0 0 0 0) { thrD with st := .idle } with lathes := [(0, { latheA with queue := [(1, [queuedA])] })] }
def sOver : State := { withDesc (desc 2 0 0 0 0) thrD with overflow := [queuedA, queuedB] }
def sDone (d : List Host.Cell) : State := withDesc d { thrD with st := .waiting .completing, task := some runA }

theorem can_sTok : CanIssue sTok t0 := by constructor <;> decide

/-- Count 2 and count 1, states 0 to 5, an early count of 65534, need 0; 0x3001 is no descriptor's address. -/
theorem test_hyps_Tokens : (CanIssue sTok t0 ∧ guarded sTok t0 (fld 0 1 0 1)) ∧ sTok.fer.handoffs = [] ∧
    tokenCheck sTok ⟨.ns, none⟩ 0x3004 = .trap xAlign 0x3004 ∧ tokenCheck sTok ⟨.ns, none⟩ 0x3000 = .ok ∧
    (dGet sTok 0x3000 dState 1 = 1 ∧ dGet sTok 0x3000 dCount 2 ≠ 1 ∧ dGet sOne 0x3000 dCount 2 = 1 ∧ fireChecks sOne 0x3000 = true) ∧
    eligible sOne (flagWorld sOne 0x3000) (BitVec.ofNat 128 (dGet sOne 0x3000 dAffinity 16)) 0 = true ∧
    fireChecks (withDesc (desc 1 1 0 0 0 0x2004) thrD) 0x3000 = false ∧
    dGet (withDesc (desc 3 0 65534 0 0) thrD) 0x3000 dEarly 2 < 65535 ∧ dGet (withDesc (desc 0 0 0 0 0) thrD) 0x3000 dState 1 = 0 ∧
    descWorld sTok 0x3000 = .ns ∧ dGet (withDesc (desc 4 0 0 0 0 0x2000 0) thrD) 0x3000 dNeed 2 = 0 ∧
    (fieldsOk .z .g .z (fld 0 1 0 1) = true ∧ ((found sTok t0).rg 1).toNat % 128 = 0 ∧ windowOk (sTok.thr t0) .rw (0x3000 + 0x2C) 4 = true ∧
      tokenCheck (begun sTok t0) (reqOf sTok t0) 0x3000 = .ok ∧ hasQueued sTok t0 = false ∧ storesDone (found sTok t0) = true ∧
      (sTok.thr t0).task = some runA ∧ runA.staged.length < 64) ∧
    regGate sTok (agentWorld sTok (.thread t0)) rTaskdb 8 = none ∧ (sOver.overflow = queuedA :: [queuedB] ∧ queuedA.replay = false) ∧
    chooseLathe sOver queuedA.snap = some 0 := by
  refine ⟨⟨can_sTok, on⟩, ?_, ?_, ?_, ?_, ?_, ?_, ?_, ?_, ?_, ?_, ?_, ?_, ?_, ?_⟩ <;> decide

theorem test_hyps_Tasks : (CanIssue sTok t0 ∧ guarded sTok t0 (fld 0 0 0 0)) ∧
    (queueHead (sQueue.lathe 0) = some (1, queuedA, []) ∧ canStart sQueue 0 = true ∧ firstIdle sQueue 0 0 0 queuedA = true) ∧
    (fieldsOk .z .z .z (fld 0 0 0 0) = true ∧ hasQueued sTok t0 = false ∧ storesDone (found sTok t0) = true) ∧
    (((sDone (desc 3 0 0 0 0)).thr t0).st = .waiting .completing ∧ ((sDone (desc 3 0 0 0 0)).thr t0).task = some runA ∧
      hasQueued (sDone (desc 3 0 0 0 0)) t0 = false ∧ storesDone ((sDone (desc 3 0 0 0 0)).thr t0) = true ∧ (sDone (desc 3 0 0 0 0)).fer.handoffs = [] ∧ runA.staged = [] ∧ dGet (sDone (desc 3 0 0 0 0)) 0x3000 dOuts 8 = 0 ∧
      dGet (sDone (desc 3 0 0 0 0)) 0x3000 dFlags 1 / 4 % 2 = 0) ∧
    (dGet (sDone (desc 3 0 1 12 0)) 0x3000 dFlags 1 / 4 % 2 = 1 ∧ dGet (sDone (desc 3 0 1 12 0)) 0x3000 dEarly 2 < 2) ∧
    dGet (sDone (desc 3 0 0 0 1)) 0x3000 dStatus 1 = 1 := by
  refine ⟨⟨can_sTok, on⟩, ?_, ?_, ?_, ?_, ?_⟩ <;> decide

/-- The second token fires; the descriptor is QUEUED and its snapshot stands in lathe 0's queue of priority 0 (R338, R340). -/
theorem test_tokens : after (.signalToken .ns 0x3000) sTok (fun u => dGet u 0x3000 dCount 2 == 1 && dGet u 0x3000 dState 1 == 1) = true ∧
    after (.signalToken .ns 0x3000) sOne (fun u => dGet u 0x3000 dState 1 == 2 &&
      (mget (u.lathe 0).queue 0 []).map (fun q => (q.snap.desc, q.snap.entry, q.snap.arg0)) == [(0x3000, 0x2000, 77)]) = true ∧
    after (.armToken .ns 0x3000) (withDesc (desc 5 0 7 0 3) thrD) (fun u => dGet u 0x3000 dState 1 == 1 && dGet u 0x3000 dCount 2 == 2 &&
      dGet u 0x3000 dEarly 2 == 0 && dGet u 0x3000 dStatus 1 == 0) = true := by decide

/-- A started task finds its arguments in g1 and g2 and zeros elsewhere (R341). -/
theorem test_task_start : after (.taskStart t0) sQueue (fun u => (u.thr t0).pc == 0x2000 && (u.thr t0).rg 1 == 5 && (u.thr t0).rg 2 == 6 &&
    (u.thr t0).rg 23 == 0 && (u.thr t0).level == .u && dGet u 0x3000 dState 1 == 3) = true := by decide

/-- DONE: elapsed 1000 - 100 ns and one completion more, from 2^32 - 1 to 0 (R344); with rearm and one early token, WAITING for one. -/
theorem test_task_end : after (.taskCompletion t0) (sDone (desc 3 0 0 0 0)) (fun u => dGet u 0x3000 dState 1 == 4 &&
      dGet u 0x3000 dElapsed 8 == 900 && dGet u 0x3000 dCompletions 4 == 0 && (u.thr t0).st == .idle) = true ∧
    after (.taskCompletion t0) (sDone (desc 3 0 1 12 0)) (fun u => dGet u 0x3000 dState 1 == 1 && dGet u 0x3000 dCount 2 == 1 &&
      dGet u 0x3000 dStep 4 == 13) = true := by decide

def msgA : List (BitVec 32) := [0x10000002, 5, 6]
/-- Mailbox 0 with `y` at both ends; its register is on for every agent. -/
def withBox (y : MbxEnd) (owner : BitVec 16) (x : Thread := thrD) : State :=
  { only x with mbx := [(0, { e0 := y, e1 := y, owner := owner })], ctl := [(rMbx 0, 0x180000011000)], host := { linkUp := true } }
theorem can_box : CanIssue (withBox {} 0) t0 := by constructor <;> decide
theorem can_full : CanIssue (withBox { msgs := [0 :: List.replicate 15 1] } 0) t0 := by constructor <;> decide
theorem can_msg : CanIssue (withBox { msgs := [msgA] } 0) t0 := by constructor <;> decide
theorem at_box (y : MbxEnd) (h : boxOff (withBox y 0) 0 = false) : AtMailbox (withBox y 0) t0 0 := by
  constructor
  · rfl
  · show staleLathe (withBox {} 0) (some 0) = false; decide
  · exact h
def sWaitS : State := withBox {} 0 { thrD with st := .waiting (.mbx 0 0 true 15) }
theorem at_waitS : AtMailbox sWaitS t0 0 := by constructor <;> decide

/-- A send of 15 words from g24 on fits exactly; one of 1 word into a full end waits. -/
theorem test_hyps_MailboxInstructions : (CanIssue (withBox {} 0) t0 ∧ guarded (withBox {} 0) t0 (fld 0 24 0 0xF00) ∧ AtMailbox (withBox {} 0) t0 0 ∧
      CanIssue (withBox { msgs := [0 :: List.replicate 15 1] } 0) t0 ∧ AtMailbox (withBox { msgs := [0 :: List.replicate 15 1] } 0) t0 0 ∧
      CanIssue (withBox { msgs := [msgA] } 0) t0 ∧ AtMailbox (withBox { msgs := [msgA] } 0) t0 0 ∧ AtMailbox sWaitS t0 0) ∧
    (fieldsOk .z .g .z (fld 0 24 0 0xF00) = true ∧ (fld 0 24 0 0xF00).imm.toNat < 2 ^ 12 ∧ (fld 0 24 0 0xF00).imm.getLsbD 7 = false ∧
      24 + (15 + 1) / 2 ≤ 32 ∧ storesDone (found (withBox {} 0) t0) = true ∧ endState (withBox {} 0) 0 0 ≠ 1 ∧
      (((withBox {} 0).box 0).at 0).words + 1 + 15 ≤ 16) ∧
    16 < (((withBox { msgs := [0 :: List.replicate 15 1] } 0).box 0).at 0).words + 1 + 1 ∧
    (fieldsOk .g .z .z (fld 23 0 0 0x40) = true ∧ (((withBox { msgs := [msgA] } 0).box 0).at 1).msgs = msgA :: [] ∧
      (((withBox {} 0).box 0).at 1).msgs = []) ∧
    ((sWaitS.thr t0).st = .waiting (.mbx 0 0 true 15) ∧ ((sWaitS.box 0).at 0).words + 1 + 15 ≤ 16) := by
  refine ⟨⟨can_box, on, at_box _ (by decide), can_full, at_box _ (by decide), can_msg, at_box _ (by decide), at_waitS⟩, ?_, ?_, ?_, ?_⟩ <;> decide

theorem test_hyps_MailboxRegisters : (hostReaches (withBox {} 0) (rMbx 0 + 0x10) = true ∧ (withBox {} 0).pwr.standby = false ∧
      regGate (withBox {} 0) (agentWorld (withBox {} 0) .host) (rMbx 0 + 0x10) 8 = none) ∧
    (hostReaches (withBox {} 0) (rMbx 0 + 0x28) = true ∧ regGate (withBox {} 0) (agentWorld (withBox {} 0) .host) (rMbx 0 + 0x28) 4 = none ∧
      regGate (withBox {} 0) (agentWorld (withBox {} 0) .host) (rMbx 0 + 0x30) 4 = none ∧
      regGate (withBox {} 0) (agentWorld (withBox {} 0) .host) (rMbx 0 + 0x48) 4 = none) ∧
    (((withBox { staged := [1, 2] } (agentId .host)).box 0).owner = agentId .host ∧ ([1, 2] : List (BitVec 32)).length < 15 ∧
      ((withBox {} 0).box 0).owner ≠ agentId .host ∧ 15 ≤ (List.replicate 15 (1 : BitVec 32)).length) ∧
    (endState (withBox { staged := [1, 2] } (agentId .host)) 0 0 ≠ 1 ∧
      (((withBox { staged := List.replicate 15 1 } (agentId .host)).box 0).at 0).words + 1 + 15 ≤ 16) ∧
    ((((withBox { msgs := [msgA] } (agentId .host)).box 0).at 0).msgs = (0x10000002 :: [5, 6]) :: [] ∧
      (((withBox { part := [6] } (agentId .host)).box 0).at 0).part = 6 :: []) := by
  refine ⟨?_, ?_, ?_, ?_, ?_⟩ <;> decide

/-- Two words of g3: the header has the sender and the count, then low half, high half (R352). -/
theorem test_mailbox : after (.mbxsend t0 (fld 0 3 0 0x200)) (withBox {} 0) (fun u =>
      ((u.box 0).at 0).msgs == [[(threadId t0).setWidth 32 <<< 16 ||| 2, 0x55667788, 0x11223344]]) = true ∧
    after (.mbxrecv t0 (fld 4 0 0 0)) (withBox { msgs := [msgA] } 0) (fun u => (u.thr t0).rg 4 == 0x10000002 &&
      (u.thr t0).rg 5 == 0x0000000600000005 && ((u.box 0).at 0).msgs.isEmpty) = true := by decide

/-- Reading a free lock takes it; a write by another agent only sets lock_viol (R355). -/
theorem test_mailbox_registers : after (.mbxLockRead .host 0) (withBox {} 0) (fun u => (u.box 0).owner == agentId .host && u.out == [.readData .host 0]) = true ∧
    after (.mbxSendReg .host 0 0 7) (withBox {} 0x1234) (fun u => (u.box 0).lockViol && ((u.box 0).at 0).staged.isEmpty) = true ∧
    after (.mbxCommit .host 0 0) (withBox { staged := [1, 2] } (agentId .host)) (fun u =>
      ((u.box 0).at 0).msgs == [[(agentId .host).setWidth 32 <<< 16 ||| 2, 1, 2]]) = true ∧
    after (.mbxRecvReg .host 0 0) (withBox { part := [6] } (agentId .host)) (fun u => u.out == [.readData .host 6] && ((u.box 0).at 0).part.isEmpty) = true := by
  decide

/-- A thread whose operations, or whose stores, are not complete; a full list of tokens; a refused write of DEV_TASKDB. -/
def sTokQ : State := { sTok with cores := [(0, { coreA with tileQ := [opA] })] }
def sTokS : State := withDesc (desc 1 2 0 0 0) { thrD with task := some runA, sbuf := [entA] }
theorem can_sTokQ : CanIssue sTokQ t0 := by constructor <;> decide
theorem can_sTokS : CanIssue sTokS t0 := by constructor <;> decide
theorem test_hyps_Tokens_waits : (CanIssue sTokQ t0 ∧ CanIssue sTokS t0) ∧ (hasQueued sTokQ t0 = true ∧ (sTokQ.thr t0).task = some runA) ∧
    (hasQueued sTokS t0 = false ∧ storesDone (found sTokS t0) = false ∧ (sTokS.thr t0).task = some runA) ∧
    64 ≤ ({ runA with staged := List.replicate 64 (0x3000, false) } : TaskRun).staged.length ∧
    (reachesReg sTok (.thread t0) rTaskdb 8 ∧ reachesReg sTok (.sup 0) rTaskdb 8) ∧
    ((0x3005 : Word) &&& ~~~1#64 = 0x3004 ∧ namesSecure sTok .ns 0x3005 = false ∧
      tokenCheck sTok ⟨.ns, none⟩ (0x3005 &&& ~~~1#64) = .trap xAlign 0x3004 ∧ (0x3001 : Word) &&& ~~~1#64 = 0x3000) := by
  refine ⟨⟨can_sTokQ, can_sTokS⟩, ?_, ?_, ?_, ?_, ?_⟩
  case refine_4 => unfold reachesReg; decide
  all_goals decide

/-- Mailbox 0 with its host end in reset, and with an end of core 0 of lathe 5, which is off. -/
def sBoxReset : State := { withBox { staged := [1] } (agentId .host) with host := {} }
def sBoxOff : State := { withBox {} 0 with ctl := [(rMbx 0, 0x18001AA01000)], lathes := [(0, latheA), (5, { latheA with power := 3 })] }
def sBoxSt : State := withBox {} 0 { thrD with sbuf := [entA] }
def sBoxHeld : State := withBox { msgs := [msgA] } 0x1234
theorem can_boxReset : CanIssue sBoxReset t0 := by constructor <;> decide
theorem can_boxOff : CanIssue sBoxOff t0 := by constructor <;> decide
theorem trap_boxOff : CanTrap sBoxOff t0 := by constructor <;> decide
theorem can_boxSt : CanIssue sBoxSt t0 := by constructor <;> decide
theorem can_boxHeld : CanIssue sBoxHeld t0 := by constructor <;> decide
theorem at_boxSt : AtMailbox sBoxSt t0 0 := by constructor <;> decide
theorem at_boxHeld : AtMailbox sBoxHeld t0 0 := by constructor <;> decide
theorem at_boxReset : AtMailbox sBoxReset t0 0 := by constructor <;> decide
theorem test_hyps_MailboxInstructions_other : (CanIssue sBoxOff t0 ∧ CanTrap sBoxOff t0 ∧ CanIssue sBoxSt t0 ∧ AtMailbox sBoxSt t0 0 ∧
      CanIssue sBoxHeld t0 ∧ AtMailbox sBoxHeld t0 0 ∧ CanIssue sBoxReset t0 ∧ AtMailbox sBoxReset t0 0) ∧
    ((sBoxOff.box 0).world = (sBoxOff.lathe 0).world ∧ staleLathe sBoxOff (some 0) = false ∧ boxOff sBoxOff 0 = true) ∧
    storesDone (found sBoxSt t0) = false ∧ (∃ e, e < 2 ∧ endState sBoxReset 0 e = 1) ∧ storesDone (found sBoxReset t0) = true ∧
    ¬unlocked sBoxHeld t0 0 ∧ unlocked (withBox {} 0) t0 0 ∧ unlocked (withBox { msgs := [msgA] } 0) t0 0 ∧ unlocked sWaitS t0 0 := by
  refine ⟨⟨can_boxOff, trap_boxOff, can_boxSt, at_boxSt, can_boxHeld, at_boxHeld, can_boxReset, at_boxReset⟩, ?_, ?_, ?_, ?_, ?_, .inl rfl,
    .inl rfl, .inl rfl⟩
  case refine_5 => unfold unlocked; decide
  all_goals decide

/-- The registers of mailbox 0 reached by the host; an end in reset reached by a thread that owns the lock. -/
theorem test_hyps_MailboxRegisters_reach : (∀ o ∈ [0x20, 0x28, 0x30, 0x38, 0x40, 0x48], reachesReg (withBox {} 0) .host (rMbx 0 + o) 4) ∧
    reachesReg (withBox {} 0) .host (rMbx 0 + 0x10) 8 ∧
    (let s := { withBox { staged := [1] } (threadId t0) with host := ({} : HostIf) }
     reachesReg s (.thread t0) (rMbx 0 + 0x38) 4 ∧ agentId (.thread t0) = threadId t0 ∧ ∃ e, e < 2 ∧ endState s 0 e = 1) ∧
    16 < (((withBox { msgs := [msgA], staged := List.replicate 15 1 } (agentId .host)).box 0).at 0).words + 1 + 15 ∧
    (((withBox {} (agentId .host)).box 0).at 0).msgs = [] := by
  unfold reachesReg
  refine ⟨?_, ?_, ?_, ?_, ?_⟩ <;> decide

/-! ## Host link, registers, queues, KCP commands -/

/-- A packet with opcode `op` in world bit `sec`, version 4, tag 0x1234, and fields (offset, bytes, value). -/
def packet (op : Nat) (sec : Bool) (fs : List (Nat × Nat × Nat)) : List Byte :=
  fs.foldl (fun b a => putAt b a.1 (leBytes a.2.1 a.2.2)) (putAt (List.replicate 64 0) 0 [BitVec.ofNat 8 op, 0, if sec then 0x41 else 0x40, 0, 0x34, 0x12])
def command (p : List Byte) : Cmd := { q := 2, n := 3, packet := p, fetchedAt := 7, fltSeq := 0 }
def queueA (w : World) : Queue := { newQueue w 0x10000 true 4 0x20000 true 5 false 3 with prod := 4, cons := 3, tail := 33, head := 1 }
/-- Cells for the commands: bytes at 0x1000, a WAITING descriptor at 0x3000, a scale-table entry at 0x500000. -/
def cellsK : List Host.Cell := cell 0x1000 8 0x8877665544332211 ++ desc 1 2 0 0 0 ++ cell 0x500000 8 0x1234567890
/-- Queues 0, 2 (of world `w`) and 5 are active and queue 1 is the S queue; commands `cs` are in progress. -/
def withCmds (w : World) (cs : List Cmd) : State :=
  { only thrA with mem := { cells := cellsK }, ctl := [(rDevId, 0x48A101), (rScaleBase, 0x500000)]
                   host := { linkUp := true, cmds := cs, queues := [(0, queueA .ns), (1, { queueA .s with prod := 3 }), (2, queueA w), (5, queueA w)] } }
def sK (p : List Byte) : State := withCmds .ns [command p]

def sHost : State := withCmds .ns []
def sBoot : State := { State.reset with plat := { ({} : Plat) with pwrOk := true, perstN := true, started := true, stage := 3 } }
/-- The setup registers of queue 0 and 1: rings of 16 commands in host and local memory, 32 completions. -/
def setup (r : Nat × Nat × Nat) (cmd cpl cfg : Word) (qs : SMap Queue) : State :=
  { sHost with ctl := [(r.1, cmd), (r.2.1, cpl), (r.2.2, cfg)], host := { linkUp := true, queues := qs }
               mem := { cells := cellsK, rat := [(512, 16)] } }
def regs0 : Nat × Nat × Nat := (rQ0Cmd, rQ0Cpl, rQ0Cfg)
def regs1 : Nat × Nat × Nat := (rQ1Cmd, rQ1Cpl, rQ1Cfg)

theorem test_hyps_HostLink : mayLink sHost = true ∧ (1 ≤ 7 ∧ (8 = 1 ∨ 8 = 4 ∨ 8 = 8)) ∧ sHost.host.linkUp = true ∧ (9 ≤ 9 ∧ 9 ≠ sHost.host.bar4Log2) ∧
    (sHost.pwr.standby = false ∧ sHost.plat.ready = true ∧ sHost.plat.recovery = false ∧ 0x1000 + 8 ≤ 2 ^ sHost.host.bar4Log2 * gib ∧
      bar4Place sHost 0x1000 8 = .ram 0x1000 ∧ poisonAt sHost 0x1000 8 = none) ∧ ([1, 2, 0] : List Byte).length = 3 := by decide

theorem test_hyps_RegisterAccess : (hostReaches sHost rDevId = true ∧ sHost.pwr.standby = false ∧ regGate sHost (agentWorld sHost .host) rDevId 8 = none ∧
      rDevId ≠ rDevTime ∧ rDevId < 0x400000 ∧ blockLathe rDevId = none ∧ ctlGet sHost rDevId = 0x48A101) ∧
    (regGate sHost (agentWorld sHost .host) (rSeed 127) 8 = none ∧ hostReaches sHost (rSeed 127) = true ∧ sHost.fer.handoffs = []) ∧
    (regGate sHost (agentWorld sHost (.sup 0)) (rSeed 255) 8 = none ∧ agentWorld sHost (.sup 0) = .s) ∧
    (regGate sHost (agentWorld sHost .host) (rSeed 128) 8 = none ∧ agentWorld sHost .host = .ns) ∧
    (regGate sHost .ns rSecStat 8 = some .world ∧ agentWorld sHost (.thread t0) = .ns ∧ sHost.sec.vlog.length < 4096) := by decide

def sFetch0 : State :=
  { sHost with host := { linkUp := true, queues := [(2, queueA .ns)], ready0 := [2] } }
def doneCmd : Cmd := { command (packet 1 false []) with wait := .done, status := 5, result := 6, aux := 77, ldrop := true }
def sComp : State := withCmds .ns [doneCmd]

/-- Setup: sizes 4 and 5; destroy. Doorbells: one command more, and one more than the ring holds; a queue that is not there; a head
that catches up with the tail. A fetch of the ready queue 2; a record of queue 2. -/
theorem test_hyps_SetupQueues : (let s := setup regs0 0x10009 0x20025 0 []
     regGate s (agentWorld s .host) rQ0Cfg 8 = none ∧ hostReaches s rQ0Cfg = true ∧ (ctlGet s rQ0Cfg).getLsbD 16 = false ∧
       (0x11005 : Word).getLsbD 16 = true ∧ (s.queue? 0).isNone = true ∧ (ctlGet s rQ0Cmd).getLsbD 0 = true ∧ (ctlGet s rQ0Cpl).getLsbD 5 = true ∧
       (ctlGet s rQ0Cmd >>> 1 &&& 31#64).toNat = 4 ∧ (ctlGet s rQ0Cpl &&& 31#64).toNat = 5) ∧
    (let s := setup regs1 0x10008 0x20005 0 []
     regGate s (agentWorld s (.sup 3)) rQ1Cfg 8 = none ∧ (ctlGet s rQ1Cfg).getLsbD 16 = false ∧ (s.queue? 1).isNone = true ∧
       ringCheck s .s (ctlGet s rQ1Cmd &&& ~~~0x3F#64) false 64 (ctlGet s rQ1Cmd >>> 1 &&& 31#64).toNat = stOk ∧
       ringCheck s .s (ctlGet s rQ1Cpl &&& ~~~0x3F#64) false 32 (ctlGet s rQ1Cpl &&& 31#64).toNat = stOk) ∧
    (let s := setup regs0 0 0 0x10000 [(0, queueA .ns)]
     (ctlGet s rQ0Cfg).getLsbD 16 = true ∧ (0 : Word).getLsbD 16 = false ∧ s.queue? 0 = some (queueA .ns) ∧
       regGate s (agentWorld s .host) rQ0Cfg 8 = none) ∧
    (let s := setup regs1 0 0 0x10000 [(1, queueA .s)]
     (ctlGet s rQ1Cfg).getLsbD 16 = true ∧ s.queue? 1 = some (queueA .s) ∧ regGate s (agentWorld s (.sup 0)) rQ1Cfg 8 = none) ∧
    (regGate sHost (agentWorld sHost .host) rDoorbell 8 = none ∧ hostReaches sHost rDoorbell = true ∧ sHost.queue? 2 = some (queueA .ns) ∧
      (queueA .ns).st = .active ∧ (queueA .ns).world = agentWorld sHost .host ∧ (BitVec.ofNat 24 19 - (queueA .ns).cons).toNat ≤ 2 ^ 4 ∧
      2 ^ 4 < (BitVec.ofNat 24 20 - (queueA .ns).cons).toNat ∧ fenceHeld sHost 2 = false) ∧
    ((sHost.queue? 7).isNone = true ∧ (7 : Word).toNat < 2 ^ 44) ∧
    (regGate sHost (agentWorld sHost .host) rCpldb 8 = none ∧ hostReaches sHost rCpldb = true ∧
      (BitVec.ofNat 24 33 - (queueA .ns).head).toNat ≤ ((queueA .ns).tail - (queueA .ns).head).toNat) ∧
    (sFetch0.host.ready0 = 2 :: [] ∧ sFetch0.queue? 2 = some (queueA .ns) ∧ (queueA .ns).prod = (queueA .ns).cons + 1 ∧
      ((queueA .ns).cons - (queueA .ns).head).toNat < 2 ^ 5 ∧ fenceHeld sFetch0 2 = false) ∧
    (sComp.cmd? 2 3 = some doneCmd ∧ doneCmd.wait = .done ∧ doneCmd.discard = false ∧ sComp.queue? 2 = some (queueA .ns) ∧
      (queueA .ns).cplHost = true ∧ doneCmd.n.toNat = 3) := by
  refine ⟨?_, ?_, ?_, ?_, ?_, ?_, ?_, ?_, ?_⟩ <;> decide

def pNop : List Byte := packet 1 false []
def pCreate : List Byte := packet 2 false [(8, 1, 3), (0x0C, 4, 7), (0x10, 8, 0x10000), (0x18, 8, 0x20000), (0x20, 1, 4), (0x21, 1, 20), (0x22, 2, 2047)]
def pDestroy : List Byte := packet 3 false [(0x0C, 4, 5)]
def pCopy : List Byte := packet 0x10 false [(0x10, 8, 0x1000), (0x18, 8, 0x2000), (0x20, 8, 70)]
def pFill : List Byte := packet 0x11 false [(0x10, 8, 0x1003), (0x18, 8, 0x1122334455667788), (0x20, 8, 11)]
def pLoad : List Byte := packet 0x20 false [(8, 1, 1), (0x10, 8, 0x9000), (0x18, 8, 0x2008), (0x20, 4, 16)]
def pSignal : List Byte := packet 0x22 false [(0x10, 8, 0x3000)]
def pSignalBad : List Byte := packet 0x22 false [(0x10, 8, 0x200000000000)]
def pSubmit : List Byte := packet 0x21 false [(8, 1, 1), (0x10, 8, 0x9000), (0x20, 4, 1)]
def pBind : List Byte := packet 0x30 false [(0x10, 4, 1), (0x14, 1, 0x15)]

theorem starts_nop : Starts (sK pNop) 0x01 2 3 (command pNop) .ns := by constructor <;> decide
theorem starts_create : Starts (sK pCreate) 0x02 2 3 (command pCreate) .ns := by constructor <;> decide
theorem starts_destroy : Starts (sK pDestroy) 0x03 2 3 (command pDestroy) .ns := by constructor <;> decide
theorem starts_copy : Starts (sK pCopy) 0x10 2 3 (command pCopy) .ns := by constructor <;> decide
theorem starts_fill : Starts (sK pFill) 0x11 2 3 (command pFill) .ns := by constructor <;> decide
theorem starts_load : Starts (sK pLoad) 0x20 2 3 (command pLoad) .ns := by constructor <;> decide
theorem starts_signal : Starts (sK pSignal) 0x22 2 3 (command pSignal) .ns := by constructor <;> decide
theorem starts_bad : Starts (sK pSignalBad) 0x22 2 3 (command pSignalBad) .ns := by constructor <;> decide
theorem starts_submit : Starts (sK pSubmit) 0x21 2 3 (command pSubmit) .ns := by constructor <;> decide
theorem starts_bind : Starts (sK pBind) 0x30 2 3 (command pBind) .ns := by constructor <;> decide

theorem quietBus_one {s : State} {x : Thread} {a n} (h : s.threads = [(0, x)]) (q : x.loads = []) : QuietBus s a n := by
  intro l _ u p hp
  rw [thr_one h] at hp
  split at hp
  · rw [q] at hp; cases hp
  · cases hp

theorem local_of {s : State} {w : World} {a : Word} {n : Nat} {x : Thread} (h : s.threads = [(0, x)]) (q : x.loads = [])
    (h1 : isSelf s (chainOf a) = true ∧ chainOf a ≠ 0xFFFE#16 ∧ localOf a + n ≤ 2 ^ 48)
    (h2 : ∀ g ∈ granules (localOf a) n, (devPlace s g).isSome = true ∧ addrWorld s none g = w)
    (h3 : poisonAt s (localOf a) n = none ∧ runBusy s (localOf a) n = false) : LocalRange s w a n :=
  ⟨h1.1, h1.2.1, h1.2.2, fun g hg => (h2 g hg).1, fun g hg => (h2 g hg).2, h3.1, h3.2, quietBus_one h q⟩

theorem copy_from : LocalRange (sK pCopy) .ns (BitVec.ofNat 64 (arg (command pCopy) 0x10 8)) (arg (command pCopy) 0x20 8) := by
  apply local_of rfl rfl <;> decide
theorem copy_to : LocalRange (sK pCopy) .ns (BitVec.ofNat 64 (arg (command pCopy) 0x18 8)) (arg (command pCopy) 0x20 8) := by
  apply local_of rfl rfl <;> decide
theorem fill_to : LocalRange (sK pFill) .ns (BitVec.ofNat 64 (arg (command pFill) 0x10 8)) (arg (command pFill) 0x20 8) := by
  apply local_of rfl rfl <;> decide
theorem load_to : LocalRange (sK pLoad) .ns (BitVec.ofNat 64 (arg (command pLoad) 0x18 8)) (arg (command pLoad) 0x20 4) := by
  apply local_of rfl rfl <;> decide

theorem test_hyps_KcpMemory : (Starts (sK pNop) 0x01 2 3 (command pNop) .ns ∧ Starts (sK pCreate) 0x02 2 3 (command pCreate) .ns ∧
      Starts (sK pDestroy) 0x03 2 3 (command pDestroy) .ns ∧ Starts (sK pCopy) 0x10 2 3 (command pCopy) .ns ∧
      Starts (sK pFill) 0x11 2 3 (command pFill) .ns ∧ Starts (sK pLoad) 0x20 2 3 (command pLoad) .ns ∧
      LocalRange (sK pCopy) .ns (BitVec.ofNat 64 (arg (command pCopy) 0x10 8)) (arg (command pCopy) 0x20 8) ∧
      LocalRange (sK pCopy) .ns (BitVec.ofNat 64 (arg (command pCopy) 0x18 8)) (arg (command pCopy) 0x20 8) ∧
      LocalRange (sK pFill) .ns (BitVec.ofNat 64 (arg (command pFill) 0x10 8)) (arg (command pFill) 0x20 8) ∧
      LocalRange (sK pLoad) .ns (BitVec.ofNat 64 (arg (command pLoad) 0x18 8)) (arg (command pLoad) 0x20 4)) ∧
    (let c := command pCreate
     arg c 0x0C 4 % 2 ^ 20 = 7 ∧ ((sK pCreate).queue? 7).isNone = true ∧ arg c 0x22 2 ≤ 2047 ∧ arg c 8 1 % 4 = 3 ∧ arg c 0x20 1 = 4 ∧
       arg c 0x21 1 = 20 ∧ arg c 0x10 8 % 64 = 0 ∧ arg c 0x18 8 % 32 = 0) ∧
    (arg (command pDestroy) 0x0C 4 = 5 ∧ (sK pDestroy).queue? 5 = some (queueA .ns)) ∧
    (arg (command pCopy) 8 1 % 4 = 0 ∧ arg (command pCopy) 9 1 % 2 = 0 ∧ arg (command pCopy) 0x20 8 ≤ 2 ^ 40 ∧ noDma (sK pCopy) 2 .ns = false ∧
      localOf (BitVec.ofNat 64 (arg (command pCopy) 0x10 8)) + 70 ≤ localOf (BitVec.ofNat 64 (arg (command pCopy) 0x18 8))) ∧
    (arg (command pFill) 8 1 % 2 = 0 ∧ noDma (sK pFill) 2 .ns = false) ∧
    (arg (command pLoad) 8 1 % 2 = 1 ∧ (BitVec.ofNat 64 (arg (command pLoad) 0x18 8)).toNat % 8 = 0 ∧ arg (command pLoad) 0x20 4 = 16 ∧
      (command pLoad).linkLost = false) := by
  refine ⟨⟨starts_nop, starts_create, starts_destroy, starts_copy, starts_fill, starts_load, copy_from, copy_to, fill_to, load_to⟩, ?_, ?_, ?_, ?_, ?_⟩ <;> decide

theorem test_hyps_KcpTasks : (Starts (sK pSignal) 0x22 2 3 (command pSignal) .ns ∧ Starts (sK pSignalBad) 0x22 2 3 (command pSignalBad) .ns ∧
      Starts (sK pSubmit) 0x21 2 3 (command pSubmit) .ns ∧ Starts (sK pBind) 0x30 2 3 (command pBind) .ns) ∧
    (tokenCheck (sK pSignal) ⟨.ns, none⟩ 0x3000 = .ok ∧ arg (command pSignal) 0x18 1 % 2 = 0 ∧ dGet (sK pSignal) 0x3000 dState 1 = 1 ∧
      dGet (sK pSignal) 0x3000 dCount 2 ≠ 1) ∧
    (tokenCheck (sK pSignalBad) ⟨.ns, none⟩ 0x200000000000 = .trap xVmem 0x200000000000) ∧
    (arg (command pSubmit) 8 1 % 2 = 1 ∧ arg (command pSubmit) 0x20 4 = 1 ∧ arg (command pSubmit) 0x18 8 = 0 ∧ (command pSubmit).result = 0 ∧
      (sK pSubmit).host.tokenWait = []) ∧
    (arg (command pBind) 9 1 % 2 = 0 ∧ arg (command pBind) 0x10 4 = 1 ∧ entryWorld (sK pBind) (BitVec.ofNat 16 (arg (command pBind) 0x0C 2)) = .ns) := by
  refine ⟨⟨starts_signal, starts_bad, starts_submit, starts_bind⟩, ?_, ?_, ?_, ?_⟩ <;> decide

/-- BAR4 offset 0x1000 is NS memory at 0x1000; a reset of the link clears its state (R362, R367). -/
theorem test_host_link : after (.bar4Read 0x1000 4) sHost (fun u => u.out == [.readBytes [0x11, 0x22, 0x33, 0x44]]) = true ∧
    after (.bar4Write 0x1006 [1, 2, 3]) sHost (fun u => memRead u 0x1000 10 == [0x11, 0x22, 0x33, 0x44, 0x55, 0x66, 1, 2, 3, 0]) = true ∧
    after .hostLinkReset sHost (fun u => !u.host.linkUp && u.host.bar4Log2 == 6 && (u.queue? 0).isNone) = true ∧
    after (.bar0Read false rDevId 8) sHost (fun u => u.out == [.readData .host 0x48A101]) = true := by decide

/-- An NS thread's write of SEC_STAT has no effect but its log entry of kind 1 (R489). -/
theorem test_world_violation : after (.registerWrite (.thread t0) false rSecStat 8 5) sHost (fun u =>
    u.sec.vlog.map (fun e => (e.addr, e.kind, e.agent)) == [(BitVec.ofNat 64 (0x300000000000 + rSecStat), 1, threadId t0)]) = true := by decide

/-- A doorbell of 19 fills the ring of 16 from 3 on; one of 20 sets HIF_ERR bit 2 (R375). The record of the 33rd entry has phase 0
after one wrap of 32, so phase byte 0 plus the loss bit (R378). -/
theorem test_queues : after (.doorbell .host 8 (BitVec.ofNat 64 (19 * 2 ^ 20 + 2))) sHost (fun u => (u.queue? 2).map (fun x => x.prod) == some 19) = true ∧
    after (.doorbell .host 8 (BitVec.ofNat 64 (20 * 2 ^ 20 + 2))) sHost (fun u => (ctlGet u rHifErr).getLsbD 2) = true ∧
    after (.commandComplete 2 3 false) sComp (fun u => (u.queue? 2).map (fun x => x.tail) == some 34 &&
      u.out.any (fun o => match o with
        | .hostWrite a d => a == 0x20020 && d.take 8 == [0x34, 0x12, 5, 2, 6, 0, 0, 0]
        | _ => false)) = true := by decide

/-- MEM_FILL of 11 bytes from the pattern's low byte on; MEM_COPY of 70 bytes; PROGRAM_LOAD of host bytes (R387, R388). -/
theorem test_kcp_memory : after (.memFill 2 3) (sK pFill) (fun u => memRead u 0x1000 16 ==
      [0x11, 0x22, 0x33, 0x88, 0x77, 0x66, 0x55, 0x44, 0x33, 0x22, 0x11, 0x88, 0x77, 0x66, 0, 0] &&
      (u.cmd? 2 3).map (fun c => (c.status, c.aux)) == some (stOk, 11)) = true ∧
    after (.memCopy 2 3 none) (sK pCopy) (fun u => memRead u 0x2000 9 == [0x11, 0x22, 0x33, 0x44, 0x55, 0x66, 0x77, 0x88, 0]) = true ∧
    after (.programLoad 2 3 (some ((List.range 16).map (BitVec.ofNat 8)))) (sK pLoad) (fun u => memRead u 0x2008 4 == [0, 1, 2, 3]) = true := by
  decide

/-- TASK_SIGNAL reports the state it found, WAITING; TENSOR_BIND clears its entry and keeps six bits of history (R389, R390). -/
theorem test_kcp_tasks : after (.taskSignal 2 3) (sK pSignal) (fun u => (u.cmd? 2 3).map (fun c => (c.status, c.result)) == some (stOk, 1) &&
      dGet u 0x3000 dCount 2 == 1) = true ∧
    after (.tensorBind 2 3) (sK pBind) (fun u => memRead u 0x500000 8 == List.replicate 8 0 && byteAt u (0x500000 + eHist) == 0x15) = true := by decide


theorem test_hyps_StepKeepsMemoryCanonical : ({ sHost with pending := [.bar4Write 0x1006 [1, 2, 3]] } : State).memOk = true ∧
    ∃ u, step { sHost with pending := [.bar4Write 0x1006 [1, 2, 3]] } = .next u ∧ u.memOk = true ∧ u.pending = [] := by
  refine ⟨by decide, _, rfl, by decide, rfl⟩

/-! More witnesses of the host's statements: `test_hyps_<statement>_<clauses>` -/

theorem in_sHost (s : State) (h : s.host.linkUp = true ∧ s.pwr.standby = false ∧ clockOn s (.hostComplex 0) = true) (n : Nat)
    (k : 0 < n ∧ 0x1000 + n ≤ 2 ^ s.host.bar4Log2 * gib ∧ s.pwr.posted = []) : InBar4 s 0x1000 n :=
  ⟨⟨h.1, h.2.1, h.2.2⟩, k.1, k.2.1, k.2.2⟩
/-- The host's BAR4 accesses at 0x1000: poison there, its memory's clock held, world S, BAR4 at a hole, a recovery boot, before
DEV_READY. -/
def sPois : State := { sHost with mem := { sHost.mem with poison := [0x1000] } }
def sBusyRow : State := { sHost with plat := { platA with heldClocks := memIslands sHost 0x1000 } }
def sSecure : State := { sHost with mem := { sHost.mem with rat := [(512, 16)] } }
def sHole : State := { sHost with ctl := (rApctl, 0x200000000000) :: sHost.ctl }
def sRecovery : State := { sHost with plat := { platA with recovery := true, ready := false } }
def sEarly : State := { sHost with plat := { platA with ready := false } }

theorem test_hyps_HostLink_bar4 : (InBar4 sHost 0x1000 8 ∧ InBar4 sPois 0x1000 8 ∧ InBar4 sBusyRow 0x1000 8 ∧ InBar4 sSecure 0x1000 8 ∧
      InBar4 sHole 0x1000 8 ∧ InBar4 sRecovery 0x1000 8 ∧ InBar4 sEarly 0x1000 8 ∧ QuietBus sHost 0x1000 8 ∧
      InBar4 sHost 0x1000 ([1, 2, 3] : List Byte).length ∧ QuietBus sHost 0x1000 3) ∧
    (runBusy sHost 0x1000 8 = false ∧ (granules 0x1000 8).all (fun g => (devPlace sHost g).isSome) = true ∧
      (granules 0x1000 8).any (fun g => addrWorld sHost none g == .s) = false ∧ poisonAt sHost 0x1000 8 = none ∧
      (ctlGet sHost rApctl).toNat + 0x1000 = 0x1000) ∧
    (poisonAt sPois 0x1000 8 = some 0x1000 ∧ runBusy sPois 0x1000 8 = false ∧ (devPlace sPois 0x1000).isSome = true ∧
      addrWorld sPois none 0x1000 = .ns) ∧
    runBusy sBusyRow 0x1000 8 = true ∧
    ((granules 0x1000 8).any (fun g => addrWorld sSecure none g == .s) = true ∧ runBusy sSecure 0x1000 8 = false ∧
      (devPlace sSecure 0x1000).isSome = true ∧ sSecure.sec.vlog.length < 4096) ∧
    ((ctlGet sHole rApctl).toNat + 0x1000 = 0x200000001000 ∧ devPlace sHole 0x200000001000 = none ∧ runBusy sHole 0x200000001000 8 = false) ∧
    (sRecovery.plat.recovery = true ∧ sRecovery.plat.ready = false ∧ sEarly.plat.recovery = false ∧ sEarly.plat.ready = false) := by
  refine ⟨⟨?_, ?_, ?_, ?_, ?_, ?_, ?_, quietBus_one rfl rfl, ?_, quietBus_one rfl rfl⟩, by decide, by decide, by decide, by decide, by decide, by decide⟩ <;>
    (apply in_sHost <;> decide)

theorem hostIn_sHost : HostIn sHost := by constructor <;> decide
def sPba : State := { sHost with host := { sHost.host with pba := [1], msix := [] } }

/-- The host and an S agent at a register in whole and in halves; the host at BAR2 words of MSI-X entries 1 (pending) and 2047. -/
theorem test_hyps_RegisterAccess_more : (reachesReg sHost .host rDevId 8 ∧ reachesReg sHost .host (rDevId + 4) 4 ∧
      reachesReg sHost .host (rMbx 64) 8 ∧ reachesReg sHost (.sup 3) (rSeed 255) 8 ∧ reachesReg sHost .host (rSeed 0) 4 ∧
      reachesReg sHost .host (rSeed 127 + 4) 4 ∧ reachesReg sHost .host (rSeed 128) 8) ∧
    (regGate sHost .ns rSecStat 8 = some .world ∧ agentWorld sHost .host = .ns ∧ HostIn sHost ∧ hostReaches sHost rSecStat = true) ∧
    (HostIn sHost ∧ sHost.plat.ready = true ∧ sHost.fer.handoffs = [] ∧ 2047 < 2048 ∧ 3 < 4 ∧ 2047 ∉ sHost.host.pba) ∧
    (HostIn sPba ∧ sPba.plat.ready = true ∧ 1 ∈ sPba.host.pba ∧ (0 : Word).getLsbD 0 = false) := by
  refine ⟨?_, ⟨by decide, by decide, hostIn_sHost, by decide⟩, ⟨hostIn_sHost, by decide⟩, ⟨by constructor <;> decide, by decide⟩⟩
  unfold reachesReg
  decide

/-- Setup registers whose rings fail their checks; a doorbell of the other world, one of a bad form and one of a queue that is not
there; a completion doorbell beyond the tail. -/
theorem test_hyps_SetupQueues_errors : (let s := setup regs0 0x10003 0x20025 0 []
     reachesReg s .host rQ0Cfg 8 ∧ s.plat.ready = true ∧ (ctlGet s rQ0Cfg).getLsbD 16 = false ∧ (s.queue? 0).isNone = true ∧
       ringCheck s .ns (ctlGet s rQ0Cmd &&& ~~~0x3F#64) ((ctlGet s rQ0Cmd).getLsbD 0) 64 (ctlGet s rQ0Cmd >>> 1 &&& 31#64).toNat ≠ stOk) ∧
    (let s := setup regs1 0x10006 0x20005 0 []
     reachesReg s (.sup 0) rQ1Cfg 8 ∧ (s.queue? 1).isNone = true ∧
       ringCheck s .s (ctlGet s rQ1Cmd &&& ~~~0x3F#64) false 64 (ctlGet s rQ1Cmd >>> 1 &&& 31#64).toNat ≠ stOk) ∧
    (reachesReg sHost (.sup 0) rDoorbell 8 ∧ reachesReg sHost (.sup 0) rCpldb 8 ∧ (queueA .ns).world ≠ agentWorld sHost (.sup 0)) ∧
    (HostIn sHost ∧ hostReaches sHost rDoorbell = true ∧ (2 : Nat) ≠ 8 ∧ 2 ^ 44 ≤ (0x100000000002 : Word).toNat ∧
      (∀ x, sHost.queue? ((7 : Word) &&& 0xFFFFF#64).toNat = some x → x.st ≠ .active)) ∧
    (reachesReg sHost .host rCpldb 8 ∧ ((queueA .ns).tail - (queueA .ns).head).toNat < (BitVec.ofNat 24 34 - (queueA .ns).head).toNat) := by
  refine ⟨?_, ?_, ?_, ⟨hostIn_sHost, by decide, by decide, by decide, fun x h => ?_⟩, ?_⟩
  · unfold reachesReg; decide
  · unfold reachesReg; decide
  · unfold reachesReg; decide
  · exact absurd h (by show ¬(none = some x); simp)
  · unfold reachesReg; decide

/-- Queue 3, of odd number, is ready with a ring in local memory at `a`. -/
def queueL (a : Word) : Queue := { queueA .ns with cmdHost := false, cmd := a }
def sFetchL (a : Word) (p : List Nat) : State :=
  { sHost with mem := { sHost.mem with poison := p }, host := { linkUp := true, queues := [(3, queueL a)], ready1 := [3] } }
/-- A record of queue 2 is due, whose completion ring is in local memory; and its commands are discarded. -/
def sCompL : State := { sComp with host := { sComp.host with queues := [(2, { queueA .ns with cplHost := false })] } }
def sDiscard : State := withCmds .ns [{ doneCmd with discard := true }]

theorem test_hyps_SetupQueues_rings : (let s := sFetchL 0x2000 []
     s.host.ready1 = 3 :: [] ∧ s.pwr.standby = false ∧ clockOn s (.hostComplex 1) = true ∧ 3 % 2 = (1 : Fin 2).val ∧ s.queue? 3 = some (queueL 0x2000) ∧
       (queueL 0x2000).st = .active ∧ (queueL 0x2000).prod = (queueL 0x2000).cons + 1 ∧
       ((queueL 0x2000).cons - (queueL 0x2000).head).toNat < 2 ^ (queueL 0x2000).cplLog2 ∧ fenceHeld s 3 = false ∧
       localOf (queueL 0x2000).cmd + 64 * ((queueL 0x2000).cons.toNat % 2 ^ (queueL 0x2000).cqLog2) = 0x20C0 ∧
       runBusy s 0x20C0 64 = false ∧ devPlace s 0x20C0 = some 0x20C0 ∧ poisonAt s 0x20C0 64 = none ∧ QuietBus s 0x20C0 64) ∧
    (let s := sFetchL 0x2000 [0x20C0]
     s.host.ready1 = 3 :: [] ∧ s.queue? 3 = some (queueL 0x2000) ∧ devPlace s 0x20C0 = some 0x20C0 ∧ poisonAt s 0x20C0 64 ≠ none) ∧
    (let s := sFetchL 0x200000000000 []
     s.host.ready1 = 3 :: [] ∧ s.queue? 3 = some (queueL 0x200000000000) ∧ runBusy s 0x2000000000C0 64 = false ∧ devPlace s 0x2000000000C0 = none) ∧
    (sCompL.cmd? 2 3 = some doneCmd ∧ complexRuns sCompL 2 = true ∧ sCompL.queue? 2 = some { queueA .ns with cplHost := false } ∧
      runBusy sCompL 0x20020 32 = false ∧ devPlace sCompL 0x20020 = some 0x20020 ∧ QuietBus sCompL 0x20020 32) ∧
    (sDiscard.cmd? 2 3 = some { doneCmd with discard := true } ∧ complexRuns sDiscard 2 = true ∧ sDiscard.queue? 2 = some (queueA .ns)) := by
  refine ⟨⟨by decide, by decide, by decide, by decide, by decide, by decide, by decide, by decide, by decide, by decide, by decide, by decide, by decide, quietBus_one rfl rfl⟩,
    by decide, by decide, ⟨by decide, by decide, by decide, by decide, by decide, quietBus_one rfl rfl⟩, by decide⟩

/-- QUEUE_CREATE of queue 1, of a local ring in the other world, and of queue 5, which is in use; QUEUE_DESTROY of queue 77, which is
not there, and by a command of the other world. -/
def pCreate1 : List Byte := packet 2 false [(8, 1, 3), (0x0C, 4, 1), (0x10, 8, 0x10000), (0x18, 8, 0x20000), (0x20, 1, 4), (0x21, 1, 20)]
def pCreateS : List Byte := packet 2 true [(0x0C, 4, 9), (0x10, 8, 0x10000), (0x18, 8, 0x20000), (0x20, 1, 4), (0x21, 1, 4)]
def pCreate5 : List Byte := packet 2 false [(8, 1, 3), (0x0C, 4, 5), (0x10, 8, 0x10000), (0x18, 8, 0x20000), (0x20, 1, 4), (0x21, 1, 20)]
def pDestroy77 : List Byte := packet 3 false [(0x0C, 4, 77)]
def pDestroyS : List Byte := packet 3 true [(0x0C, 4, 5)]
def sS (p : List Byte) : State :=
  { withCmds .s [command p] with host := { (withCmds .s [command p]).host with queues := [(2, queueA .s), (5, queueA .ns)] } }
theorem test_hyps_KcpMemory_refused : (Starts (sK pCreate1) 0x02 2 3 (command pCreate1) .ns ∧ arg (command pCreate1) 0x0C 4 % 2 ^ 20 < 2) ∧
    (Starts (sS pCreateS) 0x02 2 3 (command pCreateS) .s ∧ ringCheck (sS pCreateS) .s 0x10000 false 64 4 = stWorld ∧
      ringCheck (sS pCreateS) .s 0x20000 false 32 4 ≠ stBadParam) ∧
    (Starts (sK pCreate5) 0x02 2 3 (command pCreate5) .ns ∧ (sK pCreate5).queue? 5 ≠ none ∧
      ringCheck (sK pCreate5) .ns 0x10000 true 64 4 = stOk ∧ ringCheck (sK pCreate5) .ns 0x20000 true 32 20 = stOk) ∧
    (Starts (sK pDestroy77) 0x03 2 3 (command pDestroy77) .ns ∧ (sK pDestroy77).queue? 77 = none) ∧
    (Starts (sS pDestroyS) 0x03 2 3 (command pDestroyS) .s ∧ (sS pDestroyS).queue? 5 = some (queueA .ns) ∧ (queueA .ns).world ≠ .s) := by
  refine ⟨⟨?_, by decide⟩, ⟨?_, by decide, by decide⟩, ⟨?_, by decide, by decide, by decide⟩, ⟨?_, by decide⟩, ⟨?_, by decide, by decide⟩⟩ <;>
    constructor <;> decide

/-- A flush of 0x1000 to 0x103C; copies from and to host memory; a fill of host memory; a load of a program of local memory. -/
def pFlush : List Byte := packet 0x10 false [(9, 1, 1), (0x10, 8, 0x1000), (0x18, 8, 0x1000), (0x20, 8, 61)]
def pFromHost : List Byte := packet 0x10 false [(8, 1, 1), (0x10, 8, 0x7000), (0x18, 8, 0x2030), (0x20, 8, 61)]
def pToHost : List Byte := packet 0x10 false [(8, 1, 2), (0x10, 8, 0x1000), (0x18, 8, 0x7000), (0x20, 8, 61)]
def pFillHost : List Byte := packet 0x11 false [(8, 1, 1), (0x10, 8, 0x1003), (0x18, 8, 0x1122334455667788), (0x20, 8, 37)]
def pLoadL : List Byte := packet 0x20 false [(0x10, 8, 0x1000), (0x18, 8, 0x2008), (0x20, 4, 16)]
theorem test_hyps_KcpMemory_host : (Starts (sK pFlush) 0x10 2 3 (command pFlush) .ns ∧ LocalRange (sK pFlush) .ns 0x1000 61 ∧
      noDma (sK pFlush) 2 .ns = false ∧ arg (command pFlush) 9 1 % 2 = 1) ∧
    (Starts (sK pFromHost) 0x10 2 3 (command pFromHost) .ns ∧ LocalRange (sK pFromHost) .ns 0x2030 61 ∧
      arg (command pFromHost) 8 1 % 4 = 1 ∧ (command pFromHost).linkLost = false ∧ 61 ≤ (List.replicate 61 (1 : Byte)).length) ∧
    (Starts (sK pToHost) 0x10 2 3 (command pToHost) .ns ∧ LocalRange (sK pToHost) .ns 0x1000 61 ∧ arg (command pToHost) 8 1 % 4 = 2) ∧
    (Starts (sK pFillHost) 0x11 2 3 (command pFillHost) .ns ∧ arg (command pFillHost) 8 1 % 2 = 1) ∧
    (Starts (sK pLoadL) 0x20 2 3 (command pLoadL) .ns ∧ LocalRange (sK pLoadL) .ns 0x1000 16 ∧ LocalRange (sK pLoadL) .ns 0x2008 16 ∧
      arg (command pLoadL) 8 1 % 2 = 0 ∧ localOf 0x1000 + 16 ≤ localOf 0x2008) := by
  refine ⟨⟨?_, ?_, by decide, by decide⟩, ⟨?_, ?_, by decide⟩, ⟨?_, ?_, by decide⟩, ⟨?_, by decide⟩, ⟨?_, ?_, ?_, by decide, by decide⟩⟩ <;>
    first
    | (apply local_of rfl rfl <;> decide)
    | (constructor <;> decide)

/-- Copies to and from memory of device 2, and a fill of it. -/
def sKc (p : List Byte) : State := { sK p with chain := chainA }
def pCopyTo : List Byte := packet 0x10 false [(0x10, 8, 0x1000), (0x18, 8, 0x0002000000002020), (0x20, 8, 70)]
def pCopyFrom : List Byte := packet 0x10 false [(0x10, 8, 0x0002000000001000), (0x18, 8, 0x2000), (0x20, 8, 70)]
def pFillFar : List Byte := packet 0x11 false [(0x10, 8, 0x0002000000001003), (0x18, 8, 0x1122334455667788), (0x20, 8, 37)]
theorem far_of {s : State} {w : World} {a : Word} {n : Nat} (h : isSelf s (chainOf a) = false ∧ chainOf a ≠ 0xFFFE#16)
    (m : ∀ g ∈ granules (localOf a) n, tableMemory g = true) (q : w = .ns ∧ ∀ g ∈ granules (localOf a) n, (ratLookup s 1 g).world = .ns) :
    FarRange s w a n := ⟨h.1, h.2, m, q⟩
theorem test_hyps_KcpMemory_far : (Starts (sKc pCopyTo) 0x10 2 3 (command pCopyTo) .ns ∧ FarRange (sKc pCopyTo) .ns 0x0002000000002020 70 ∧
      LocalRange (sKc pCopyTo) .ns 0x1000 70 ∧ chainHolds (sKc pCopyTo) 2 = true ∧ (route (sKc pCopyTo) 2).isSome = true) ∧
    (Starts (sKc pCopyFrom) 0x10 2 3 (command pCopyFrom) .ns ∧ FarRange (sKc pCopyFrom) .ns 0x0002000000001000 70 ∧
      LocalRange (sKc pCopyFrom) .ns 0x2000 70 ∧ chainHolds (sKc pCopyFrom) 2 = true ∧ (route (sKc pCopyFrom) 2).isSome = true) ∧
    (Starts (sKc pFillFar) 0x11 2 3 (command pFillFar) .ns ∧ FarRange (sKc pFillFar) .ns 0x0002000000001003 37) := by
  refine ⟨⟨?_, ?_, ?_, by decide, by decide⟩, ⟨?_, ?_, ?_, by decide, by decide⟩, ⟨?_, ?_⟩⟩ <;>
    first
    | (apply far_of <;> decide)
    | (apply local_of rfl rfl <;> decide)
    | (constructor <;> decide)

/-- TASK_SIGNAL: an arm, a token of the other world, and one for device 2. TASK_GRAPH_SUBMIT of a list in local memory with a sink:
an entry that is skipped for its bits, one without memory and a good one. -/
def pArm : List Byte := packet 0x22 false [(0x10, 8, 0x3000), (0x18, 1, 1)]
def pSignalFar : List Byte := packet 0x22 false [(0x10, 8, 0x0002000000003000)]
def pSubmitL : List Byte := packet 0x21 false [(0x10, 8, 0x9000), (0x18, 8, 0x3000), (0x20, 4, 3)]
def entries : List Word := [0x3002, 0x200000000000, 0x3001]
def sSubmitL : State :=
  { sK pSubmitL with mem := { cells := desc 1 2 0 0 0 ++ cell 0x9000 8 0x3002 ++ cell 0x9008 8 0x200000000000 ++ cell 0x9010 8 0x3001 } }
theorem test_hyps_KcpTasks_signal : (Starts (sK pArm) 0x22 2 3 (command pArm) .ns ∧ arg (command pArm) 0x18 1 % 2 = 1 ∧
      tokenCheck (sK pArm) ⟨.ns, none⟩ 0x3000 = .ok) ∧
    (let s := { sK pArm with mem := { (sK pArm).mem with rat := [(512, 16)] } }
     Starts s 0x22 2 3 (command pArm) .ns ∧ tokenCheck s ⟨.ns, none⟩ 0x3000 = .trap xWorld 0x302C) ∧
    (Starts (sKc pSignalFar) 0x22 2 3 (command pSignalFar) .ns ∧ tokenCheck (sKc pSignalFar) ⟨.ns, none⟩ 0x0002000000003000 = .remote 2 ∧
      (route (sKc pSignalFar) 2).isSome = true) := by
  refine ⟨⟨?_, by decide, by decide⟩, ⟨?_, by decide⟩, ⟨?_, by decide, by decide⟩⟩ <;> constructor <;> decide
theorem test_hyps_KcpTasks_submit : Starts sSubmitL 0x21 2 3 (command pSubmitL) .ns ∧ LocalRange sSubmitL .ns 0x9000 24 ∧
    (arg (command pSubmitL) 0x20 4 = entries.length ∧ arg (command pSubmitL) 8 1 % 2 = 0 ∧
      (∀ i (h : i < entries.length), loaded sSubmitL (0x9000 + 8 * i) 8 false = entries[i]) ∧
      tokenCheck sSubmitL ⟨.ns, none⟩ 0x3000 = .ok ∧ sinkWatches sSubmitL < 4096 ∧
      wbits 0x3002 1 6 ≠ 0 ∧ tokenCheck sSubmitL ⟨.ns, none⟩ 0x200000000000 = .trap xVmem 0x200000000000 ∧ xVmem ≠ xWorld ∧
      goodEntry sSubmitL .ns 0x3001 = true) := by
  refine ⟨?_, ?_, by decide⟩
  · constructor <;> decide
  · apply local_of rfl rfl <;> decide

/-- TENSOR_BIND of no entries; of one of world S, which an NS command may neither clear nor read; the read of two, to local and to host
memory. -/
def pBind0 : List Byte := packet 0x30 false []
def pBindR : List Byte := packet 0x30 false [(9, 1, 1), (0x0C, 2, 0), (0x10, 4, 2), (0x18, 8, 0x2000)]
def pBindH : List Byte := packet 0x30 false [(8, 1, 1), (9, 1, 1), (0x0C, 2, 0), (0x10, 4, 2), (0x18, 8, 0x2000)]
/-- Entry 0 of the scale table is of world S. -/
def scaleS (s : State) : State := { s with mem := { s.mem with cells := s.mem.cells ++ cell (0x500000 + eHist) 1 128 } }
theorem test_hyps_KcpTasks_bind : (Starts (sK pBind0) 0x30 2 3 (command pBind0) .ns ∧ arg (command pBind0) 0x10 4 = 0) ∧
    (Starts (scaleS (sK pBind)) 0x30 2 3 (command pBind) .ns ∧ entryWorld (scaleS (sK pBind)) 0 = .s) ∧
    (Starts (scaleS (sK pBindR)) 0x30 2 3 (command pBindR) .ns ∧ entryWorld (scaleS (sK pBindR)) 0 = .s ∧
      LocalRange (scaleS (sK pBindR)) .ns 0x2000 256) ∧
    (Starts (sK pBindR) 0x30 2 3 (command pBindR) .ns ∧ LocalRange (sK pBindR) .ns 0x2000 256 ∧ entryWorld (sK pBindR) 0 = .ns ∧
      entryWorld (sK pBindR) 1 = .ns) ∧
    (Starts (sK pBindH) 0x30 2 3 (command pBindH) .ns ∧ arg (command pBindH) 8 1 % 2 = 1) := by
  refine ⟨⟨?_, by decide⟩, ⟨?_, by decide⟩, ⟨?_, by decide, ?_⟩, ⟨?_, ?_, by decide, by decide⟩, ⟨?_, by decide⟩⟩ <;>
    first
    | (apply local_of rfl rfl <;> decide)
    | (constructor <;> decide)

/-! ## Chain -/

def lonePort : Port := { portA with replay := [] }
/-- A device with two ports up that has no record; one that has record A; one fenced; one head of a record with `c`. -/
def withChain (c : Chain) (rx : List (Nat × Packet)) (x : Thread := thrA) : State :=
  { only x with mem := { cells := cellsK }, chain := { c with rxq := rx }, sec := { ({} : Sec) with fuses := { ({} : Fuses) with serial := 77 } }
                plat := { platA with cref0 := true, cref1 := true } }
def chainB : Chain := { chainA with rec_ := none }
def kRead : Packet := ⟨1, 2, 5, pRead, 0, 3, 9, 0, 0x1000, 0, [8, 0]⟩
/-- A data flit of sequence `seq` with acknowledgement 2: idle (kind 1) or a start with `pay`; its CRC-32 is over the rest (R402). -/
def flit (seq kind : Nat) (pay : List Byte) : List Byte :=
  let b := putAt (putAt (List.replicate 640 0) 0 (leBytes 2 seq ++ leBytes 2 2 ++ [BitVec.ofNat 8 kind])) 16 pay
  putAt b 12 (leBytes 4 (crc32 b).toNat)

def sPort : State := withChain chainB []
def sTrain (d : List Nat) : State := withChain { chainB with ports := [(0, { portA with st := .training, degraded := d })] } []
def sDown : State := withChain { chainB with ports := [(0, { portA with st := .down })] } []
def sMove : State := withChain { chainB with ports := [(0, { portA with degraded := [4], moving := true })] } []
def sRec : State := withChain chainA []

theorem test_hyps_ChainPorts : (portClock sDown 0 = true ∧ portUp sDown 0 = false ∧ (port sDown 0).st ≠ .partnerFenced ∧ sDown.chain.rec_ = none ∧
      (20 : BitVec 8).toNat = (if 0 < 20 then 0 + 20 else 0 - 20)) ∧
    (linkLive sPort 0 = true ∧ (port sPort 0).naks < 15 ∧ (port sPort 0).rxSeq = 9 ∧ (port sPort 0).rx = [] ∧ sPort.chain.st ≠ .fenced) ∧
    (kRead.payload.length ≤ 512 ∧ kRead.vc = vcOf kRead.type ∧ typeDefined kRead.type = true ∧ kRead.dst = sPort.chain.addr) ∧
    (portUp sPort 0 = true ∧ (port sPort 0).degraded = [] ∧ (port sMove 0).degraded = [4] ∧ (port sMove 0).moving = true ∧ linkLive sMove 0 = true) ∧
    ((port (sTrain [1, 2]) 0).st = .training ∧ portClock (sTrain [1, 2]) 0 = true ∧ (sTrain []).chain.rec_ = none) ∧
    (sRec.chain.rec_ = some recA ∧ (20 : BitVec 16) ≠ 0xFFFF ∧ 16 ≤ (recA.epoch - 0xFFF5#16).toNat ∧ (recA.epoch - 0xFFF5#16).toNat < 0x8000 ∧
      isHead sRec = true ∧ (port sRec 0).miss + 1 < deadCount sRec) := by
  refine ⟨?_, ?_, ?_, ?_, ?_, ?_⟩ <;> decide

/-- The next flit in sequence, intact: an idle one, and one that carries a READ; one out of sequence; one with a false CRC. -/
theorem test_hyps_ChainPorts_flits : (flitIntact (flit 10 1 []) = true ∧ leNat ((flit 10 1 []).take 2) = 10 ∧ leNat (((flit 10 1 []).drop 4).take 1) = 1) ∧
    (flitIntact (flit 10 0 (packetBytes kRead)) = true ∧
      (flit 10 0 (packetBytes kRead)).drop 16 = packetBytes kRead ++ List.replicate (592 - kRead.payload.length) 0) ∧
    (BitVec.ofNat 16 (leNat ((flit 12 1 []).take 2)) ≠ 10 ∧ (12 - 10 : BitVec 16).toNat < 0x8000) ∧
    flitIntact (putAt (flit 10 1 []) 30 [1]) = false := by
  refine ⟨?_, ?_, ?_, ?_⟩ <;> decide +kernel

def rx (k : Packet) : State := withChain chainA [(0, k)]
theorem arrives (k : Packet) (o : Nat) (h : route (withChain chainA []) k.src = some o ∧ routeWaits (withChain chainA []) k.src = false ∧
    (port (withChain chainA []) o).st ≠ .training) : Arrives (rx k) 0 k.type k o where
  head := by simp [rx, withChain, rxHead, only]
  member := by show chainA.st ≠ .fenced; decide
  back := h.1
  inOrder := h.2.1
  goes := h.2.2

def kFar : Packet := { kRead with addr := 0x300000000000 }
def kWrite : Packet := { kRead with type := pWrite, ext := 0xFFFFFFFFFFFFFFFF, payload := [9, 8, 0, 6] }
def kAdd : Packet := { kRead with type := pAtomic, ext := 0x91, payload := leBytes 8 0xFF }
def kTok : Packet := { kRead with type := pToken, addr := 0x3000 }
def kData : Packet := { kRead with type := pReadResp, vc := 1, payload := [1, 2, 3, 0x84] }
def kAck : Packet := { kRead with type := pAck, vc := 1, payload := [] }
def kErr : Packet := { kAck with type := pErr, ext := 2 }
def outLoad : Outstanding := { tag := 9, dst := 2, origin := .load t0, pkt := kRead }
def outStore : Outstanding := { tag := 9, dst := 2, origin := .store t0 entFar, pkt := kRead }
def ldFar : PendLoad := { ldA with addr := 0x0002000000001000, tag := some 9 }
def sResp (k : Packet) (o : Outstanding) : State :=
  withChain { chainA with outst := [o] } [(0, k)] { thrA with loads := [ldFar], inflight := [⟨some 9, none⟩] }

theorem answers (k : Packet) (o : Outstanding) (h : o.tag = k.tag) : Answers (sResp k o) 0 k.type k o where
  head := by simp [sResp, withChain, rxHead, only]
  request := by simp [sResp, withChain, h]
  free := rfl

theorem test_hyps_ChainRequests : (Arrives (rx kRead) 0 pRead kRead 0 ∧ Arrives (rx kFar) 0 pRead kFar 0 ∧ Arrives (rx kWrite) 0 pWrite kWrite 0 ∧
      Arrives (rx kAdd) 0 pAtomic kAdd 0 ∧ Arrives (rx kTok) 0 pToken kTok 0 ∧ Answers (sResp kData outLoad) 0 pReadResp kData outLoad ∧
      Answers (sResp kAck outStore) 0 pAck kAck outStore ∧ Answers (sResp kErr outStore) 0 pErr kErr outStore) ∧
    (kRead.payload.length = 2 ∧ arrival (rx kRead) kRead.addr.toNat (leNat kRead.payload) = .ok ∧
      poisonAt (rx kRead) kRead.addr.toNat (leNat kRead.payload) = none) ∧
    (∃ c, arrival (rx kFar) kFar.addr.toNat (leNat kFar.payload) = .refuse c ∧ c ≠ 2) ∧
    (arrival (rx kWrite) kWrite.addr.toNat kWrite.payload.length = .ok ∧ kAdd.ext &&& 0xFF#64 = 0x91#64 ∧ 8 ≤ kAdd.payload.length ∧
      arrival (rx kAdd) kAdd.addr.toNat 8 = .ok) ∧
    ((rx kTok).fer.handoffs = [] ∧ tokenCheck (rx kTok) ⟨.ns, none⟩ (kTok.addr.setWidth 64) = .ok ∧ kTok.ext.getLsbD 0 = false ∧
      dGet (rx kTok) 0x3000 dState 1 = 1 ∧ dGet (rx kTok) 0x3000 dCount 2 ≠ 1) ∧
    (((sResp kData outLoad).thr t0).loads = [ldFar] ∧ ldFar.tag = some outLoad.tag ∧ ldFar.fwd = [] ∧ ldFar.size = 4 ∧
      kData.payload.length = ldFar.size) ∧ ((sResp kAck outStore).thr t0).inflight = [⟨some kAck.tag, none⟩] ∧ kErr.ext = 2 := by
  refine ⟨⟨arrives _ _ (by decide), arrives _ _ (by decide), arrives _ _ (by decide), arrives _ _ (by decide), arrives _ _ (by decide),
    answers _ _ rfl, answers _ _ rfl, answers _ _ rfl⟩, ?_, ⟨_, rfl, by decide⟩, ?_, ?_, ?_, ?_, ?_⟩ <;> decide

def recB : Membership := { recA with epoch := 9 }
def kFenced : Packet := { kAck with type := pFenced }
def kMember : Packet := { kRead with type := pMember, vc := 3, payload := memberBytes recB }
def kJoin : Packet := { kRead with type := pJoin, vc := 3, ext := 55, payload := [] }
def kLeave : Packet := { kRead with type := pLeave, vc := 3, payload := [] }
def kProbe : Packet := { kRead with type := pProbe, vc := 3, ext := 1, payload := [] }
def kAlive : Packet := { kRead with type := pProbeResp, vc := 3, ext := 7, payload := [] }
def kReroute : Packet := { kRead with type := pReroute, vc := 1, payload := packetBytes { kRead with dst := 0xFFFE } }
def sMember : State := withChain chainB [(0, kMember)]
def sHeadless : State := withChain { chainA with headProbe := true, head := 2 } [(0, kAlive)]
def sProbed : State := withChain { chainA with probes := [(2, 5)] } []

theorem idle_chain (c : Chain) (l : List (Nat × Packet)) (h : c.outst = [] ∧ c.heldRx = [] ∧ c.heldTx = [] ∧ c.heldBeats = []) :
    IdleChain (withChain c l) := ⟨rfl, h.1, h.2.1, h.2.2.1, h.2.2.2⟩
theorem in_recA {m : BitVec 16 × Word} (h : m ∈ recA.members ++ recA.spares) : m = (1, 77) ∨ m = (2, 88) ∨ m = (3, 99) := by
  simpa [recA] using h
theorem listed_A (c : Chain) (l : List (Nat × Packet)) (h : c.addr = 1) : Listed (withChain c l) recA where
  own := by show (c.addr, (77 : Word)) ∈ recA.members; rw [h]; simp [recA]
  address := by
    intro m hm
    rcases in_recA hm with q | q | q <;> subst q
    · exact fun _ => rfl
    · show (2 : BitVec 16) = c.addr → (88 : Word) = 77; rw [h]; decide
    · show (3 : BitVec 16) = c.addr → (99 : Word) = 77; rw [h]; decide
  serial := by
    intro m hm
    rcases in_recA hm with q | q | q <;> subst q
    · exact fun _ => h.symm
    · show (88 : Word) = 77 → (2 : BitVec 16) = c.addr; intro q; exact absurd q (by decide)
    · show (99 : Word) = 77 → (3 : BitVec 16) = c.addr; intro q; exact absurd q (by decide)
  low := by show c.addr.toNat < 0x8000; rw [h]; decide
  apart := by intro m hm; cases hm

theorem test_hyps_ChainMembership : (IdleChain sMember ∧ IdleChain (rx kJoin) ∧ Listed (rx kJoin) recA ∧ IdleChain sProbed ∧ Listed sProbed recA ∧
      Listed sHeadless recA ∧ Arrives (rx kProbe) 0 pProbe kProbe 0) ∧
    (rxHead (rx kFenced) 0 pFenced = some kFenced ∧ (rx kFenced).chain.st ≠ .fenced) ∧
    (rxHead sMember 0 pMember = some kMember ∧ kMember.payload ≠ [] ∧ memberOf (kMember.payload.drop 4) = recB ∧ 4 + leNat (kMember.payload.take 4) ≤ kMember.payload.length ∧ sMember.chain.parts = [] ∧ sMember.chain.rec_ = none ∧
      sMember.chain.joining = false ∧ (recB.members ++ recB.spares).find? (fun m => m.2 == sMember.sec.fuses.serial) = some (1, 77)) ∧
    (rxHead (rx kJoin) 0 pJoin = some kJoin ∧ isHead (rx kJoin) = true ∧ (rx kJoin).chain.rec_ = some recA ∧ recA.spares = [] ∧
      recA.members.length < 4096 ∧ kJoin.ext ≠ (rx kJoin).sec.fuses.serial ∧ (∀ m ∈ recA.members, m.2 ≠ kJoin.ext)) ∧
    (rxHead (rx kLeave) 0 pLeave = some kLeave ∧ kLeave.src = 2 ∧ (2 : BitVec 16) ≠ sProbed.chain.addr ∧ (∃ m ∈ recA.members, m.1 = 2) ∧
      sProbed.chain.probes.any (fun q => q.1 == 2) = true) ∧
    (kProbe.ext.setWidth 16 = (rx kProbe).chain.addr ∧ rxHead sHeadless 0 pProbeResp = some kAlive ∧ isHead sHeadless = false ∧
      sHeadless.chain.heldTx = []) ∧ (∀ q, q < 40 → (port sHeadless q).partner ≠ kAlive.ext.setWidth 16) ∧
    (sHeadless.chain.headProbe = true ∧ sHeadless.chain.st ≠ .fenced ∧ 3 ≤ (chainOrder recA.members).length) ∧
    (let s := withChain chainB [(0, kReroute)]
     rxHead s 0 pReroute = some kReroute ∧ (packetOf kReroute.payload).dst = 0xFFFE ∧ (packetOf kReroute.payload).type ≠ pEnum ∧
       (packetOf kReroute.payload).type ≠ pClaim) := by
  refine ⟨⟨idle_chain _ _ ⟨rfl, rfl, rfl, rfl⟩, idle_chain _ _ ⟨rfl, rfl, rfl, rfl⟩, listed_A _ _ rfl, idle_chain _ _ ⟨rfl, rfl, rfl, rfl⟩, listed_A _ _ rfl,
    listed_A _ _ rfl, arrives _ _ (by decide)⟩, ?_, ?_, ⟨by decide, by decide, by decide, by decide, by decide, by decide, ?_⟩,
    ⟨by decide, by decide, by decide, ⟨(2, 88), by simp [recA], rfl⟩, by decide⟩, ?_, ?_, ?_, ?_⟩
  case refine_3 =>
    intro m hm
    rcases in_recA (List.mem_append_left _ hm) with q | q | q <;> subst q <;> decide
  all_goals decide

def pEnumerate : List Byte := packet 0x80 false []
def pStatus : List Byte := packet 0x81 false [(8, 1, 1), (0x10, 8, 0x9000), (0x18, 4, 8)]
def pRelease : List Byte := packet 0x82 false []
def kcpChain (p : List Byte) (c : Chain) : State :=
  { sK p with chain := c, sec := { ({} : Sec) with fuses := { ({} : Fuses) with serial := 77 } }, plat := { platA with cref0 := true, cref1 := true } }
def chainU : Chain := { ({} : Chain) with ports := [(0, portA), (20, { portA with partner := 3, pport := 0 })] }
def kEnum : Packet := { kRead with type := pEnum, vc := 3, ext := 0x0000000100000004, payload := [] }
def kTopo : Packet := { kRead with type := pTopo, vc := 3, src := 4, ext := 444, payload := [] }
def kClaim : Packet := { kRead with type := pClaim, vc := 3, ext := 5, payload := [] }
def chainE : Chain := { chainU with st := .enumerating, addr := 1, head := 1 }

theorem starts_enum : Starts (kcpChain pEnumerate {}) 0x80 2 3 (command pEnumerate) .ns := by constructor <;> decide
theorem starts_status : Starts (kcpChain pStatus chainA) 0x81 2 3 (command pStatus) .ns := by constructor <;> decide
theorem starts_release : Starts (kcpChain pRelease chainA) 0x82 2 3 (command pRelease) .ns := by constructor <;> decide

theorem test_hyps_ChainEnumeration : (Starts (kcpChain pEnumerate {}) 0x80 2 3 (command pEnumerate) .ns ∧ IdleChain (kcpChain pEnumerate {}) ∧
      Starts (kcpChain pStatus chainA) 0x81 2 3 (command pStatus) .ns ∧ Starts (kcpChain pRelease chainA) 0x82 2 3 (command pRelease) .ns) ∧
    ((kcpChain pEnumerate {}).chain.st = .unaddressed ∧ (kcpChain pEnumerate {}).chain.joining = false ∧
      (kcpChain pEnumerate {}).chain.rec_ = none ∧ (kcpChain pEnumerate {}).chain.topo = []) ∧
    (∀ p, p < 40 → portUp (kcpChain pEnumerate {}) p = false) ∧
    (let s := withChain chainU [(0, kEnum)]
     rxHead s 0 pEnum = some kEnum ∧ s.chain.st = .unaddressed ∧ s.chain.addr = 0xFFFF ∧ (ctlGet s rChnCtl).getLsbD 0 = false ∧
       portUp s 0 = true ∧ portUp s (mate 0) = true ∧ 0 ≠ mate 0 ∧ (kEnum.ext &&& 0xFFFF#64).toNat = 4 ∧
       (kEnum.ext >>> 32 &&& 0xFFFF#64).toNat = 1 ∧ kEnum.ext.toNat < 2 ^ 48) ∧
    (let s := withChain chainE [(0, kTopo)]
     rxHead s 0 pTopo = some kTopo ∧ s.chain.st = .enumerating ∧ s.chain.addr = s.chain.head ∧ s.chain.counted = 0) ∧
    (let s := withChain chainU [(0, kClaim)]
     rxHead s 0 pClaim = some kClaim ∧ s.chain.claiming = false ∧ s.plat.straps.getLsbD 0 = false ∧ portUp s (mate 0) = true) ∧
    (arg (command pStatus) 8 1 % 2 = 1 ∧ arg (command pStatus) 0x18 4 = 8 ∧ (kcpChain pRelease chainA).chain.st = .member ∧
      (kcpChain pRelease chainA).chain.outst = []) := by
  refine ⟨⟨starts_enum, ⟨rfl, rfl, rfl, rfl, rfl⟩, starts_status, starts_release⟩, ?_, ?_, ?_, ?_, ?_, ?_⟩ <;> decide

/-- A READ of 8 bytes is answered with them out of port 0; an ATOMIC ADD of 0xFF carries from the first byte (R408, R411). -/
theorem test_requests : after (.readPkt 0) (rx kRead) (fun u => u.out.any (fun o => match o with
      | .packet 0 k => k.type == pReadResp && k.dst == 2 && k.tag == 9 && k.payload == [0x11, 0x22, 0x33, 0x44, 0x55, 0x66, 0x77, 0x88]
      | _ => false)) = true ∧
    after (.atomicPkt 0) (rx kAdd) (fun u => memRead u 0x1000 3 == [0x10, 0x23, 0x33]) = true ∧
    after (.readResp 0) (sResp kData outLoad) (fun u => (u.thr t0).loads.map (fun q => q.val) == [some 0xFFFFFFFF84030201]) = true := by decide

/-- The head takes serial number 55 as a spare and takes the dead device 2 out, one epoch each (R417, R418). -/
theorem test_membership : after (.joinPkt 0) (rx kJoin) (fun u => u.chain.rec_.map (fun r => (r.epoch, r.spares)) == some (6, [(0x8000, 55)])) = true ∧
    after (.probeTimeout 2) sProbed (fun u => u.chain.rec_.map (fun r => (r.epoch, r.members)) == some (6, [(1, 77), (3, 99)])) = true ∧
    after (.fencedPkt 0) (rx kFenced) (fun u => u.chain.st == .fenced) = true := by decide

/-- ENUM gives address 4 here and goes on with 5 and one device more (Table 11-6). -/
theorem test_enum : after (.enumPkt 0) (withChain chainU [(0, kEnum)]) (fun u => u.chain.addr == 4 && u.out.any (fun o => match o with
    | .packet 20 k => k.type == pEnum && k.ext == 0x0000000200000005
    | _ => false)) = true := by decide


/-! More witnesses of the chain's statements: `test_hyps_<statement>_<clauses>` -/

def sNarrow : State := withChain { chainB with ports := [(0, { portA with st := .down, degraded := [0, 1, 2, 3, 4, 5] })] } []
theorem test_hyps_ChainPorts_training : (portClock sDown 0 = true ∧ portOn sDown 0 = false ∧ (port sDown 0).st ≠ .partnerFenced ∧
      4 ≤ ((List.range 9).filter (fun l => !(port sDown 0).degraded.contains l)).length ∧ sDown.chain.enumPort = none) ∧
    (portClock sNarrow 0 = true ∧ portOn sNarrow 0 = false ∧
      ((List.range 9).filter (fun l => !(port sNarrow 0).degraded.contains l)).length < 4) ∧ (3 : BitVec 8).toNat ≠ (if 0 < 20 then 0 + 20 else 0 - 20) := by
  decide

/-- The packets of a flit: for this device, for device 3, of an epoch that is too old, of a newer one. -/
def kThird : Packet := { kRead with dst := 3 }
def kStale : Packet := { kRead with epoch := 0xFFF5 }
def kNewer : Packet := { kRead with epoch := 7 }
def sNaks (n : Nat) : State := withChain { chainA with ports := [(0, { portA with nakSeq := 10, naks := n, txNakSeq := 2, txNaks := n }), (20, { portA with partner := 3, pport := 0 })] } []
theorem test_hyps_ChainPorts_judged : (linkLive sRec 0 = true ∧ judge sRec kRead = .accept ∧ isSelf sRec kRead.dst = true ∧ kRead.dst ≠ 0xFFFE) ∧
    (judge sRec kThird = .accept ∧ isSelf sRec 3 = false ∧ 1 < kThird.hops.toNat ∧ route sRec 3 = some 20 ∧ (port sRec 20).st ≠ .training) ∧
    judge sRec kStale = .stale ∧ judge sRec kNewer = .newer ∧ (0x8000 ≤ (BitVec.ofNat 16 9 - ((port sRec 0).rxSeq + 1)).toNat) ∧
    (linkLive (sNaks 15) 0 = true ∧ (port (sNaks 15) 0).nakSeq = (port (sNaks 15) 0).rxSeq + 1 ∧ 15 ≤ (port (sNaks 15) 0).naks ∧
      (port (sNaks 15) 0).txNakSeq = 2 ∧ ¬15 ≤ (port (sNaks 14) 0).txNaks) := by
  refine ⟨?_, ?_, ?_, ?_, ?_, ?_⟩ <;> decide

def sLanes (st : PState) (d : List Nat) : State := withChain { chainA with ports := [(0, { portA with st := st, degraded := d })] } []
theorem test_hyps_ChainPorts_lanes : (portUp (sLanes .up [4]) 0 = true ∧ 4 ∈ (port (sLanes .up [4]) 0).degraded ∧ (5 : Fin 9).val ∉ (port (sLanes .up [4]) 0).degraded ∧
      4 ≤ ((List.range 9).filter (fun k => !((port (sLanes .up [4]) 0).degraded ++ [5]).contains k)).length ∧ (port (sLanes .up [4]) 0).narrow = false) ∧
    (portUp (sLanes .up []) 0 = true ∧ (port (sLanes .up []) 0).degraded = [] ∧ (port (sLanes .up []) 0).narrow = false ∧ (3 : Fin 9).val ≠ 8 ∧ (8 : Fin 9).val = 8) ∧
    (let d := [0, 1, 2, 3, 4]
     portUp (sLanes .up4 d) 0 = true ∧ ((List.range 9).filter (fun k => !(d ++ [5]).contains k)).length < 4) ∧
    (let d := [0, 1]
     portUp (sLanes .up4 d) 0 = true ∧ 4 ≤ ((List.range 9).filter (fun k => !(d ++ [5]).contains k)).length ∧ 2 ≤ d.length) ∧
    (linkLive (sLanes .up []) 0 = true ∧ (port (sLanes .up []) 0).moving = false ∧ (port (sLanes .up []) 0).st = .up) ∧
    ((port (sLanes .training []) 0).st = .training ∧ portClock (sLanes .training []) 0 = true ∧ (port (sLanes .training []) 0).replay ≠ []) := by
  decide

def beatA : Beat := { addr := 2, epoch := 5, state := 2, port := 20, serial := 88 }
def sSilent (c : Chain) : State :=
  withChain { c with ports := [(0, { portA with miss := deadCount (withChain chainA []) - 1 }), (20, { portA with partner := 3, pport := 0 })] } []
def sHeadA : State := sSilent chainA
def sHeadC : State := sSilent { chainA with head := 3, rec_ := some { recA with head := 3 } }
theorem test_hyps_ChainPorts_beats : (linkLive sRec 0 = true ∧ verdict sRec beatA.epoch beatA.addr = .accept ∧ beatA.state.toNat ≠ 4 ∧ (port sRec 0).st ≠ .partnerFenced) ∧
    verdict sRec 0xFFF5 2 = .stale ∧ verdict sRec 0xFFF6 2 = .accept ∧ verdict sRec 7 2 = .newer ∧
    (linkLive sHeadA 0 = true ∧ (port sHeadA 0).miss + 1 = deadCount sHeadA ∧ (port sHeadA 0).partner = 2 ∧ isHead sHeadA = true ∧
      sHeadA.chain.rec_ = some recA ∧ (∃ m ∈ recA.members ++ recA.spares, m.1 = 2) ∧ (∀ q ∈ sHeadA.chain.probes, q.1 ≠ 2)) ∧
    (linkLive sHeadC 0 = true ∧ (port sHeadC 0).miss + 1 = deadCount sHeadC ∧ isHead sHeadC = false ∧
      probeRoute (setPort sHeadC 0 { port sHeadC 0 with miss := (port sHeadC 0).miss + 1 }) sHeadC.chain.head = some 20 ∧
      (port sHeadC 20).st ≠ .training) := by
  refine ⟨?_, ?_, ?_, ?_, ⟨?_, ?_, ?_, ?_, ?_, ⟨(2, 88), by simp [recA], rfl⟩, all_in ?_⟩, ?_⟩ <;> decide

/-- Requests to a poisoned line, to memory of world S, and to memory whose island's clock is held. -/
def sRxP (k : Packet) : State := { rx k with mem := { (rx k).mem with poison := [0x1000] } }
def sRxS (k : Packet) : State := { rx k with mem := { (rx k).mem with rat := [(512, 16)] } }
def sHeldMem (k : Packet) : State := { rx k with plat := { (rx k).plat with heldClocks := memIslands (rx k) 0x1000 } }
def ackMove (at_ piece : Nat) : Move := { src := .mem 0x1000, dst := 0x0002000000002020, host := false, n := 70, at_ := at_, tag := some 9, got := some (List.replicate piece 1) }
def moveCmd (m : Move) : Cmd := { command (packet 0x10 false []) with wait := .move m }
def sMover (m : Move) (k : Packet) : State :=
  { withChain { chainA with outst := [{ tag := 9, dst := 2, origin := .mover 2 3, pkt := kRead }] } [(0, k)] with
      host := { linkUp := true, queues := [(2, queueA .ns)], cmds := [moveCmd m] } }
theorem test_hyps_ChainRequests_refused : (poisonAt (sRxP kRead) 0x1000 8 ≠ none ∧ arrival (sRxP kRead) 0x1000 8 = .ok ∧ route (sRxP kRead) 2 = some 0 ∧
      rxHead (sRxP kRead) 0 pRead = some kRead) ∧
    (poisonAt (sRxP kAdd) 0x1000 8 ≠ none ∧ arrival (sRxP kAdd) 0x1000 8 = .ok ∧ rxHead (sRxP kAdd) 0 pAtomic = some kAdd) ∧
    ((∃ c, arrival (sRxS kRead) 0x1000 8 = .refuse c ∧ c = 2) ∧ (∃ c, arrival (sRxS kWrite) 0x1000 4 = .refuse c) ∧
      (∃ c, arrival (sRxS kAdd) 0x1000 8 = .refuse c) ∧ tokenCheck (sRxS kTok) ⟨.ns, none⟩ 0x3000 = .trap xWorld 0x302C ∧
      route (sRxS kTok) 2 = some 0) ∧
    (arrival (sHeldMem kRead) 0x1000 8 = .later ∧ arrival (sHeldMem kWrite) 0x1000 4 = .later) ∧ (QuietBus (rx kRead) 0x1000 8 ∧ QuietBus (rx kWrite) 0x1000 4 ∧ QuietBus (rx kAdd) 0x1000 8) := by
  refine ⟨by decide, by decide, ⟨⟨_, rfl, by decide⟩, ⟨_, rfl⟩, ⟨_, rfl⟩, by decide, by decide⟩, by decide, quietBus_one rfl rfl, quietBus_one rfl rfl, quietBus_one rfl rfl⟩

theorem test_hyps_ChainRequests_answers : (Answers (sResp { kErr with ext := 1 } outLoad) 0 pErr { kErr with ext := 1 } outLoad ∧
      Answers (sResp { kErr with ext := 3 } outLoad) 0 pErr { kErr with ext := 3 } outLoad) ∧
    (outLoad.origin = .load t0 ∧ ((sResp kErr outLoad).thr t0).loads.find? (fun x => x.tag == some outLoad.tag) = some ldFar) ∧
    (outStore.origin = .store t0 entFar ∧ ((sResp kErr outStore).thr t0).inflight.any (fun q => q.tag == some outStore.tag) = true) ∧
    (let m := ackMove 32 38
     (sMover m kAck).cmd? 2 3 = some (moveCmd m) ∧ (moveCmd m).op = 0x10 ∧ m.tag = some 9 ∧ m.n ≤ m.at_ + m.piece ∧
       rxHead (sMover m kAck) 0 pAck = some kAck ∧ rxHead (sMover m kErr) 0 pErr = some kErr ∧ (sMover m kErr).chain.heldTx = [] ∧
       (sMover m kErr).host.cmds.find? (fun c => c.q == 2 && c.n == 3) = some (moveCmd m)) := by
  refine ⟨⟨answers _ _ rfl, answers _ _ rfl⟩, by decide, by decide, by decide⟩

/-- MEMBER: of a newer record that lists this device's address for another one, that lists this device, and that does not; of the
record in force, and of an older one. -/
def kMem (r : Membership) : Packet := { kMember with payload := memberBytes r }
def recOther : Membership := { recA with epoch := 6, members := [(1, 55), (2, 88)] }
def recGone : Membership := { recA with epoch := 6, members := [(2, 88)] }
def recOld : Membership := { recA with epoch := 4 }
theorem test_hyps_ChainMembership_records : IdleChain (rx (kMem recB)) ∧ (∀ r ∈ [recA, recB, recOther, recGone, recOld],
      memberOf ((kMem r).payload.drop 4) = r ∧ rxHead (rx (kMem r)) 0 pMember = some (kMem r) ∧
        4 + leNat ((kMem r).payload.take 4) ≤ (kMem r).payload.length) ∧
    ((rx (kMem recB)).chain.rec_ = some recA ∧ (rx (kMem recB)).sec.fuses.serial = 77 ∧ (recB.epoch - recA.epoch).toNat < 0x8000 ∧
      (recB.members ++ recB.spares).any (fun m => m.1 == 1 && m.2 != 77) = false ∧
      (recB.members ++ recB.spares).find? (fun m => m.2 == 77) = some (1, 77)) ∧
    ((recOther.members ++ recOther.spares).any (fun m => m.1 == 1 && m.2 != 77) = true ∧ (recOther.epoch - recA.epoch).toNat < 0x8000) ∧
    ((recGone.members ++ recGone.spares).any (fun m => m.1 == 1 && m.2 != 77) = false ∧
      (recGone.members ++ recGone.spares).find? (fun m => m.2 == 77) = none) ∧
    0x8000 ≤ (recOld.epoch - recA.epoch).toNat := by
  refine ⟨idle_chain _ _ ⟨rfl, rfl, rfl, rfl⟩, ?_⟩
  decide

/-- A head with 4,096 devices; one whose lowest spare takes over; the largest part of the domain at a lost head's, half of it, and less. -/
def recSpare : Membership := { recA with members := [(1, 77), (2, 88)], spares := [(0x8000, 99), (0x8001, 98)] }
def recFour : Membership := { recA with members := [(1, 77), (2, 88), (3, 99), (4, 100)], head := 3 }
def sLost : State := withChain { chainA with rec_ := some recFour, head := 3, headProbe := true } []
theorem listed_spare : Listed (withChain { chainA with rec_ := some recSpare, probes := [(2, 5)] } []) recSpare :=
  ⟨by decide, all_in (by decide), all_in (by decide), by decide, all_in (by decide)⟩
theorem listed_four : Listed sLost recFour :=
  ⟨by decide, all_in (by decide), all_in (by decide), by decide, all_in (by decide)⟩
theorem test_hyps_ChainMembership_head : Listed (withChain { chainA with rec_ := some recSpare, probes := [(2, 5)] } []) recSpare ∧
    ((2, 88) ∈ recSpare.members ∧ (0x8000, 99) ∈ recSpare.spares ∧
      ∀ m ∈ recSpare.spares, m ≠ ((0x8000, 99) : BitVec 16 × Word) → (0x8000 : BitVec 16) < m.1) ∧
    (let s := rx kProbe
     rxHead s 0 pProbe = some kProbe ∧ kProbe.ext.setWidth 16 = s.chain.addr ∧ probeRoute s 2 = some 0 ∧ (port s 0).st ≠ .training) ∧
    (let ms := chainOrder recFour.members
     sLost.chain.rec_ = some recFour ∧ sLost.chain.headProbe = true ∧ ms.length = 4 ∧ ms.head? = some 1 ∧
       (ms.filter (fun a => a == 1 || ([2] : List (BitVec 16)).contains a)) = [1, 2] ∧
       (ms.filter (fun a => a == 1 || ([] : List (BitVec 16)).contains a)) = [1] ∧
       ([1, 2] : List (BitVec 16)).find? (fun a => 3 < a) = none ∧ ([1, 2, 4] : List (BitVec 16)).find? (fun a => 3 < a) = some 4) ∧
    (Listed sLost recFour ∧ IdleChain sLost ∧ recFour.head = sLost.chain.head ∧ recFour.head ≠ sLost.chain.addr ∧
      ∃ m ∈ recFour.members ++ recFour.spares, m.1 = recFour.head) ∧
    (let s := rx kReroute
     rxHead s 0 pReroute = some kReroute ∧ s.chain.parts = [] ∧ 32 + leNat ((kReroute.payload.drop 10).take 2) ≤ kReroute.payload.length) := by
  refine ⟨listed_spare, ⟨by decide, by decide, all_in (by decide)⟩, by decide, by decide, ⟨listed_four, idle_chain _ _ ⟨rfl, rfl, rfl, rfl⟩, by decide, by decide, ⟨(3, 99), by simp [recFour], rfl⟩⟩, by decide⟩

/-- CHAIN_ENUMERATE beside an addressed neighbour, beside one that has none, in each state that ends it at once, and from world S. -/
def chainN : Chain := { ({} : Chain) with ports := [(0, { portA with partner := 0 })] }
theorem test_hyps_ChainEnumeration_start : (Starts (kcpChain pEnumerate chainU) 0x80 2 3 (command pEnumerate) .ns ∧
      addressedPort (kcpChain pEnumerate chainU) = some 0 ∧ (port (kcpChain pEnumerate chainU) 0).st ≠ .training ∧ chainU.st = .unaddressed ∧
      chainU.joining = false) ∧
    (Starts (kcpChain pEnumerate chainN) 0x80 2 3 (command pEnumerate) .ns ∧ addressedPort (kcpChain pEnumerate chainN) = none ∧
      portUp (kcpChain pEnumerate chainN) 0 = true) ∧
    (Starts (kcpChain pEnumerate chainE) 0x80 2 3 (command pEnumerate) .ns ∧ chainE.st = .enumerating) ∧
    (Starts (kcpChain pEnumerate chainA) 0x80 2 3 (command pEnumerate) .ns ∧ chainA.st = .member) ∧
    Starts (sS (packet 0x80 true [])) 0x80 2 3 (command (packet 0x80 true [])) .s := by
  refine ⟨⟨?_, by decide⟩, ⟨?_, by decide⟩, ⟨?_, by decide⟩, ⟨?_, by decide⟩, ?_⟩ <;> constructor <;> decide

/-- ENUM of 4,096 devices, and back at the head; CLAIM where this device is strapped, and of a device that comes before or after it. -/
def kEnumFull : Packet := { kEnum with ext := 0x0000100000000004 }
def sStrap (k : Packet) : State :=
  { withChain chainU [(0, k)] with plat := { platA with cref0 := true, cref1 := true, straps := 1 } }
def sClaiming (k : Packet) : State := withChain { chainU with claiming := true, st := .enumerating } [(0, k)]
theorem test_hyps_ChainEnumeration_ring : (rxHead (withChain chainU [(0, kEnumFull)]) 0 pEnum = some kEnumFull ∧
      4096 ≤ (kEnumFull.ext >>> 32 &&& 0xFFFF#64).toNat ∧ portOn (withChain chainU []) (mate 0) = true) ∧
    (let s := withChain { chainE with ports := [(20, portA)] } [(20, kEnum)]
     rxHead s 20 pEnum = some kEnum ∧ portUp s 20 = true ∧ s.chain.addr = s.chain.head ∧ (20 : Fin 40).val ≠ 0 ∧
       s.chain.found.length < (kEnum.ext >>> 32 &&& 0xFFFF#64).toNat ∧ s.chain.rec_ = none) ∧
    (rxHead (sStrap kClaim) 0 pClaim = some kClaim ∧ takesOver (sStrap kClaim) kClaim = true ∧ (sStrap kClaim).chain.rec_ = none) ∧
    (takesOver (withChain chainU [(0, kClaim)]) kClaim = false) ∧
    (let s := sClaiming kClaim
     rxHead s 0 pClaim = some kClaim ∧ s.chain.claiming = true ∧ kClaim.ext ≠ s.sec.fuses.serial ∧
       kClaim.payload ≠ leBytes 8 s.sec.fuses.serial.toNat ∧ precedes (kClaim.addr.getLsbD 0) 5 (s.plat.straps.getLsbD 0) 77 = true ∧
       precedes (kClaim.addr.getLsbD 0) 200 (s.plat.straps.getLsbD 0) 77 = false) := by decide

/-- TOPO of the last device counted, and of one after the record took force; CHAIN_STATUS to local memory. -/
def sLastTopo : State := withChain { chainE with found := [(1, 77)], counted := 2 } [(0, kTopo)]
def pStatusL : List Byte := packet 0x81 false [(0x10, 8, 0x9000), (0x18, 4, 1000)]
theorem test_hyps_ChainEnumeration_end : (rxHead sLastTopo 0 pTopo = some kTopo ∧
      (let found := sLastTopo.chain.found.filter (fun m => m.1 != kTopo.src) ++ [(kTopo.src, kTopo.ext)]
       sLastTopo.chain.counted ≤ found.length ∧ (∀ m ∈ found, m.2 = sLastTopo.sec.fuses.serial ↔ m.1 = sLastTopo.chain.addr) ∧
         (∃ m ∈ found, m.1 = sLastTopo.chain.addr)) ∧ sLastTopo.chain.joining = false ∧ sLastTopo.chain.claiming = false) ∧
    IdleChain sLastTopo ∧ (rxHead (rx kTopo) 0 pTopo = some kTopo ∧ (rx kTopo).chain.rec_ = some recA ∧ isHead (rx kTopo) = true) ∧
    (Starts (kcpChain pStatusL chainA) 0x81 2 3 (command pStatusL) .ns ∧ arg (command pStatusL) 8 1 % 2 = 0 ∧
      LocalRange (kcpChain pStatusL chainA) .ns 0x9000 ((statusBlock (kcpChain pStatusL chainA)).take 1000).length) ∧
    (let s := kcpChain pRelease { chainA with head := 2 }
     s.chain.rec_.isSome = true ∧ isHead s = false ∧ route s 2 = some 0 ∧ routeWaits s 2 = false ∧ (port s 0).st ≠ .training) := by
  refine ⟨⟨by decide, ⟨by decide, all_in (by decide), ⟨(1, 77), by simp [sLastTopo, withChain, chainE, chainU, kTopo], rfl⟩⟩, by decide, by decide⟩,
    idle_chain _ _ ⟨rfl, rfl, rfl, rfl⟩, by decide, ⟨?_, by decide, ?_⟩, by decide⟩
  · constructor <;> decide
  · apply local_of rfl rfl <;> decide

/-! ## Platform and start-up -/

def withPlat (p : Plat) : State := { only thrA with plat := p, host := { ({} : HostIf) with linkUp := true } }
def storeA : Store :=
  { ({} : Store) with half0 := { entries := [⟨1, 7, [1, 2, 3]⟩], erased := false }, half1 := { entries := [⟨2, 8, [4]⟩], erased := false }
                      nextSeq := 12, repair := [⟨1, 2, 3, 4, 5⟩] }
def withStore (st : Store) (p : Plat) : State := { withPlat p with store := st }
def compacting (c : Compact) (active : Bool) : State := withStore { storeA with compact := some c, active := active } platA
def platOff : Plat := { platA with started := false, ready := false }
def atStage5 : State := withStore storeA { platA with ready := false, stage := 5, advance := some 7 }

theorem test_hyps_ClocksAndManagement : sA.plat.started = true ∧ 3 ∈ ({ platA with hbmDue := [3, 5] } : Plat).hbmDue ∧
    (∀ b : Fin 2, clockDown sA b.val = false) ∧ sA.chain.rec_ = none ∧
    (∀ a ∈ [Agent.host, Agent.thread t0, Agent.sup 0], reachesReg (withPlat platA) a rDevTime 4 ∧ reachesReg (withPlat platA) a (rDevTime + 4) 4) ∧
    mget? ({ platA with shadow := [(0x10, 0x77)] } : Plat).shadow 0x10 = some 0x77 := by
  unfold reachesReg
  refine ⟨?_, ?_, ?_, ?_, ?_, ?_⟩ <;> decide

theorem test_hyps_RunEnds : ((true && false) = false ∧ (false && true) = false) ∧ sA.plat.pwrOk = true ∧ sA.plat.stop = none ∧
    (0 < 26 ∧ 0 ≠ 1 ∧ 25 < 26) ∧ (storeA.compact = none ∧ sA.store.compact = none) := by decide

def coldEnv (t : Nat) : Temps := ⟨List.replicate 4 t, List.replicate 2 t, List.replicate 8 t⟩

theorem test_hyps_StartUp : ((withPlat platOff).plat.started = false ∧ (withPlat platOff).plat.stop = none) ∧
    ({ envA with romOk := (false, false) }.railBad = false ∧ allBelow envA.temps 85 = true ∧ allBelow (coldEnv 84) 85 = true ∧
      allBelow (coldEnv 85) 85 = false) ∧
    ((envA.romOk.1 || envA.romOk.2) = true ∧ envA.hbmFail = none) ∧
    (let s := withPlat { platOff with held := some { envA with bootSel := true } }
     s.plat.held = some { envA with bootSel := true } ∧ allBelow s.pwr.temps 85 = true) ∧
    (mayReady atStage5 = true ∧ atStage5.store.stops = [] ∧ atStage5.plat.kept = []) ∧
    (let s := { sA with ctl := [(rMemMrd, 0x100000000)] }
     s.plat.ready = true ∧ s.mem.zeroed < mrdGranules s) := by
  refine ⟨?_, ?_, ?_, ?_, ?_, ?_⟩ <;> decide

theorem test_hyps_Journal : ((withStore { storeA with jqueue := [(3, [1])] } platA).store.compact = none ∧
      (withStore { storeA with jqueue := [(3, [1])] } platA).store.jqueue ≠ [] ∧ (withStore storeA { platA with compactDue := true }).plat.compactDue = true) ∧
    ((compacting .erase true).store.compact = some .erase ∧ (compacting .snapshot false).store.compact = some .snapshot ∧
      (compacting .commit true).store.compact = some .commit ∧ (compacting .commit true).store.jqueue = [] ∧
      (compacting .eraseOld false).store.compact = some .eraseOld) ∧ (255 < 256 ∧ 0xFFFFFFFF < 2 ^ 32) := by decide

/-- IDCODE shifts out 0x100485BB from its lowest bit (R50); a rail's failure stops the device and is not undone by a second. -/
theorem test_platform : after .idcode sA (fun u => match u.out with
      | [.tdo o] => o.take 8 == [true, true, false, true, true, true, false, true] && o.length == 32
      | _ => false) = true ∧
    after (.railFault 3) sA (fun u => u.plat.stop == some (.rail 3) && u.plat.stage == 0xE && u.threads.isEmpty) = true ∧
    after .devReady atStage5 (fun u => ctlGet u rStart == 0x100000001 && u.sec.fuses.fused == 7) = true := by decide

/-- A start with no ROM that passes fails; one of a device held for heat waits (R532, R525). -/
theorem test_start : after (.deviceStart { envA with romOk := (false, false) }) (withPlat platOff)
      (fun u => u.plat.bootFailed && u.plat.stage == 0xF && wbits (ctlGet u rStart) 20 4 == 1) = true ∧
    after (.deviceStart { envA with temps := coldEnv 85 }) (withPlat platOff) (fun u => u.plat.held.isSome && !u.plat.started) = true := by decide

def heldPlat : Plat := { platOff with held := some envA, stop := some .thermal, stage := 0xE }
theorem test_hyps_ClocksAndManagement_more : ((∀ d, Island.lathe 3 ≠ .management d) ∧ sA.pwr.posted = [] ∧ sA.fer.handoffs = []) ∧
    (sA.plat.timeSrc ≠ 1 ∧ ({ platA with cref0 := true } : Plat).cref1 = false ∧ clockDown sA 1 = false) ∧
    (3 ∈ (withPlat { platA with hbmDue := [3] }).plat.hbmDue ∧ (withPlat { platA with hbmDue := [3] }).plat.hbmDue.filter (fun j => j != 3) = []) := by
  refine ⟨⟨?_, ?_⟩, ?_⟩
  · intro d h; cases h
  · decide
  · decide
theorem test_hyps_RunEnds_held : ((withPlat heldPlat).plat.held ≠ none ∧ (withPlat heldPlat).plat.pwrOk = true) ∧
    ((withPlat { platA with pwrOk := false }).plat.pwrOk = false ∧ 26 ≤ 26) := by decide
theorem test_hyps_StartUp_more : ((withPlat { platOff with perstN := false, stop := some (.rail 3) }).plat.perstN = false) ∧
    ({ envA with hbmFail := some 0, bootSel := true }.hbmFail = some 0 ∧ { envA with railBad := true }.railBad = true) ∧
    ((withPlat heldPlat).plat.held = some envA ∧ allBelow { (withPlat heldPlat) with pwr := { ({} : Power) with temps := coldEnv 85 } }.pwr.temps 85 = false ∧
      allBelow (withPlat heldPlat).pwr.temps 85 = true ∧ { envA with romOk := (false, false) }.romOk = (false, false)) := by decide

/-! ## Memory system, security, power -/

def withPwr (p : Power) (l : Lathe) (ts : SMap Thread) : State :=
  { only thrA with threads := ts, lathes := [(0, l)], pwr := p, host := { ({} : HostIf) with linkUp := true } }
def withCtl (c : SMap Word) : State := { only thrA with ctl := c, host := { ({} : HostIf) with linkUp := true }, plat := { platA with recovery := true } }
def withMem (m : Mem) : State := { sA with mem := m }
def withSec (x : Sec) (ts : SMap Thread) : State := { sA with sec := x, threads := ts }
def copyOf (k i : Nat) (r : Word) : List (Byte × BitVec 16 × Word) := [(BitVec.ofNat 8 k, BitVec.ofNat 16 i, r)]
def scrubA (k : Byte) : ScrubEv := ⟨k, 3, 0x45, .clean⟩
def resident : Thread := { thrA with task := some { snap := { desc := 0x3000, entry := 0x2000, win := [], arg0 := 5, arg1 := 6, affinity := 0, step := 3, seed := 9, flags := 0x10, seq := none, firedAt := 100 } } }

theorem test_hyps_MemorySystem : ((scrubA 3).kind ≠ 4 ∧ (scrubA 3).kind ≠ 5 ∧ (scrubA 4).kind = 4 ∧ 2 < 3 ∧ sA.mem.rowCopy = [] ∧ sA.mem.rows = []) ∧
    (withMem { ({} : Mem) with rowCopy := copyOf 4 3 0x77, rows := [⟨4, 3, 0x77, [], none⟩] }).mem.rowCopy = (4, 3, 0x77) :: [] ∧
    (reachesReg (withCtl []) .host rMemMode 8 ∧ (ctlGet (withCtl []) rMemMode).getLsbD 8 = false ∧ wbits (0xC1 : Word) 4 4 ≤ 12) ∧
    ((ctlGet (withCtl [(rMemMode, 0x1C1)]) rMemMode).getLsbD 8 = true ∧ anyResident (withCtl [(rMemMode, 0x1C1)]) = false) ∧
    reachesReg (withCtl []) .host rRinv 8 ∧ (withMem { ({} : Mem) with rinvBusy := true }).mem.rinvBusy = true ∧
    (reachesReg (withCtl []) (.sup 0) (rRatBase 255) 8 ∧ reachesReg (withCtl []) (.sup 0) (rRatLim 0) 8 ∧
      agentWorld (withCtl []) (.sup 0) = .s ∧ wbits (0x46 : Word) 5 2 ≠ 3) ∧
    (withMem { ({} : Mem) with ratPend := [(4, 7, none), (5, 8, some t0)] }).mem.ratPend = (4, 7, none) :: [(5, 8, some t0)] := by
  unfold reachesReg
  refine ⟨?_, ?_, ?_, ?_, ?_, ?_, ?_, ?_⟩ <;> decide

def secA : Sec := { ({} : Sec) with pend := [(0, .s), (72, .s), (131, .s)] }
def sWorlds (x : Thread) : State := withSec secA [(0, x)]

theorem test_hyps_Security : (∀ k : Fin 3, reachesReg (withCtl []) (.sup 0) (rWorld k.val) 8) ∧
    (mget? (sWorlds thrA).sec.pend 0 = some .s ∧ latheResident (sWorlds thrA) 0 = false ∧ ((sWorlds thrA).lathe 0).svc = .inService) ∧
    latheResident (sWorlds resident) 0 = true ∧ (mget? (sWorlds thrA).sec.pend 72 = some .s ∧ engineJobs (sWorlds thrA) 0 = 0) ∧
    (mget? (sWorlds thrA).sec.pend (128 + 3) = some .s ∧ (∀ p ∈ (sWorlds thrA).threads, ∀ k e x n, p.2.st ≠ .waiting (.mbx k e x n))) ∧
    reachesReg (withCtl []) (.sup 0) rVstat 8 ∧
    (agentWorld sA (.sup 0) = .s ∧ (0x10006 : Word) = BitVec.ofNat 64 (0x400 * 64 * 1 + 6) ∧ place sA none (64 * 0x400) = .ram (64 * 0x400) ∧
      poisonAt sA (64 * 0x400) 64 = none) ∧
    ((5 : Word).toNat % 8 < 6 ∧ agentWorld sA (.thread t0) = .ns ∧ sA.sec.vlog.length < 4096) ∧
    (let s := withCtl [(rRecovery, 0x80000000)]
     reachesReg s .host rRecovery 8 ∧ s.plat.recovery = true ∧ wbits (ctlGet s rRecovery) 30 2 = 2) := by
  unfold reachesReg
  refine ⟨?_, ?_, ?_, ?_, ⟨?_, ?_⟩, ?_, ?_, ?_, ?_⟩
  case refine_6 =>
    intro p hp
    have : p = (0, thrA) := by simpa [sWorlds, withSec] using hp
    subst this
    intro k e x n h; cases h
  all_goals decide

/-- An image of 64 bytes of payload, security version 0, key slot 0, entry 0; and fuses that hold its key's hash. -/
def imgHead : List Byte := putAt (List.replicate 32 0) 0 (leBytes 4 0x5A544B01 ++ leBytes 2 1 ++ leBytes 10 0 ++ leBytes 4 64)
def imgKey : List Byte := List.replicate 64 7
/-- SHAKE256 of 64 bytes of 1, 64 bytes long, as an independent implementation gives it. -/
def imgHash : List Byte := leBytes 64 0x9f02510b94707e7050bfe20207f2436b56f3610958551ab6b87980afe2b38b4e5f6f015339ca98f8efaef022fc536943f8384b7bd0ec2e84aa7de583c4abc4ba
def imgCells : List Host.Cell :=
  let at_ (o : Nat) (b : List Byte) : List Host.Cell := b.zipIdx.map (fun p => (o + p.2, p.1))
  at_ 0 imgHead ++ at_ 0x40 imgHash ++ at_ 0x80 imgKey ++ at_ 0x8000 (List.replicate 64 1)
def sImage : State :=
  { withCtl [(rRecovery, 0x40008040)] with
    mem := { ({} : Mem) with cells := imgCells }, sec := { ({} : Sec) with fuses := { ({} : Fuses) with keys := [(0, shake512 imgKey)] } } }

theorem img_head : headerOk imgCells = true := by decide +kernel
theorem img_key : cellRead imgCells 0x80 64 = imgKey := by decide +kernel
theorem img_slot : imgKeySlot imgCells = 0 ∧ imgSvn imgCells = 0 ∧ imgLen imgCells = 64 := by decide +kernel
theorem img_body : cellRead imgCells 0x8000 64 = List.replicate 64 1 := by decide +kernel
theorem test_shake : shake256 (List.replicate 64 1) 64 = imgHash := by decide +kernel
theorem img_hash : shake256 (List.replicate 64 1) 64 = cellRead imgCells 0x40 64 := by rw [test_shake]; decide +kernel
theorem img_take : recoveryImage sImage = imgCells := by decide +kernel

/-- Where the signature verifies (a constant without a body says so), the image is accepted. -/
theorem test_hyps_Security_image (h : Config.slhVerify imgKey (cellRead imgCells 0 0xC0) (cellRead imgCells 0xC0 29792) = true) :
    sImage.plat.recovery = true ∧ wbits (ctlGet sImage rRecovery) 30 2 = 1 ∧ sImage.mem.poison = [] ∧
    imageReason sImage.sec.fuses (recoveryImage sImage) true = 0 ∧ wbits (ctlGet sImage rRecovery) 0 27 = 0x8000 + imgLen (recoveryImage sImage) ∧
    (∀ x, sImage.store.sel0 = some x ∨ sImage.store.sel1 = some x → x.2.toNat + 1 < 2 ^ 64) := by
  refine ⟨by decide, by decide, rfl, ?_, ?_, ?_⟩
  · rw [img_take]
    have k : mget sImage.sec.fuses.keys 0 0 = shake512 imgKey := rfl
    have z : sImage.sec.fuses.revoke.getLsbD 0 = false ∧ sImage.sec.fuses.fused = 0 := ⟨rfl, rfl⟩
    unfold imageReason
    simp only [img_head, img_slot.1, img_slot.2.1, img_slot.2.2, img_key, img_body, k, h, z.1, z.2]
    rw [if_neg (by decide), if_neg (by decide), if_neg (by rintro (h | h | h) <;> first | exact h rfl | cases h), if_neg (by decide),
      if_neg (by decide), if_neg (fun q => q img_hash)]
  · rw [img_take, img_slot.2.2]; decide
  · intro x h; rcases h with h | h <;> cases h

def pwrA : Power := { ({} : Power) with tolNs := 0xFFFFFFFF, tolS := 0xFFFFFFFF }
def sRest : State := withPwr pwrA latheA []
def sParked : State :=
  { withPwr pwrA latheA [] with
    lathes := (List.range 68).map (fun l => (l, { latheA with power := 3 })), plat := { platA with devTime := 10000000 } }

theorem test_hyps_Power : (sRest.plat.ready = true ∧ sRest.pwr.standby = false ∧ latheIdleNow sRest 0 = true ∧ (sRest.lathe 0).retiring = false ∧
      (sRest.lathe 0).waking = false ∧ (sRest.lathe 0).power = 0) ∧
    ((withPwr pwrA { latheA with waking := true, power := 2 } [(0, { thrA with st := .waiting (.wake 0) })]).lathe 0).waking = true ∧
    (let s := withPwr { pwrA with standby := true, waking := true } { latheA with power := 3 } []
     s.pwr.standby = true ∧ s.pwr.waking = true ∧ s.pwr.posted = [] ∧ s.fer.handoffs = [] ∧ (s.lathe 0).svc = .inService) ∧
    (sA.plat.started = true ∧ sA.plat.stop = none ∧ sA.pwr.samples = []) ∧
    (∀ x ∈ (coldEnv 92).lathe ++ (coldEnv 92).bench, x < 93) ∧ (∀ x ∈ (coldEnv 92).hbm, x < 93) ∧
    (∀ x ∈ (coldEnv 94).lathe ++ (coldEnv 94).bench, 93 ≤ x → x < 95) ∧ (∃ x ∈ (coldEnv 105).lathe ++ (coldEnv 105).bench, 105 ≤ x) := by
  refine ⟨?_, ?_, ?_, ?_, ?_, ?_, ?_, ?_⟩ <;> decide
theorem test_hyps_Power_standby : mayStandby sParked = true := by decide +kernel

/-- A pending RAT write comes into force; a tolerance of 999 ns leaves a lathe in A0, one of 1 us lets it reach A1 (R307, R507). -/
theorem test_memory_power : after .ratWriteComplete (withMem { ({} : Mem) with ratPend := [(4, 7, none), (5, 8, none)] })
      (fun u => mget u.mem.rat 4 0 == 7 && u.mem.ratPend == [(5, 8, none)]) = true ∧
    after (.latheIdle 0) (withPwr { pwrA with tolS := 999 } latheA []) (fun u => (u.lathe 0).power == 0) = true ∧
    after (.latheIdle 0) (withPwr { pwrA with tolS := 1000 } latheA []) (fun u => (u.lathe 0).power == 1) = true ∧
    after (.thermalSample (coldEnv 105)) sA (fun u => u.plat.therm && u.pwr.throttled && u.pwr.halfBw == List.range 8) = true := by decide

/-- Registers as a supervisor's and as the host's writes reach them; RAT fields of an S and an NS entry; a full set of spare rows. -/
theorem test_hyps_MemorySystem_more : (reachesReg (withCtl []) (.sup 0) rMemMode 8 ∧ mayMode (withCtl []) (.sup 0) = true ∧
      ¬12 < wbits (0xC1 : Word) 4 4 ∧ 12 < wbits (0xD1 : Word) 4 4) ∧
    (sU.thr t0).level = .u ∧ (let s := { withCtl [(rMemMode, 0x1C1)] with threads := [(0, resident)] }
     anyResident s = true ∧ (ctlGet s rMemMode).getLsbD 8 = true) ∧
    (reachesReg (withCtl []) .host (rRatBase 255) 8 ∧ agentWorld (withCtl []) .host = .ns ∧ (ctlGet (withCtl []) (rRatBase 255)).getLsbD 4 = false) ∧
    ((ctlGet (withCtl [(rRatBase 7, 0x11)]) (rRatBase 7)).getLsbD 4 = true ∧ reachesReg (withCtl [(rRatBase 7, 0x11)]) .host (rRatLim 7) 8) ∧
    (let s := withMem { ({} : Mem) with rows := [⟨4, 3, 0x77, [], some 1023⟩] }
     s.mem.rowCopy = [] ∧ (1 ≤ 1 ∧ (scrubA 3).kind ≠ 4) ∧ ((scrubA 5).kind = 5 ∧ 8 ≤ 8) ∧ 2 < 3) := by
  unfold reachesReg
  decide

theorem test_hyps_Security_more : (mget? (sWorlds thrA).sec.pend 0 = some .s ∧
      ({ (sWorlds thrA) with lathes := [(0, { latheA with svc := .spare })] }.lathe 0).svc ≠ .inService) ∧
    (mget? ({ secA with pend := [(95, .s)] } : Sec).pend (80 + (15 : Fin 16).val) = some .s) ∧
    ((7 : Word) = BitVec.ofNat 64 (0 * 64 + 7) ∧ place sA none (64 * 0) = .ram (64 * 0)) ∧
    (place sA none (64 * 0x8000000000) ≠ .ram (64 * 0x8000000000) ∧ wbits (0x200000000006 : Word) 6 42 = 0x8000000000) ∧
    (let s := { sA with mem := { sA.mem with poison := [64 * 0x400] } }
     wbits (0x10006 : Word) 6 42 = 0x400 ∧ place s none (64 * 0x400) = .ram (64 * 0x400) ∧ poisonAt s (64 * 0x400) 64 ≠ none) ∧
    (let s := withCtl []
     reachesReg s .host rRecovery 8 ∧ s.plat.recovery = true ∧ wbits (ctlGet s rRecovery) 30 2 = 0) ∧
    (let s := withCtl [(rRecovery, 0x40000000)]
     s.plat.recovery = true ∧ wbits (ctlGet s rRecovery) 30 2 = 1 ∧ s.mem.poison = []) := by
  unfold reachesReg
  decide

theorem test_hyps_Power_more : ((withPwr pwrA { latheA with waking := true, power := 2 } []).pwr.standby = false) ∧
    (sA.plat.stop = none ∧ (∀ x ∈ (coldEnv 92).lathe ++ (coldEnv 92).bench, x < 100) ∧ (∀ x ∈ (coldEnv 95).lathe ++ (coldEnv 95).bench, 95 ≤ x) ∧
      (∀ x ∈ (coldEnv 95).hbm, 95 ≤ x) ∧ (∀ x ∈ (coldEnv 82).hbm, x < 83)) ∧
    ((withPlat { platA with stop := some .thermal }).plat.held = none ∧ (withPlat heldPlat).plat.held ≠ none) := by decide

/-! ## Faults and supervisors -/

def withFlt (f : Faults) (ls : SMap Lathe) (ts : SMap Thread) : State :=
  { only thrA with threads := ts, lathes := ls, flt := f, plat := { platA with devTime := 200010 }, ctl := [(rFltSeq, 6)] }
def faultA (c : Nat) (k : Byte) (i : BitVec 16) : FaultEv := ⟨BitVec.ofNat 16 c, k, i, 0x1234, none, 0x77, false⟩
def handA (e : FaultEv) (cls step begun : Nat) (sp : Option Nat) : Handling :=
  { seq := 5, time := 9, ev := e, cls := cls, nested := false, escalated := false, supFailover := false, count := 0, task := 0, epoch := 0
    joined := [], step := step, spare := sp, begun := begun, lost := none, recs := [] }
def queued (h : Handling) : State := withFlt { ({} : Faults) with queue := [h] } [(0, latheA)] [(0, thrA)]
def handling (h : Handling) (ls : SMap Lathe) : State := withFlt { ({} : Faults) with cur := some h } ls [(0, thrA)]
def spareA : SMap Lathe := [(0, latheA), (3, { latheA with svc := .spare })]

theorem test_hyps_FaultDetection : (NoFault sA ∧ sA.flt.strikes = [] ∧ (faultA 2 0 0).thread = none ∧ (faultA 0x16 0 0).cause = 0x16#16) ∧
    ((faultA 0x0D 0 0).kind = 0 ∧ (sA.lathe (faultA 0x0D 0 0).index.toNat).svc = .inService ∧ (sA.lathe 0).retiring = false) ∧
    (let s := queued (handA (faultA 2 0 0) 0 0 0 none)
     s.flt.cur = none ∧ s.flt.queue = [handA (faultA 2 0 0) 0 0 0 none]) ∧ ((faultA 2 0 0).index = 0 ∧ (faultA 2 0 1).index ≠ (faultA 2 0 0).index) ∧
    (∀ n : Fin 8, reachesReg (withCtl []) (.sup 0) (rSticky n.val) 8 ∧ reachesReg (withCtl []) (.thread t0) (rSticky n.val) 8) ∧
    (∀ k : Fin 4, sA.plat.started = true ∧ supOf sA k.val ≠ .out ∧ supOf sA (partner k.val) ≠ .out) ∧
    (let s := withFlt { ({} : Faults) with sup := [(1, .out), (2, .out), (3, .out)] } [] []
     supOf s 0 ≠ .out ∧ (∀ j, j < 4 → j ≠ 0 → supOf s j = .out) ∧ s.flt.recovery = 0) := by
  unfold NoFault reachesReg
  refine ⟨?_, ?_, ?_, ?_, ?_, ?_, ?_⟩ <;> decide

theorem test_hyps_Handlings : (∀ c ∈ [0, 3, 4, 5], let s := queued (handA (faultA 0x0A 0 0) c 0 0 none)
       s.flt.cur = none ∧ s.flt.queue = handA (faultA 0x0A 0 0) c 0 0 none :: [] ∧ s.fer.handoffs = [] ∧ (s.lathe 0).svc = .inService ∧
         (s.lathe 0).queue = [] ∧ (∀ p ∈ s.threads, p.2.task = none)) ∧
    AtEnd (handling (handA (faultA 2 0 0) 0 0 1 none) spareA) (handA (faultA 2 0 0) 0 0 1 none) 0 ∧
    AtEnd (handling (handA (faultA 0x0A 0 0) 3 0 4 none) spareA) (handA (faultA 0x0A 0 0) 3 0 4 none) 3 ∧
    AtEnd (handling (handA (faultA 0x0A 0 0) 3 3 4 none) spareA) (handA (faultA 0x0A 0 0) 3 3 4 none) 3 ∧
    ((faultA 2 0 0).cause ≠ cStale ∧ (handling (handA (faultA 0x0A 0 0) 3 3 4 none) spareA).flt.ring.length < 1024) ∧
    spareLathe (handling (handA (faultA 0x0A 0 0) 3 3 4 none) spareA) 0 = some 3 ∧
    (handling (handA (faultA 0x0A 0 0) 3 5 4 (some 3)) spareA).flt.cur = some (handA (faultA 0x0A 0 0) 3 5 4 (some 3)) ∧
    (let x := { resident with preemptAt := some 10 }
     let s := withFlt {} [(0, latheA)] [(0, x)]
     (s.thr t0).task = resident.task ∧ (s.thr t0).preemptAt = some 10 ∧ 10 + 100000 ≤ s.plat.devTime.toNat ∧ (s.lathe 0).retiring = false ∧
       (∀ r, resident.task = some r → r.abandoned < 4) ∧ s.fer.handoffs = []) := by
  refine ⟨?_, ?_, ?_, ?_, ?_, ?_, ?_, ⟨?_, ?_, ?_, ?_, ?_, ?_⟩⟩
  case refine_2 | refine_3 | refine_4 => constructor <;> decide
  case refine_12 => intro r h; cases h; decide
  all_goals decide
theorem test_hyps_Handlings_alone (k : Tid) (h : k ≠ t0) : ((withFlt {} [(0, latheA)] [(0, { resident with preemptAt := some 10 })]).thr k).task = none := by
  have : tkey k ≠ 0 := by
    intro q; apply h
    obtain ⟨⟨a, ha⟩, ⟨b, hb⟩, ⟨c, hc⟩⟩ := k
    simp only [tkey] at q
    simp only [t0, Tid.mk.injEq, Fin.ext_iff]
    simp
    omega
  simp [State.thr, withFlt, mget, mget?, Ne.symm this]

/-- A retirement's third step raises the epoch, its fourth retires the lathe and puts the spare under test (Table 14-5). -/
theorem test_retire : after .handlingEnd (handling (handA (faultA 0x0A 0 0) 3 0 4 none) spareA) (fun u => (u.lathe 0).epoch == 2) = true ∧
    after .handlingEnd (handling (handA (faultA 0x0A 0 0) 3 3 4 none) spareA) (fun u => (u.lathe 0).svc == .retired && (u.lathe 3).svc == .underTest) = true ∧
    after (.spareSelfTest 3 true) (handling (handA (faultA 0x0A 0 0) 3 5 4 (some 3)) [(0, { latheA with svc := .retired }), (3, { latheA with svc := .underTest })])
      (fun u => (u.lathe 3).svc == .inService && u.store.repair == [⟨0, 4, 0, 3, 0⟩]) = true := by
  refine ⟨?_, ?_, ?_⟩ <;> decide

/-- A fault takes sequence number 6 and leaves FLT_SEQ at 7; the eighth missed poll is a silent lathe (R456, R469). -/
theorem test_detect : after (.faultDetected (faultA 2 0 0)) (withFlt {} [(0, latheA)] []) (fun u => ctlGet u rFltSeq == 7 && u.flt.queue.map (fun h => h.seq) == [6]) = true ∧
    after (.lathePoll 0 false) (withFlt {} [(0, { latheA with polls := 7 })] []) (fun u => u.flt.queue.map (fun h => h.ev.cause) == [cSilent]) = true ∧
    after (.supervisorMismatch 0 false) sA (fun u => supOf u 0 == .out && supOf u 1 == .active) = true := by
  refine ⟨?_, ?_, ?_⟩ <;> decide

/-! More witnesses of the faults' statements -/

/-- Dirty lines of LM cache 0 and of slice 1 of die 0, at 0x1200. -/
def sDirty : State :=
  { withFlt {} [(0, latheA)] [] with caches := { lm := [(0x48, [{ line := some 0x48, dirty := true }])], die := [(72, [{ line := some 0x48, dirty := true }])] } }
def tagHard (k : Byte) : FaultEv := { faultA 2 k 0 with addr := 0x1234, hard := true }
theorem test_hyps_FaultDetection_more : ((tagHard 0).cause = cTagParity ∧ (tagHard 0).hard = true ∧ (tagHard 3).kind.toNat ≤ 3 ∧
      heldDirty sA 0 0 0x1234 = false ∧ heldDirty sDirty 0 0 0x1234 = true ∧ heldDirty sDirty 3 0 0x1234 = true) ∧
    ((faultA 3 0 0).cause ≠ cTagParity ∧ (faultA 0x0A 0 0).hard = false) ∧
    (let h := handA (faultA 0x0A 0 0) 0 0 1 none
     (handling h spareA).flt.cur = some h ∧ h.unit = unitOf (faultA 3 0 0).kind (faultA 3 0 0).index ∧ h.recs = [] ∧ isCatch (faultA 3 0 0).cause = false) ∧
    (recoveryRuns sA = true ∧ ({ latheA with polls := 7 } : Lathe).polls = 7 ∧
      recoveryRuns { sA with plat := { platA with heldClocks := [.benchCore 0] } } = false) ∧
    (∀ k : Fin 4, let s := withFlt { ({} : Faults) with sup := [(1, .out), (2, .out), (3, .out)], recovery := 0 } [(0, latheA)] []
      k = 0 → supOf s k.val ≠ .out ∧ s.plat.started = true) := by decide

/-- A REPLAYED handling of a thread that has a task; one of class RETIRED before and after its third step, with a task and without a
spare; lathe 3's own test; a core remap; a preempted thread of a lathe under retirement, and one whose time has not come. -/
def evThread : FaultEv := { faultA 6 1 0 with thread := some t0 }
def sReplay : State := withFlt { ({} : Faults) with queue := [handA evThread 1 0 0 none] } [(0, latheA)] [(0, resident)]
def sRetire (ls : SMap Lathe) (ts : SMap Thread) (step : Nat) : State :=
  withFlt { ({} : Faults) with cur := some (handA (faultA 0x0A 0 0) 3 step 4 none) } ls ts
def sCoreRemap : State :=
  { withFlt { ({} : Faults) with cur := some (handA (faultA 9 1 0) 2 0 3 none) } [(0, { latheA with spareCores := 4 })] [(0, thrA)] with
    cores := [(0, { coreA with inService := true })] }
def sOwnTest : State := withFlt { ({} : Faults) with cur := some (handA (faultA 0x0A 0 3) 3 5 4 (some 3)) } spareA []
theorem test_hyps_Handlings_more : (recoveryRuns sReplay = true ∧ sReplay.flt.queue = handA evThread 1 0 0 none :: [] ∧ evThread.cause = cCoreParity ∧
      (sReplay.thr t0).task.isSome = true ∧ canExecute sReplay t0 = true ∧ sReplay.fer.handoffs = []) ∧
    recoveryRuns { sA with plat := { platA with heldClocks := [.benchCore 0] } } = false ∧
    ((sCoreRemap.core 0 0).inService = true ∧ (spareCore sCoreRemap 0).isSome = true ∧ 1 ≤ (sCoreRemap.lathe 0).spareCores ∧
      (faultA 9 1 0).index.toNat / 68 = 0) ∧
    AtEnd sCoreRemap (handA (faultA 9 1 0) 2 0 3 none) 2 ∧
    AtEnd (sRetire spareA [(0, resident)] 0) (handA (faultA 0x0A 0 0) 3 0 4 none) 3 ∧
    (((sRetire spareA [(0, resident)] 0).thr t0).task = resident.task ∧ t0.lathe.val = (faultA 0x0A 0 0).index.toNat) ∧
    AtEnd (sRetire ((List.range 17).map fun k => (k, latheA)) [] 3) (handA (faultA 0x0A 0 0) 3 3 4 none) 3 ∧ spareLathe (sRetire ((List.range 17).map fun k => (k, latheA)) [] 3) 0 = none ∧
    (sOwnTest.flt.cur = some (handA (faultA 0x0A 0 3) 3 5 4 (some 3)) ∧ (faultA 0x0A 0 3).index.toNat = (3 : Fin 68).val) ∧
    (({ latheA with retiring := true } : Lathe).retiring = true ∧ (200010 : Nat) < (BitVec.ofNat 64 110011 : Word).toNat + 100000) ∧
    AtEnd { handling (handA (faultA 2 0 0) 0 0 1 none) spareA with flt := { (handling (handA (faultA 2 0 0) 0 0 1 none) spareA).flt with ring := List.replicate 1024 ⟨3, 2, 0, 0, 0, 2, 0, 8, 9, 10, 11, 12, 13, 14, 15⟩ } }
      (handA (faultA 2 0 0) 0 0 1 none) 0 := by
  refine ⟨?_, ?_, ?_, ?_, ?_, ?_, ?_, ?_, ?_, ?_, ?_⟩
  case refine_4 | refine_5 | refine_7 | refine_11 => constructor <;> decide
  all_goals decide

/-! ## KCP commands of power, faults, images and quotes -/

def recF : FaultRec := ⟨3, 2, 0, 0, 0, 2, 0, 8, 9, 10, 11, 12, 13, 14, 15⟩
def withKcp (w : World) (p : List Byte) : State :=
  let s := withCmds w [{ command p with fltSeq := 5 }]
  { s with flt := { ({} : Faults) with ring := [recF] }, plat := { s.plat with stage := 6 } }
def cmdK (p : List Byte) : Cmd := { command p with fltSeq := 5 }
def pTol : List Byte := packet 0x50 false [(0x0C, 4, 99)]
def pProfile (k : Nat) : List Byte := packet 0x51 false [(0x0C, 1, k)]
def pLog : List Byte := packet 0x60 false [(0x0C, 4, 2), (0x10, 8, 0x2000), (0x18, 8, 3)]
def pClear : List Byte := packet 0x61 false []
def pStage : List Byte := packet 0x71 false [(8, 1, 1), (0x0C, 4, 0x1000), (0x10, 8, 0x9000), (0x18, 4, 5)]
def pActivate : List Byte := packet 0x72 false [(0x0C, 4, 0x8040)]
def pQuote (n : Nat) : List Byte := packet 0x70 false [(0x10, 8, 0x2000), (0x18, 4, n), (0x20, 8, 0x1122334455667788)]

theorem starts_of {s : State} {op q n : Nat} {c : Cmd} {w : World} (h1 : s.cmd? q n = some c) (h2 : c.op = op ∧ startable s c = true ∧ s.pwr.standby = false ∧
    complexRuns s q = true ∧ headerFail s c = none ∧ fencedFail s c = false) (h3 : ∃ x, s.queue? c.q = some x ∧ x.world = w) : Starts s op q n c w :=
  ⟨h1, h2.1, h2.2.1, h2.2.2.1, h2.2.2.2.1, h2.2.2.2.2.1, h2.2.2.2.2.2, h3⟩
theorem starts_tol : Starts (withKcp .ns pTol) 0x50 2 3 (cmdK pTol) .ns := starts_of rfl (by decide) ⟨_, rfl, rfl⟩
theorem starts_profile (k : Nat) (h : k < 4) : Starts (withKcp .ns (pProfile k)) 0x51 2 3 (cmdK (pProfile k)) .ns := by
  have : k = 0 ∨ k = 1 ∨ k = 2 ∨ k = 3 := by omega
  rcases this with h | h | h | h <;> subst h <;> exact starts_of rfl (by decide) ⟨_, rfl, rfl⟩
theorem starts_log : Starts (withKcp .ns pLog) 0x60 2 3 (cmdK pLog) .ns := starts_of rfl (by decide) ⟨_, rfl, rfl⟩
theorem starts_clear : Starts (withKcp .ns pClear) 0x61 2 3 (cmdK pClear) .ns := starts_of rfl (by decide) ⟨_, rfl, rfl⟩
theorem visible_A : visibleRecords (withKcp .ns pLog) .ns 3 = [recF] := by
  have : (withKcp .ns pLog).flt.ring = [recF] := rfl
  simp [visibleRecords, this, recF, recWorld]

theorem test_hyps_KcpPowerAndFaults : (Starts (withKcp .ns pTol) 0x50 2 3 (cmdK pTol) .ns ∧ Starts (withKcp .ns pLog) 0x60 2 3 (cmdK pLog) .ns ∧
      Starts (withKcp .ns pClear) 0x61 2 3 (cmdK pClear) .ns ∧ ∀ k, k < 4 → Starts (withKcp .ns (pProfile k)) 0x51 2 3 (cmdK (pProfile k)) .ns) ∧
    (2 < arg (cmdK (pProfile 3)) 0x0C 1 ∧ arg (cmdK (pProfile 0)) 0x0C 1 ≤ (withKcp .ns (pProfile 0)).pwr.profile.toNat ∧
      (withKcp .ns (pProfile 2)).pwr.profile.toNat < arg (cmdK (pProfile 2)) 0x0C 1) ∧
    (let s := withPwr { ({} : Power) with target := some 2, samples := [683] } latheA []
     s.pwr.target = some 2 ∧ meanPower s 100 ≤ 683) ∧
    arg (cmdK pLog) 8 1 % 2 = 0 ∧ LocalRange (withKcp .ns pLog) .ns (BitVec.ofNat 64 (arg (cmdK pLog) 0x10 8)) 64 ∧
    ((visibleRecords (withKcp .ns pLog) .ns (BitVec.ofNat 64 (arg (cmdK pLog) 0x18 8))).take (arg (cmdK pLog) 0x0C 4)) = [recF] ∧
    ((sK pCopy).cmd? 2 3 = some (command pCopy) ∧ arg (command pStage) 8 1 % 2 = 1 ∧ arg (command pStage) 0 1 = 0x71) ∧
    (sHost.cmd? 2 3 = none ∧ ∃ x, sHost.queue? 2 = some x ∧ x.cmdHost = true ∧ x.cons.toNat = 3 ∧ queueReady sHost 2 = true) := by
  refine ⟨⟨starts_tol, starts_log, starts_clear, starts_profile⟩, by decide, by decide, by decide, by apply local_of rfl rfl <;> decide, ?_, ⟨rfl, by decide, by decide⟩,
    ⟨rfl, _, rfl, by decide, by decide, by decide⟩⟩
  have : BitVec.ofNat 64 (arg (cmdK pLog) 0x18 8) = 3 := by decide
  rw [this, visible_A]; decide

def sStaged : State := { withKcp .ns pActivate with
  store := { ({} : Store) with staging := imgCells }, sec := { ({} : Sec) with fuses := { ({} : Fuses) with keys := [(0, shake512 imgKey)] } } }
def sQuoting (n : Nat) (ok : Bool) : State := { withKcp .ns (pQuote n) with sec := { ({} : Sec) with keyOk := ok } }

theorem test_hyps_KcpImages : (Starts (withKcp .ns pStage) 0x71 2 3 (cmdK pStage) .ns ∧ arg (cmdK pStage) 8 1 % 2 = 1 ∧ (cmdK pStage).linkLost = false ∧
      (ctlGet (withKcp .ns pStage) rSecCtl).getLsbD 0 = false ∧ runningOps (withKcp .ns pStage) (cmdK pStage) 0x72 = 0 ∧
      noDma (withKcp .ns pStage) 2 .ns = false ∧ arg (cmdK pStage) 0x0C 4 = 4096 ∧ arg (cmdK pStage) 0x18 4 = 5) ∧
    (Starts sStaged 0x72 2 3 (cmdK pActivate) .ns ∧ (ctlGet sStaged rSecCtl).getLsbD 0 = false ∧ runningOps sStaged (cmdK pActivate) 0x72 = 0) ∧
    (Starts (sQuoting 80479 true) 0x70 2 3 (cmdK (pQuote 80479)) .ns ∧ arg (cmdK (pQuote 80479)) 0x18 4 < 80480) ∧
    (Starts (sQuoting 80480 true) 0x70 2 3 (cmdK (pQuote 80480)) .ns ∧ 80480 ≤ arg (cmdK (pQuote 80480)) 0x18 4 ∧ arg (cmdK (pQuote 80480)) 8 1 % 2 = 0 ∧
      LocalRange (sQuoting 80480 true) .ns (BitVec.ofNat 64 (arg (cmdK (pQuote 80480)) 0x10 8)) 80480 ∧ runningOps (sQuoting 80480 true) (cmdK (pQuote 80480)) 0x70 < 4 ∧
      identityBad (sQuoting 80480 true) = false ∧ (cmdK (pQuote 80480)).packet.length = 64) ∧ identityBad (sQuoting 80480 false) = true := by
  refine ⟨⟨starts_of rfl (by decide) ⟨_, rfl, rfl⟩, by decide, by decide, by decide, by decide, by decide, by decide, by decide⟩,
    ⟨starts_of rfl (by decide) ⟨_, rfl, rfl⟩, by decide, by decide⟩, ⟨starts_of rfl (by decide) ⟨_, rfl, rfl⟩, by decide⟩,
    ⟨starts_of rfl (by decide) ⟨_, rfl, rfl⟩, by decide, by decide, by apply local_of rfl rfl <;> decide, by decide, by decide, by decide⟩, by decide⟩

theorem test_hyps_KcpImages_accepted (h : Config.slhVerify imgKey (cellRead imgCells 0 0xC0) (cellRead imgCells 0xC0 29792) = true) :
    arg (cmdK pActivate) 0x0C 4 = 0x8000 + imgLen sStaged.store.staging ∧ imageReason sStaged.sec.fuses sStaged.store.staging true = 0 ∧
    (∀ x, sStaged.store.sel0 = some x ∨ sStaged.store.sel1 = some x → x.2.toNat + 1 < 2 ^ 64) := by
  refine ⟨?_, ?_, fun x h => by rcases h with h | h <;> cases h⟩
  · show _ = 0x8000 + imgLen imgCells; rw [img_slot.2.2]; decide
  · have q := (test_hyps_Security_image h).2.2.2.1
    rw [img_take] at q; exact q
def pActivateNone : List Byte := packet 0x72 false [(0x0C, 4, 0x8000)]
theorem test_hyps_KcpImages_rejected : Starts (withKcp .ns pActivateNone) 0x72 2 3 (cmdK pActivateNone) .ns ∧
    arg (cmdK pActivateNone) 0x0C 4 = 0x8000 + imgLen (withKcp .ns pActivateNone).store.staging ∧
    imageReason (withKcp .ns pActivateNone).sec.fuses (withKcp .ns pActivateNone).store.staging true ≠ 0 := by
  refine ⟨starts_of rfl (by decide) ⟨_, rfl, rfl⟩, by decide, ?_⟩
  show imageReason _ [] true ≠ 0
  have : headerOk [] = false := by decide
  simp [imageReason, this]

/-- FW_STAGE puts five bytes at 0x1000 of the staging area; a quote's request that is too short is told the length (R499, Table 15-11). -/
theorem test_images : after (.fwStage 2 3 (some [1, 2, 3, 4, 5])) (withKcp .ns pStage) (fun u => cellGet u.store.staging 0x1002 == 3 &&
      (u.cmd? 2 3).map (fun c => (c.status, c.aux)) == some (stOk, 5)) = true ∧
    after (.attestQuote 2 3) (sQuoting 80479 true) (fun u => (u.cmd? 2 3).map (fun c => (c.status, c.result)) == some (stBadParam, 80480)) = true ∧
    after (.setLatencyTolerance 2 3) (withKcp .ns pTol) (fun u => u.pwr.tolNs == 99) = true := by decide

/-! More witnesses of these statements -/

def pLog0 : List Byte := packet 0x60 false [(0x10, 8, 0x2000), (0x18, 8, 3)]
def pLogHost : List Byte := packet 0x60 false [(8, 1, 1), (0x0C, 4, 2), (0x10, 8, 0x9000), (0x18, 8, 3)]
/-- A read of host memory under way: of MEM_COPY, PROGRAM_LOAD, TASK_GRAPH_SUBMIT and FW_STAGE. -/
def pReads (op : Nat) : List Byte := packet op false [(8, 1, 1), (0x10, 8, 0x9000), (0x18, 8, 0x2000), (0x20, 8, 16)]
theorem test_hyps_KcpPowerAndFaults_more : (Starts (withKcp .ns pLog0) 0x60 2 3 (cmdK pLog0) .ns ∧ arg (cmdK pLog0) 0x0C 4 = 0 ∧
      chainOf (BitVec.ofNat 64 (arg (cmdK pLog0) 0x10 8)) ≠ 0xFFFE) ∧
    (Starts (withKcp .ns pLogHost) 0x60 2 3 (cmdK pLogHost) .ns ∧ arg (cmdK pLogHost) 8 1 % 2 = 1 ∧
      (visibleRecords (withKcp .ns pLog) .ns 3).take (arg (cmdK pLogHost) 0x0C 4) ≠ []) ∧
    (∀ op ∈ [0x10, 0x20, 0x21, 0x71], (sK (pReads op)).cmd? 2 3 = some (command (pReads op)) ∧ arg (command (pReads op)) 8 1 % 2 = 1 ∧
      arg (command (pReads op)) 0 1 = op) := by
  refine ⟨⟨starts_of rfl (by decide) ⟨_, rfl, rfl⟩, by decide, by decide⟩, ⟨starts_of rfl (by decide) ⟨_, rfl, rfl⟩, by decide, ?_⟩, by decide⟩
  rw [visible_A]; decide

def pStageL : List Byte := packet 0x71 false [(0x0C, 4, 0x1000), (0x10, 8, 0x1000), (0x18, 4, 5)]
def pStageLong : List Byte := packet 0x71 false [(8, 1, 1), (0x0C, 4, 0x1000), (0x10, 8, 0x9000), (0x18, 4, 130)]
def pQuoteH : List Byte := packet 0x70 false [(8, 1, 1), (0x10, 8, 0x9000), (0x18, 4, 80480)]
theorem test_hyps_KcpImages_more : (Starts (withKcp .ns pStageL) 0x71 2 3 (cmdK pStageL) .ns ∧ arg (cmdK pStageL) 8 1 % 2 = 0 ∧
      LocalRange (withKcp .ns pStageL) .ns 0x1000 5) ∧
    (Starts (withKcp .ns pStageLong) 0x71 2 3 (cmdK pStageLong) .ns ∧ (cmdK pStageLong).linkLost = false ∧
      (List.replicate 129 (1 : Byte)).length < arg (cmdK pStageLong) 0x18 4) ∧
    (Starts (withKcp .ns pQuoteH) 0x70 2 3 (cmdK pQuoteH) .ns ∧ arg (cmdK pQuoteH) 8 1 % 2 = 1 ∧
      runningOps (withKcp .ns pQuoteH) (cmdK pQuoteH) 0x70 < 4 ∧ (cmdK pQuoteH).packet.length = 64) := by
  refine ⟨⟨starts_of rfl (by decide) ⟨_, rfl, rfl⟩, by decide, by apply local_of rfl rfl <;> decide⟩, ⟨starts_of rfl (by decide) ⟨_, rfl, rfl⟩, by decide, by decide⟩,
    ⟨starts_of rfl (by decide) ⟨_, rfl, rfl⟩, by decide⟩⟩

/-! ## Ferrule engines -/

/-- Address 1 of the ring 1, 2, 3: it owns shard 0, is the last hop of shard 1 and the first of shard 2. -/
def jobA : Job :=
  { world := .ns, deadline := 2, rule := 0, ringNo := 0, ring := [1, 2, 3], nominal := 3, lr := 0x3C000000, p1 := 0x3F000000, p2 := 0, eps := 0, wd := 0, task := 0, bfp := false }
def recR : ShardRec := { elements := 100, bf16 := true, params := 0x4000, state := 0x6000, boundStep := 7, pi1 := 0x3F800000, pi2 := 0x3F800000 }
def bindA : Binding := ⟨7, 100, true, 0x4000, 0x8000, 0, 2, 3, 1000⟩
def workA (sh : Nat) : Work := { job := 4, shard := sh, tag := 7 }
def partA : Partial := ⟨0, List.replicate 200 0, 0, 2, 500⟩
def withJob (J : SMap Job) (r : SMap ShardRec) (w : List Work) (rx : List (Nat × Packet)) (c : List Cmd) : State :=
  { withChain chainA rx with
    mem := { cells := [(0x4000, 0x80), (0x4001, 0x3F), (0x8001, 0x3F)] }, ctl := [(rMirbase, 0x10000), (rMirlim, 0x20000)]
    plat := { platA with cref0 := true, cref1 := true, devTime := 100000 }, fer := { jobs := J, recs := r, works := w }
    host := { linkUp := true, cmds := c, queues := [(2, queueA .ns)] } }
def kJob (ty : Byte) (addr : BitVec 48) (pay : List Byte) : Packet :=
  { dst := 1, src := 3, epoch := 5, type := ty, vc := 2, hops := 1, tag := 7, job := 4, addr := addr, ext := 0x7F7F7F7F7F7F7F7F, payload := pay }
def kSent : Packet := { kJob pRedBf16 (header 1 0 1) [1, 2, 3, 4] with dst := 2, src := 1, hops := 0, ext := 0 }
def pOpen : List Byte := packet 0x40 false [(0x0C, 2, 6), (0x0E, 2, 3), (0x10, 1, 0), (0x12, 2, 0), (0x14, 4, 0x3C000000), (0x18, 4, 0x3F000000), (0x30, 2, 3)]
def pClose : List Byte := packet 0x41 false [(0x0C, 2, 4)]
def pParam (sh : Nat) : List Byte := packet 0x31 false [(0x0C, 2, 4), (0x0E, 1, 1), (0x10, 4, 7), (0x14, 4, 100), (0x18, 8, 0x4000), (0x20, 8, 0x8000), (0x30, 4, sh)]
def sOpen : State := withJob [] [] [] [] [command pOpen]
def sClose (w : List Work) : State := withJob [(4, jobA)] [(4 * 65536, recR)] w [] [command pClose]
def sParam (sh : Nat) : State := withJob [(4, jobA)] [] [] [] [command (pParam sh)]
def sJob (sh : Nat) (w : Work) (k : Packet) (c : List Cmd) : State := withJob [(4, jobA)] [(4 * 65536 + sh, recR)] [w] [(0, k)] c
def kRed (ty : Byte) : Packet := kJob ty (header 2 0 1) (List.replicate 200 0)
def kNone : Packet := kJob pRedBf16 (header 2 0 1) []

theorem engine_of {J r w c} (k : Packet) : Engine (withJob J r w [(0, k)] c) 0 k.type k where
  head := by simp [withJob, withChain, rxHead, only]
  free := by simp [shardBusy, clockOn, withJob, withChain, show platA.heldClocks = [] from rfl]
  member := by show chainA.st ≠ .fenced; decide
theorem for_job {J r w c} {k : Packet} {x : Job} (h : mget? J k.job.toNat = some x) : ForJob (withJob J r w [(0, k)] c) 0 k.type k x :=
  ⟨engine_of k, h⟩
theorem only_work {J r k c sh} {w : Work} (h : w.job = 4 ∧ w.shard = sh ∧ w.tag = 7 ∧ w.ended = false ∧ w.restarted = none) :
    OnlyWork (withJob J r [w] k c) w 4 sh 7 := ⟨rfl, h.1, h.2.1, h.2.2.1, h.2.2.2.1, h.2.2.2.2⟩

theorem test_hyps_FerruleJobs : (Starts sOpen 0x40 2 3 (command pOpen) .ns ∧ sOpen.chain.st = .member ∧ sOpen.chain.addr ∈ ringOf sOpen 0 ∧
      arg (command pOpen) 0x30 2 = (ringOf sOpen (arg (command pOpen) 0x12 2)).length ∧ arg (command pOpen) 0x0E 2 ≠ 0 ∧
      jobParams 0 (BitVec.ofNat 64 (arg (command pOpen) 0x28 8)) (BitVec.ofNat 32 (arg (command pOpen) 0x14 4))
        (BitVec.ofNat 32 (arg (command pOpen) 0x18 4)) 0 0 0 = true ∧
      mget sOpen.sec.ferruleWorld 0 .ns = .ns ∧ job? sOpen 6 = none ∧ mget? sOpen.sec.pend 72 = none ∧ engineJobs sOpen 0 < 256) ∧
    (Starts (sClose []) 0x41 2 3 (command pClose) .ns ∧ job? (sClose []) 4 = some jobA ∧ jobBusy (sClose []) 4 = false) ∧
    (Starts (sClose [{ workA 0 with bind := some bindA }]) 0x41 2 3 (command pClose) .ns ∧ jobBusy (sClose [{ workA 0 with bind := some bindA }]) 4 = true ∧
      arg (command pClose) 0x0E 1 % 2 = 0) ∧
    (∀ sh ∈ [1, 2], Starts (sParam sh) 0x31 2 3 (command (pParam sh)) .ns ∧ job? (sParam sh) 4 = some jobA ∧ (sParam sh).fer.works = [] ∧ (sParam sh).fer.recs = [] ∧
      arg (command (pParam sh)) 0x14 4 = 100 ∧ arg (command (pParam sh)) 0x0E 1 = 1 ∧ arg (command (pParam sh)) 0x28 8 = 0 ∧
      LocalRange (sParam sh) .ns (BitVec.ofNat 64 (arg (command (pParam sh)) 0x18 8)) 200 ∧
      LocalRange (sParam sh) .ns (BitVec.ofNat 64 (arg (command (pParam sh)) 0x20 8)) 200) ∧
    (firstHop (sParam 1) jobA 1 = false ∧ isOwner (sParam 1) jobA 1 = false ∧ firstHop (sParam 2) jobA 2 = true ∧ Hop (sParam 2) jobA 2 2 0) := by
  refine ⟨⟨starts_of rfl (by decide) ⟨_, rfl, rfl⟩, by decide, by decide, by decide, by decide, by decide, by decide, by decide, by decide, by decide⟩,
    ⟨starts_of rfl (by decide) ⟨_, rfl, rfl⟩, by decide, by decide⟩, ⟨starts_of rfl (by decide) ⟨_, rfl, rfl⟩, by decide, by decide⟩, ?_,
    by decide, by decide, by decide, ⟨⟨by decide, by decide, by decide, by decide⟩, by decide, by decide⟩⟩
  intro sh h
  have : sh = 1 ∨ sh = 2 := by simpa using h
  rcases this with h | h <;> subst h <;>
    exact ⟨starts_of rfl (by decide) ⟨_, rfl, rfl⟩, rfl, rfl, rfl, by decide, by decide, by decide, by apply local_of rfl rfl <;> decide, by apply local_of rfl rfl <;> decide⟩

def kGather : Packet := kJob pGather (header 2 0 1) [1, 2, 3, 4]
def chunkA (sh : Nat) : ChunkId := ⟨4, BitVec.ofNat 16 sh, 7, 0⟩
def wBound (sh : Nat) : Work := { workA sh with bind := some bindA }
def wWaits (sh : Nat) (at_ : Word) : Work := { workA sh with waits := [{ partA with arrived := at_ }] }

theorem test_hyps_FerruleArrivals : (∀ ty ∈ [pRedBf16, pRedBfp16, pGather, pMirror, pMirrorAck, pRestart, pStepAbort], Engine (withJob [] [] [] [(0, kRed ty)] []) 0 ty (kRed ty) ∧
      Leaves (withJob [] [] [] [(0, kRed ty)] []) 3 20) ∧
    ForJob (withJob [(4, jobA)] [] [] [(0, kRed pRedBf16)] []) 0 pRedBf16 (kRed pRedBf16) jobA ∧
    ForJob (withJob [(4, { jobA with bfp := true })] [] [] [(0, kRed pRedBfp16)] []) 0 pRedBfp16 (kRed pRedBfp16) { jobA with bfp := true } ∧
    (let s := sJob 1 (wBound 1) (kRed pRedBf16) []
     ForJob s 0 pRedBf16 (kRed pRedBf16) jobA ∧ OnlyWork s (wBound 1) 4 1 7 ∧ (wBound 1).live = some bindA ∧ (kRed pRedBf16).idx < cdiv bindA.elements 256 ∧
       s.mem.poison = [] ∧ Hop s jobA 1 2 0) ∧
    (let s := sJob 1 (wWaits 1 98000) kNone []
     OnlyWork s (wWaits 1 98000) 4 1 7 ∧ (chunkA 1).shard.toNat = 1 ∧ (98000 : Word).toNat + 1000 * jobA.deadline ≤ s.plat.devTime.toNat ∧
       s.plat.devTime.toNat < (98001 : Word).toNat + 1000 * jobA.deadline ∧ Hop s jobA 1 2 0) ∧
    (let s := sJob 1 (wBound 1) kNone []
     bindA.step = (chunkA 1).step ∧ (chunkA 1).chunk.toNat < cdiv bindA.elements 256 ∧
       bindA.presentAt.toNat + 1000 * (jobA.ring.length * jobA.deadline) ≤ s.plat.devTime.toNat) ∧
    (let s := withJob [(4, jobA)] [(4 * 65536 + 1, recR)] [] [(0, kGather)] []
     ForJob s 0 pGather kGather jobA ∧ s.fer.works = [] ∧ rec? s 4 1 = some recR ∧ Hop s jobA 1 2 0 ∧ ownerOf s jobA 1 = some 2 ∧ ownerOf s jobA 2 = some 3) := by
  refine ⟨?_, for_job rfl, for_job rfl, ⟨for_job rfl, only_work ⟨rfl, rfl, rfl, rfl, rfl⟩, rfl, by decide, rfl, ⟨⟨by decide, by decide, by decide, by decide⟩, by decide, by decide⟩⟩,
    ⟨only_work ⟨rfl, rfl, rfl, rfl, rfl⟩, by decide, by decide, by decide, ⟨⟨by decide, by decide, by decide, by decide⟩, by decide, by decide⟩⟩, by decide,
    ⟨for_job rfl, rfl, rfl, ⟨⟨by decide, by decide, by decide, by decide⟩, by decide, by decide⟩, by decide, by decide⟩⟩
  intro ty _
  exact ⟨engine_of (kRed ty), by show route (withJob [] [] [] [] []) 3 = some 20; decide, by show routeWaits (withJob [] [] [] [] []) 3 = false; decide,
    by show (port (withJob [] [] [] [] []) 20).st ≠ .training; decide, by show chainA.st ≠ .fenced; decide⟩

def kMirror : Packet := kJob pMirror (header 0 0 1) [1, 2, 3, 4]
def sMirror (lim : Word) : State := { withJob [(4, jobA)] [(4 * 65536 + 1, recR)] [] [(0, kMirror)] [] with ctl := [(rMirbase, 0x10000), (rMirlim, lim)] }
def wAck : Work := { wBound 0 with mirrorWait := true, updated := [0], counts := [(0, 2)] }
def kMirAck : Packet := kJob pMirrorAck (header 0 0 0) []
def cmdBound : Cmd := { command (pParam 0) with wait := .bind 4 0 7 }
def kNo : Packet := kJob pNojob (header 0 0 0) ((packetBytes kSent).take 32)
def wSent : Work := { workA 1 with sent := [kSent] }
def kRestart : Packet := kJob pRestart (header 0 0 1) []
def kAbort : Packet := kJob pStepAbort (header 0 0 1) []

theorem test_hyps_FerruleEnds : (∀ l ∈ [0x1000, 0x20000], ForJob (sMirror l) 0 pMirror kMirror jobA ∧ rec? (sMirror l) 4 1 = some recR ∧ (sMirror l).fer.mirrors = [] ∧
      route (sMirror l) 3 = some 20) ∧ kMirror.count % 8 = 0 ∧ kMirror.idx = 0 ∧ mirrorPlace (sMirror 0x20000) (mirrorSize jobA recR) = some 0x10000 ∧
    mirrorPlace (sMirror 0x1000) (mirrorSize jobA recR) = none ∧
    (let s := sJob 0 wAck kMirAck [cmdBound]
     ForJob s 0 pMirrorAck kMirAck jobA ∧ kMirAck.count % 16 = 0 ∧ OnlyWork s wAck 4 0 7 ∧ wAck.live = some bindA ∧ rec? s 4 0 = some recR ∧
       nextHop s jobA = some 2 ∧ route s 2 = some 0 ∧ s.cmd? 2 (3 : BitVec 24).toNat = some cmdBound ∧ mget wAck.counts 0 0 < jobA.nominal) ∧
    (let s := sJob 1 wSent kNo []
     ForJob s 0 pNojob kNo jobA ∧ packetOf kNo.payload = { kSent with payload := [] } ∧ OnlyWork s wSent 4 1 7 ∧ ownerOf s jobA 1 = some 2 ∧
       downOf s jobA 2 = some 3 ∧ (3 : BitVec 16) ≠ s.chain.addr ∧ route s 3 = some 20) ∧
    (let s := sJob 1 (workA 1) kRestart []
     ForJob s 0 pRestart kRestart jobA ∧ OnlyWork s (workA 1) 4 1 7 ∧ (workA 1).bind = none ∧ nextHop s jobA = some 2 ∧ route s 2 = some 0) ∧
    (let s := sJob 1 (wBound 1) kAbort [{ command (pParam 1) with wait := .bind 4 1 7 }]
     ForJob s 0 pStepAbort kAbort jobA ∧ OnlyWork s (wBound 1) 4 1 7 ∧ (wBound 1).live = some bindA) := by
  refine ⟨?_, by decide, by decide, by decide, by decide, ⟨for_job rfl, by decide, only_work ⟨rfl, rfl, rfl, rfl, rfl⟩, rfl, rfl, by decide, by decide, rfl, by decide⟩,
    ⟨for_job rfl, by decide, only_work ⟨rfl, rfl, rfl, rfl, rfl⟩, by decide, by decide, by decide, by decide⟩,
    ⟨for_job rfl, only_work ⟨rfl, rfl, rfl, rfl, rfl⟩, rfl, by decide, by decide⟩, ⟨for_job rfl, only_work ⟨rfl, rfl, rfl, rfl, rfl⟩, rfl⟩⟩
  intro l h
  have : l = 0x1000 ∨ l = 0x20000 := by simpa using h
  rcases this with h | h <;> subst h <;> exact ⟨⟨⟨by decide, by decide, by decide⟩, rfl⟩, rfl, rfl, by decide⟩

/-- A partial sum that finds the binding goes on with a third contributor; without one it waits (R434, R435). -/
theorem test_ferrule : after (.redBf16 0) (sJob 1 (wBound 1) (kRed pRedBf16) []) (fun u => u.out.any (fun o => match o with
      | .packet 0 k => k.type == pRedBf16 && k.dst == 2 && k.count == 3
      | _ => false)) = true ∧
    after (.mirrorAck 0) (sJob 0 wAck kMirAck [cmdBound]) (fun u => (u.cmd? 2 3).map (fun c => (c.status, c.result)) == some (stPartial, 2)) = true := by
  refine ⟨?_, ?_⟩ <;> decide +kernel

/-! More witnesses of the engines' statements -/

/-- REDUCE_JOB_OPEN that fails each of its checks: too long a ring, an S engine's job, an open one, 256 jobs. -/
def pOpenBad : List Byte := packet 0x40 false [(0x0C, 2, 6), (0x0E, 2, 0), (0x12, 2, 20)]
def pOpen4 : List Byte := packet 0x40 false [(0x0C, 2, 4), (0x0E, 2, 3), (0x10, 1, 0), (0x12, 2, 0), (0x14, 4, 0x3C000000), (0x18, 4, 0x3F000000), (0x30, 2, 3)]
def sOpenS : State := { sOpen with sec := { sOpen.sec with ferruleWorld := [(0, .s)] } }
def sOpenAgain : State := withJob [(4, jobA)] [] [] [] [command pOpen4]
def sOpenFull : State := withJob ((List.range 256).map fun k => (8 + 2 * k, jobA)) [] [] [] [command pOpen]
theorem test_hyps_FerruleJobs_refused : (Starts (withJob [] [] [] [] [command pOpenBad]) 0x40 2 3 (command pOpenBad) .ns ∧ ¬arg (command pOpenBad) 0x12 2 ≤ 19) ∧
    (Starts sOpenS 0x40 2 3 (command pOpen) .ns ∧ mget sOpenS.sec.ferruleWorld (arg (command pOpen) 0x0C 2 % 2) .ns = .s) ∧
    (Starts sOpenAgain 0x40 2 3 (command pOpen4) .ns ∧ (job? sOpenAgain 4).isSome = true) ∧
    (Starts sOpenFull 0x40 2 3 (command pOpen) .ns ∧ 256 ≤ engineJobs sOpenFull 0 ∧ job? sOpenFull 6 = none) ∧
    (let s := withJob [] [] [] [] [command pClose]
     Starts s 0x41 2 3 (command pClose) .ns ∧ job? s 4 = none) ∧
    (let s := { sClose [] with sec := { (sClose []).sec with ferruleWorld := [(0, .s)] } }
     Starts s 0x41 2 3 (command pClose) .ns ∧ job? s 4 = some jobA ∧ mget s.sec.ferruleWorld (4 % 2) .ns ≠ .ns) := by
  refine ⟨⟨starts_of rfl (by decide) ⟨_, rfl, rfl⟩, by decide⟩, ⟨starts_of rfl (by decide) ⟨_, rfl, rfl⟩, by decide⟩, ⟨starts_of rfl (by decide) ⟨_, rfl, rfl⟩, by decide⟩,
    ⟨starts_of rfl (by decide) ⟨_, rfl, rfl⟩, by decide +kernel, by decide +kernel⟩, ⟨starts_of rfl (by decide) ⟨_, rfl, rfl⟩, by decide⟩,
    ⟨starts_of rfl (by decide) ⟨_, rfl, rfl⟩, rfl, by decide⟩⟩

def pCloseAbort : List Byte := packet 0x41 false [(0x0C, 2, 4), (0x0E, 1, 1)]
def cmdBind1 : Cmd := { command (pParam 1) with wait := .bind 4 1 7 }
theorem test_hyps_FerruleJobs_abort : (let s := withJob [(4, jobA)] [] [wBound 1] [] [command pCloseAbort]
     Starts s 0x41 2 3 (command pCloseAbort) .ns ∧ jobBusy s 4 = true ∧ arg (command pCloseAbort) 0x0E 1 % 2 = 1 ∧ wBound 1 ∈ s.fer.works ∧
       (wBound 1).live = some bindA) ∧
    clockOn (sParam 1) (.ferrule (if 4 % 2 = 0 then 0 else 1)) = true ∧ jobA.closing = false := by
  refine ⟨⟨starts_of rfl (by decide) ⟨_, rfl, rfl⟩, by decide, by decide, by decide, rfl⟩, by decide, rfl⟩

/-- The owner of shard 0: a sum that finds its binding, one whose deadline passes, and a chunk that no sum reaches; a unit for a
shard-step with a binding. -/
theorem owns_A (k : Packet) (w : Work) (h : w.job = 4 ∧ w.updated = [] ∧ w.counts = []) : Owns (sJob 0 w k []) jobA w 0 :=
  ⟨by show isOwner (withChain chainA []) jobA 0 = true; decide, by rw [h.1]; rfl, by decide, rfl, h.2.1, h.2.2⟩
theorem test_hyps_FerruleArrivals_owner : Owns (sJob 0 (wBound 0) (kRed pRedBf16) []) jobA (wBound 0) 0 ∧
    Owns (sJob 0 (wWaits 0 98000) kNone []) jobA (wWaits 0 98000) 0 ∧
    OnlyWork (sJob 0 (wBound 0) kNone []) (wBound 0) 4 0 7 ∧ OnlyWork (sJob 0 (wWaits 0 98000) kNone []) (wWaits 0 98000) 4 0 7 ∧
    (∀ sh ∈ [0, 1], shardBusy (sJob sh (wBound sh) kNone []) 4 sh = false ∧ shardBusy (sJob sh (wWaits sh 98000) kNone []) 4 sh = false) ∧
    (chunkA 0).shard.toNat = 0 ∧ (chunkA 0).step.setWidth 16 = (7 : BitVec 16) ∧
    (let s := sJob 1 (wBound 1) kGather []
     ForJob s 0 pGather kGather jobA ∧ OnlyWork s (wBound 1) 4 1 7 ∧ (wBound 1).bind = some bindA ∧ jobA.closing = false) ∧
    (kMirror.count % 8 < 4 ∧ jobA.restored = false) := by
  refine ⟨owns_A _ _ ⟨rfl, rfl, rfl⟩, owns_A _ _ ⟨rfl, rfl, rfl⟩, only_work ⟨rfl, rfl, rfl, rfl, rfl⟩, only_work ⟨rfl, rfl, rfl, rfl, rfl⟩, by decide,
    by decide, by decide, ⟨for_job rfl, only_work ⟨rfl, rfl, rfl, rfl, rfl⟩, rfl, rfl⟩, by decide⟩

def mirA : Mirror := ⟨4, 1, 3, 0x10000, mirrorSize jobA recR, 7, [(0, 0)], false⟩
def kMirEnd : Packet := kJob pMirror (header 3 0 1) [1, 2, 3, 4]
def kMirRec : Packet := kJob pMirror (header 7 0 1) (List.replicate 64 1)
def sMirEnd (k : Packet) : State := { sMirror 0x20000 with chain := { chainA with rxq := [(0, k)] }, fer := { (sMirror 0x20000).fer with mirrors := [mirA] } }
/-- The last unit of a mirror, and the record of a shard that this device takes over; a MIRROR_ACK that tells of a failure. -/
theorem test_hyps_FerruleEnds_mirror : (ForJob (sMirEnd kMirEnd) 0 pMirror kMirEnd jobA ∧ kMirEnd.count % 8 = 3 ∧ rec? (sMirEnd kMirEnd) 4 1 = some recR ∧
      (sMirEnd kMirEnd).fer.mirrors = [mirA] ∧ mirA.size = mirrorSize jobA recR ∧ mirA.tag = kMirEnd.tag ∧ Leaves (sMirEnd kMirEnd) 3 20) ∧
    (ForJob (sMirEnd kMirRec) 0 pMirror kMirRec jobA ∧ kMirRec.count % 8 = 7 ∧ (sMirEnd kMirRec).fer.restores = []) ∧
    (8 ≤ (kJob pMirrorAck (header 8 0 0) []).count % 16 ∧ Leaves (sJob 0 wAck kMirAck [cmdBound]) 2 0 ∧ recR.bf16 = true ∧ bindA.bf16 = true ∧
      bindA.elements = recR.elements) := by
  refine ⟨⟨⟨⟨by decide, by decide, by decide⟩, rfl⟩, by decide, rfl, rfl, rfl, rfl, ⟨by decide, by decide, by decide, by decide⟩⟩,
    ⟨⟨⟨by decide, by decide, by decide⟩, rfl⟩, by decide, rfl⟩, by decide, ⟨by decide, by decide, by decide, by decide⟩, rfl, rfl, rfl⟩

/-- A NOJOB of the owner; a GATHER that one refuses; a RESTART at the first hop of shard 2, which has its binding. -/
def kNoOwner : Packet := kJob pNojob (header 0 0 0) ((packetBytes { kSent with dst := 2 }).take 32)
def kNoGather : Packet := kJob pNojob (header 0 0 0) ((packetBytes { kSent with type := pGather }).take 32)
def wGather : Work := { workA 1 with sent := [{ kSent with type := pGather }] }
theorem test_hyps_FerruleEnds_nojob : (Engine (sJob 1 wSent kNoOwner []) 0 pNojob kNoOwner ∧ OnlyWork (sJob 1 wSent kNoOwner []) wSent 4 1 7 ∧
      ownerOf (sJob 1 wSent kNoOwner []) jobA 1 = some (packetOf kNoOwner.payload).dst ∧ jobA.closing = false) ∧
    (Engine (sJob 1 wGather kNoGather []) 0 pNojob kNoGather ∧ OnlyWork (sJob 1 wGather kNoGather []) wGather 4 1 7 ∧
      (packetOf kNoGather.payload).type = pGather ∧ downOf (sJob 1 wGather kNoGather []) jobA 2 = some 3 ∧
      ownerOf (sJob 1 wGather kNoGather []) jobA 1 ≠ some 3 ∧ Leaves (sJob 1 wGather kNoGather []) 3 20) ∧
    (let k := kJob pRestart (header 0 0 2) []
     let s := sJob 2 (wBound 2) k []
     ForJob s 0 pRestart k jobA ∧ OnlyWork s (wBound 2) 4 2 7 ∧ (wBound 2).bind = some bindA ∧ firstHop s jobA 2 = true ∧
       isOwner s jobA 2 = false ∧ s.mem.poison = [] ∧ Leaves s 2 0) := by
  refine ⟨⟨engine_of _, only_work ⟨rfl, rfl, rfl, rfl, rfl⟩, by decide, rfl⟩,
    ⟨engine_of _, only_work ⟨rfl, rfl, rfl, rfl, rfl⟩, by decide, by decide, by decide, ⟨by decide, by decide, by decide, by decide⟩⟩,
    ⟨for_job rfl, only_work ⟨rfl, rfl, rfl, rfl, rfl⟩, rfl, by decide, by decide, rfl, ⟨by decide, by decide, by decide, by decide⟩⟩⟩

end Sys2Proof.Tests
end

section
/-!
SUPPORT. Accesses to control registers outside core instructions (00 R9 to R13, 10 R363 to R366, 15 R489): when a command reaches
its register, what a read and a write of a register then do, what the violation log's write leaves, and the words of the MSI-X table.
-/

namespace Sys2Proof.Machine

open Sys2Proof.Claims

/-! ## The frames of the shared operations -/

/-- With no hand-off of a shard-step, nothing is to be settled. -/
theorem settle_of_noHandoffs {s : State} (h : s.fer.handoffs = []) : settle s = s := by
  simp [settle, settleN, settleOne, h]

@[simp] theorem logVio_threads (s : State) (addr : Word) (agent src : BitVec 16) (kind info : Nat) :
    (logVio s addr agent src kind info).threads = s.threads := by
  simp only [logVio]; split <;> rfl

@[simp] theorem logVio_fer (s : State) (addr : Word) (agent src : BitVec 16) (kind info : Nat) :
    (logVio s addr agent src kind info).fer = s.fer := by
  simp only [logVio]; split <;> rfl

@[simp] theorem logVio_pend (s : State) (addr : Word) (agent src : BitVec 16) (kind info : Nat) :
    (logVio s addr agent src kind info).sec.pend = s.sec.pend := by
  simp only [logVio]; split <;> rfl

/-- The log's count of dropped entries is the one register that a refusal may change. -/
theorem ctlGet_logVio_other (s : State) (addr : Word) (agent src : BitVec 16) (kind info : Nat) {r : Nat} (h : r ≠ rVstat) :
    ctlGet (logVio s addr agent src kind info) r = ctlGet s r := by
  simp only [logVio]
  split
  · rfl
  · exact ctlGet_ctlSet_other _ _ _ _ h

/-- A log that is not full takes the entry of the refusal (15 R490). -/
theorem logVio_vlog (s : State) (addr : Word) (agent src : BitVec 16) (kind info : Nat) (h : s.sec.vlog.length < 4096) :
    (logVio s addr agent src kind info).sec.vlog =
      s.sec.vlog ++ [⟨s.plat.devTime, addr, agent, src, BitVec.ofNat 8 kind, BitVec.ofNat 8 info⟩] := by
  simp only [logVio, if_pos h]

/-! ## A wake of the lathe whose block is accessed -/

@[simp] theorem wakeLathe_ctl (s : State) (l : Nat) : (wakeLathe s l).ctl = s.ctl := by
  simp only [wakeLathe]; split <;> split <;> rfl
@[simp] theorem wakeLathe_mem (s : State) (l : Nat) : (wakeLathe s l).mem = s.mem := by
  simp only [wakeLathe]; split <;> split <;> rfl
@[simp] theorem wakeLathe_threads (s : State) (l : Nat) : (wakeLathe s l).threads = s.threads := by
  simp only [wakeLathe]; split <;> split <;> rfl
@[simp] theorem wakeLathe_out (s : State) (l : Nat) : (wakeLathe s l).out = s.out := by
  simp only [wakeLathe]; split <;> split <;> rfl

/-- A wake changes no field of a lathe but its `waking`. -/
theorem wakeLathe_lathe (s : State) (l n : Nat) : ∃ b, (wakeLathe s l).lathe n = { s.lathe n with waking := b } := by
  have setWaking : ∀ u : State, ∃ b, (u.setLathe l { u.lathe l with waking := true }).lathe n = { u.lathe n with waking := b } := by
    intro u
    by_cases h : n = l
    · exact ⟨true, by rw [h, State.setLathe_lathe]⟩
    · exact ⟨(u.lathe n).waking, by rw [State.setLathe_lathe_other _ _ _ _ h]⟩
  simp only [wakeLathe]
  split <;> split
  · exact ⟨_, rfl⟩
  · exact setWaking { s with pwr := { s.pwr with waking := true } }
  · exact ⟨_, rfl⟩
  · exact setWaking s

/-- No register of a lathe block tells whether its lathe is waking. -/
theorem latheReg_wakeLathe (s : State) (l n o : Nat) : latheReg (wakeLathe s l) n o = latheReg s n o := by
  obtain ⟨b, h⟩ := wakeLathe_lathe s l n
  simp [latheReg, remapsOf, tileStat, fuSlot, ctlGet, h]

@[simp] theorem wakeFor_ctl (s : State) (o : Nat) : (wakeFor s o).ctl = s.ctl := by
  unfold wakeFor; split <;> simp
@[simp] theorem wakeFor_mem (s : State) (o : Nat) : (wakeFor s o).mem = s.mem := by
  unfold wakeFor; split <;> simp
@[simp] theorem wakeFor_threads (s : State) (o : Nat) : (wakeFor s o).threads = s.threads := by
  unfold wakeFor; split <;> simp
@[simp] theorem wakeFor_out (s : State) (o : Nat) : (wakeFor s o).out = s.out := by
  unfold wakeFor; split <;> simp

/-- An offset below the lathe blocks wakes no lathe. -/
theorem wakeFor_of_lt (s : State) {o : Nat} (h : o < 0x1000000) : wakeFor s o = s := by
  have : blockLathe o = none := if_neg (by omega)
  rw [wakeFor, this]

/-- From the lathe blocks on, a register is one of its lathe. -/
theorem regPeek_lathe (s : State) (w : World) {o : Nat} (h : 0x1000000 ≤ o) :
    regPeek s w o = latheReg s ((o - 0x1000000) / 0x40000) ((o - 0x1000000) % 0x40000) := by
  have below : ∀ b, b ≤ 0x1000000 → ¬o < b := fun b hb => by omega
  simp [regPeek, below, h]

theorem blockLathe_inside {o l : Nat} (h : blockLathe o = some l) : 0x1000000 ≤ o ∧ o < 0x2100000 := by
  unfold blockLathe at h
  split at h
  next hin => exact hin
  next => cases h

/-- The wake that an access causes leaves the value it reads. -/
theorem regPeek_wakeFor (s : State) (w : World) (o : Nat) : regPeek (wakeFor s o) w (o / 8 * 8) = regPeek s w (o / 8 * 8) := by
  unfold wakeFor
  split
  case h_1 l hl =>
    have ho : 0x1000000 ≤ o / 8 * 8 := by
      have inside := blockLathe_inside hl
      omega
    rw [regPeek_lathe _ _ ho, regPeek_lathe _ _ ho, latheReg_wakeLathe]
  case h_2 => rfl

/-! ## Commands that reach their register -/

/-- An agent's access is performed at once unless the host's accesses are held (16 R513). -/
theorem hold_passes {s : State} {a : Agent} (p : Posted) (k : State)
    (h : a = .host → s.pwr.standby = false ∧ clockOn s (.hostComplex 0) = true) : hold s a p k = k := by
  by_cases ha : a = .host
  · obtain ⟨hs, hc⟩ := h ha
    simp [hold, hs, hc]
  · simp [hold, ha]

theorem hold_hostIn {s : State} {a : Agent} (p : Posted) (k : State) (h : a = .host → HostIn s) : hold s a p k = k :=
  hold_passes p k fun ha => ⟨(h ha).awake, (h ha).clock⟩

theorem hostReaches_linkUp {s : State} {o : Nat} (h : hostReaches s o = true) : s.host.linkUp = true :=
  (Bool.and_eq_true_iff.1 h).1

theorem not_unreached {s : State} {a : Agent} {o : Nat} (h : a = .host → hostReaches s o = true) :
    ¬(a = .host ∧ (!hostReaches s o) = true) := fun ⟨ha, hr⟩ => by simp [h ha] at hr

theorem agentWrite_reaches {s : State} {a : Agent} {o n : Nat} (v : Word) (hh : a = .host → hostReaches s o = true)
    (hg : regGate s (agentWorld s a) o n = none) : agentWrite s a o n v = regWrite s a o n v := by
  rw [agentWrite, if_neg (not_unreached hh), hg]

theorem agentWrite_refused {s : State} {a : Agent} {o n : Nat} {f : RegFail} (v : Word)
    (hh : a = .host → hostReaches s o = true) (hg : regGate s (agentWorld s a) o n = some f) :
    agentWrite s a o n v = refusedWrite s a o n v f := by
  rw [agentWrite, if_neg (not_unreached hh), hg]

theorem regCommand_reaches {s : State} {a : Agent} {o n : Nat} (v : Word) (h : reachesReg s a o n) :
    regCommand s a o n v = regWrite s a o n v := by
  obtain ⟨hh, hg⟩ := h
  rw [regCommand, hold_passes _ _ fun ha => (hh ha).2, agentWrite_reaches v (fun ha => (hh ha).1) hg]

theorem readCommand_reaches {s : State} {a : Agent} {o n : Nat} (h : reachesReg s a o n) :
    readCommand s a o n = emit (regRead s a o n).2 (.readData a (regRead s a o n).1) := by
  obtain ⟨hh, hg⟩ := h
  have hr : agentRead s a o n = emit (regRead s a o n).2 (.readData a (regRead s a o n).1) := by
    have link : ¬(a = .host ∧ (!s.host.linkUp) = true) := fun ⟨ha, hl⟩ => by simp [hostReaches_linkUp (hh ha).1] at hl
    rw [agentRead, if_neg link, if_neg (not_unreached fun ha => (hh ha).1), hg]
  rw [readCommand, hold_passes _ _ fun ha => (hh ha).2, hr, ite_self]

/-- A register that is neither DEV_TIME nor one of a mailbox is read without a side effect but the wake. -/
theorem regRead_plain {s : State} {o : Nat} (n : Nat) (ht : o / 8 * 8 ≠ rDevTime) (hm : o < 0x400000 ∨ rMbx 64 ≤ o) :
    regRead s .host o n = (halfOf (regPeek s .ns (o / 8 * 8)) o n, wakeFor s o) := by
  have hb : ¬(0x400000 ≤ o ∧ o < rMbx 64) := by omega
  simp only [regRead, if_neg ht, if_neg hb, agentWorld, regPeek_wakeFor]

/-- REGISTER_WRITE of control space, with no hand-off to settle. -/
theorem leadsTo_registerWrite {s : State} {a : Agent} {o n : Nat} {v : Word} {P : State → Prop} {u : State}
    (hu : regCommand s a o n v = u) (hf : u.fer.handoffs = []) (hP : P u) : leadsTo (.registerWrite a false o n v) s P := by
  refine ⟨u, ?_, hP⟩
  show Host.Outcome.next (settle (regCommand s a o n v)) = _
  rw [hu, settle_of_noHandoffs hf]

theorem onlyRegisters_ctlSet (s : State) (o : Nat) (v : Word) : onlyRegisters s (ctlSet s o v) :=
  ⟨rfl, rfl, rfl, rfl, rfl, rfl, rfl, rfl⟩

/-! ## Rows of the register maps -/

/-- A row holds no offset past its end. -/
theorem RegRow.has_of_end_le {r : RegRow} {o : Nat} (hs : 0 < r.stride) (h : r.base + r.count * r.stride ≤ o) :
    r.has o = false := by
  have : ¬(o - r.base) / r.stride < r.count := by
    rw [Nat.div_lt_iff_lt_mul hs]
    omega
  simp [RegRow.has, this]

theorem RegRow.has_index {r : RegRow} {i : Nat} (hs : 0 < r.stride) (h : i < r.count) : r.has (r.base + i * r.stride) = true := by
  simp [RegRow.has, Nat.mul_div_cancel i hs, h]

/-- A row that holds an offset is its row when the rows before it end below. -/
theorem regRow?_of_split {pre post : List RegRow} {r : RegRow} {o : Nat} (hl : regRows = pre ++ r :: post)
    (hp : ∀ q ∈ pre, 0 < q.stride ∧ q.base + q.count * q.stride ≤ o) (hr : r.has o = true) : regRow? o = some r := by
  rw [regRow?, List.find?_eq_some_iff_append]
  exact ⟨hr, pre, post, hl, fun q hq => by simp [RegRow.has_of_end_le (hp q hq).1 (hp q hq).2]⟩

/-! ## Halves of a word -/

theorem and_ones (x : Word) : x &&& 0xFFFFFFFFFFFFFFFF#64 = x := BitVec.and_allOnes
theorem ones_and (x : Word) : 0xFFFFFFFFFFFFFFFF#64 &&& x = x := BitVec.allOnes_and
theorem and_ones_half (x : BitVec 32) : x &&& 0xFFFFFFFF#32 = x := BitVec.and_allOnes

theorem shiftLeft_half_and_high (v : Word) : v <<< 32 &&& 0xFFFFFFFF00000000#64 = v <<< 32 := by
  have high : 0xFFFFFFFF00000000#64 = BitVec.allOnes 64 <<< 32 := rfl
  rw [high, ← BitVec.shiftLeft_and_distrib, BitVec.and_allOnes]

theorem setWidth_half_high (v : BitVec 32) : v.setWidth 64 >>> 32 = 0#64 := by
  ext i hi
  simp

theorem shiftLeft_half_high (v : BitVec 32) : ((v.setWidth 64 <<< 32) >>> 32).setWidth 32 = v := by
  ext i hi
  have h1 : 32 + i < 64 := by omega
  have h2 : i < 64 := by omega
  simp [h1, h2, BitVec.getLsbD_eq_getElem hi]

/-! ## DEV_SEED (04 R168) -/

theorem regRow?_rSeed_ns {k : Nat} (h : k < 128) :
    regRow? (rSeed k) = some ⟨rSeed 0, 8, 128, 0xFFFFFFFFFFFFFFFF#64, 0, 0, 0⟩ := by
  have before : ∀ q ∈ regRows.take 18, 0 < q.stride ∧ q.base + q.count * q.stride ≤ rSeed 0 := by decide
  have index : rSeed k = rSeed 0 + k * 8 := by simp only [rSeed]; omega
  rw [index]
  exact regRow?_of_split (pre := regRows.take 18) (post := regRows.drop 19) rfl
    (fun q hq => ⟨(before q hq).1, Nat.le_trans (before q hq).2 (Nat.le_add_right _ _)⟩) (RegRow.has_index (by decide) h)

theorem regRow?_rSeed_s {k : Nat} (h : 128 ≤ k) (h' : k < 256) :
    regRow? (rSeed k) = some ⟨rSeed 128, 8, 128, 0, 0xFFFFFFFFFFFFFFFF#64, 0, 0⟩ := by
  have before : ∀ q ∈ regRows.take 19, 0 < q.stride ∧ q.base + q.count * q.stride ≤ rSeed 128 := by decide
  have index : rSeed k = rSeed 128 + (k - 128) * 8 := by simp only [rSeed]; omega
  rw [index]
  exact regRow?_of_split (pre := regRows.take 19) (post := regRows.drop 20) rfl
    (fun q hq => ⟨(before q hq).1, Nat.le_trans (before q hq).2 (Nat.le_add_right _ _)⟩)
    (RegRow.has_index (by decide) (show k - 128 < 128 by omega))

/-- A write of a seed's slot is a write by the access codes of its row. -/
theorem regWrite_rSeed (s : State) (a : Agent) {k o : Nat} (n : Nat) (v : Word) (hk : k < 256) (ho : o / 8 * 8 = rSeed k) :
    regWrite s a o n v = rowWrite s a (rSeed k) n (writeVal v o n) (writeMask o n) := by
  simp only [rSeed] at ho
  have hw : wakeFor s o = s := wakeFor_of_lt s (by omega)
  have h1 : ¬o < 0x100000 := by omega
  have h2 : o < 0x200000 := by omega
  simp only [regWrite, hw, ho, if_neg h1, if_pos h2, devWrite, rSeed, rAlarm, rRecovery, rTaskdb, rSeq]
  rw [if_neg (by omega), if_neg (by omega), if_neg (by omega), if_neg (by omega)]

/-- A seed of the NS half is everyone's, one of the S half that of an S agent: a write replaces the bits that it covers. -/
theorem rowWrite_rSeed (s : State) {a : Agent} {k : Nat} (n : Nat) (v mask : Word) (hk : k < 256)
    (hw : k < 128 ∨ agentWorld s a = .s) :
    rowWrite s a (rSeed k) n v mask = ctlSet s (rSeed k) ((ctlGet s (rSeed k) &&& ~~~mask) ||| (v &&& mask)) := by
  by_cases h : k < 128
  · cases hx : agentWorld s a <;> simp [rowWrite, regRow?_rSeed_ns h, RegRow.violates, RegRow.write, hx, ones_and, and_ones]
  · have hx : agentWorld s a = .s := hw.resolve_left h
    simp [rowWrite, regRow?_rSeed_s (Nat.le_of_not_lt h) hk, RegRow.violates, RegRow.write, hx, ones_and, and_ones]

/-- An NS agent's write of a seed of the S half leaves it, and leaves the Ferrule engines (15 R489). -/
theorem rowWrite_rSeed_refused (s : State) {a : Agent} {k : Nat} (n : Nat) (v mask : Word) (h : 128 ≤ k) (h' : k < 256)
    (hw : agentWorld s a = .ns) :
    ctlGet (rowWrite s a (rSeed k) n v mask) (rSeed k) = ctlGet s (rSeed k) ∧ (rowWrite s a (rSeed k) n v mask).fer = s.fer := by
  simp only [rowWrite, regRow?_rSeed_s h h']
  constructor
  · simp [RegRow.write, hw, and_ones]
  · split <;> simp [noteField]

theorem rSeed_slot (k : Nat) : rSeed k / 8 * 8 = rSeed k := by simp only [rSeed]; omega
theorem rSeed_slot_high (k : Nat) : (rSeed k + 4) / 8 * 8 = rSeed k := by simp only [rSeed]; omega
theorem rSeed_mod (k : Nat) : rSeed k % 8 = 0 := by simp only [rSeed]; omega
theorem rSeed_high_mod (k : Nat) : (rSeed k + 4) % 8 = 4 := by simp only [rSeed]; omega

/-- A permitted write command at the slot of a seed. -/
theorem regCommand_rSeed {s : State} {a : Agent} {k o n : Nat} (v : Word) (hk : k < 256) (hw : k < 128 ∨ agentWorld s a = .s)
    (hr : reachesReg s a o n) (ho : o / 8 * 8 = rSeed k) :
    regCommand s a o n v =
      ctlSet s (rSeed k) ((ctlGet s (rSeed k) &&& ~~~writeMask o n) ||| (writeVal v o n &&& writeMask o n)) := by
  rw [regCommand_reaches v hr, regWrite_rSeed s a n v hk ho, rowWrite_rSeed s n _ _ hk hw]

/-! ## The MSI-X table (10 R363) -/

/-- An MSI-X entry after a write of its word `w`. -/
def MsixEntry.putWord (e : MsixEntry) (w : Nat) (v : BitVec 32) : MsixEntry :=
  match w with
  | 0 => { e with addr := (e.addr &&& 0xFFFFFFFF00000000#64) ||| (v.setWidth 64 &&& ~~~3) }
  | 1 => { e with addr := (e.addr &&& 0xFFFFFFFF#64) ||| v.setWidth 64 <<< 32 }
  | 2 => { e with data := v }
  | _ => { e with masked := v.getLsbD 0 }

/-- What word `w` of an MSI-X entry holds of a written value: the address is word aligned, the mask one bit. -/
def msixField (w : Nat) (v : BitVec 32) : BitVec 32 :=
  if w = 0 then v &&& ~~~3#32 else if w = 3 then v &&& 1#32 else v

theorem mask_word (v : BitVec 32) : (if v.getLsbD 0 then 1 else 0 : BitVec 32) = v &&& 1#32 := by
  ext i hi
  cases i <;> cases h : v.getLsbD 0 <;> simp_all

theorem msixWord_putWord_same (e : MsixEntry) {w : Nat} (v : BitVec 32) (h : w < 4) :
    msixWord (e.putWord w v) w = msixField w v := by
  match w, h with
  | 0, _ => simp [msixWord, MsixEntry.putWord, msixField, BitVec.setWidth_or, BitVec.setWidth_and]
  | 1, _ =>
    simp [msixWord, MsixEntry.putWord, msixField, BitVec.ushiftRight_or_distrib, BitVec.ushiftRight_and_distrib,
      shiftLeft_half_high]
  | 2, _ => rfl
  | 3, _ => exact mask_word v

theorem msixWord_putWord_other (e : MsixEntry) {w x : Nat} (v : BitVec 32) (hw : w < 4) (hx : x < 4) (h : x ≠ w) :
    msixWord (e.putWord w v) x = msixWord e x := by
  match w, hw, x, hx with
  | 0, _, 1, _ =>
    simp [msixWord, MsixEntry.putWord, BitVec.ushiftRight_or_distrib, BitVec.ushiftRight_and_distrib, setWidth_half_high,
      BitVec.setWidth_and, and_ones_half]
  | 1, _, 0, _ =>
    simp [msixWord, MsixEntry.putWord, BitVec.setWidth_or, BitVec.setWidth_and, and_ones_half]
  | 0, _, 0, _ | 1, _, 1, _ | 2, _, 2, _ | 3, _, 3, _ => exact absurd rfl h
  | 0, _, 2, _ | 0, _, 3, _ | 1, _, 2, _ | 1, _, 3, _ | 2, _, 0, _ | 2, _, 1, _ | 2, _, 3, _ | 3, _, 0, _ | 3, _, 1, _
  | 3, _, 2, _ => rfl

/-- The state with entry `k` of the MSI-X table replaced. -/
def setMsix (s : State) (k : Nat) (e : MsixEntry) : State := { s with host := { s.host with msix := mset s.host.msix k e } }

@[simp] theorem msixEntry_setMsix_same (s : State) (k : Nat) (e : MsixEntry) : msixEntry (setMsix s k e) k = e := by
  simp [msixEntry, setMsix]

theorem msixEntry_setMsix_other (s : State) {k n : Nat} (e : MsixEntry) (h : n ≠ k) :
    msixEntry (setMsix s k e) n = msixEntry s n := mget_mset_other _ _ _ _ _ h

/-- An unmasking touches no entry of the table. -/
@[simp] theorem msixEntry_unmask (s : State) (k n : Nat) : msixEntry (unmask s k) n = msixEntry s n := by
  simp only [unmask]; split <;> rfl
@[simp] theorem unmask_ctl (s : State) (k : Nat) : (unmask s k).ctl = s.ctl := by simp only [unmask]; split <;> rfl
@[simp] theorem unmask_mem (s : State) (k : Nat) : (unmask s k).mem = s.mem := by simp only [unmask]; split <;> rfl
@[simp] theorem unmask_fer (s : State) (k : Nat) : (unmask s k).fer = s.fer := by simp only [unmask]; split <;> rfl

/-- An unmasked vector with a pending message sends it, which is then pending no more. -/
theorem unmask_pending {s : State} {k : Nat} (hp : k ∈ s.host.pba) (hm : (msixEntry s k).masked = false) :
    (unmask s k).out = s.out ++ [.msix k] ∧ k ∉ (unmask s k).host.pba := by
  simp [unmask, hp, hm]

theorem unmask_not_pending {s : State} {k : Nat} (hp : k ∉ s.host.pba) : unmask s k = s := by
  simp [unmask, hp]

/-- The table's words, by entry and place in the entry. -/
theorem bar2Word_table (s : State) {o : Nat} (h : 0x10000 ≤ o) (h' : o < 0x18000) :
    bar2Word s o = msixWord (msixEntry s ((o - 0x10000) / 16)) (o % 16 / 4) := if_pos ⟨h, h'⟩

/-- The offset in BAR2 of word `j` of entry `k`. -/
def msixAt (k j : Nat) : Nat := 0x10000 + 16 * k + 4 * j

theorem msixAt_entry (k : Nat) {j : Nat} (h : j < 4) : (msixAt k j - 0x10000) / 16 = k := by simp only [msixAt]; omega
theorem msixAt_word (k : Nat) {j : Nat} (h : j < 4) : msixAt k j % 16 / 4 = j := by simp only [msixAt]; omega
theorem msixAt_inside {k j : Nat} (hk : k < 2048) (hj : j < 4) : 0x10000 ≤ msixAt k j ∧ msixAt k j < 0x18000 := by
  simp only [msixAt]; omega

theorem msixPut_msixAt (s : State) {k j : Nat} (v : BitVec 32) (hk : k < 2048) (hj : j < 4) :
    msixPut s (msixAt k j) v = unmask (setMsix s k ((msixEntry s k).putWord j v)) k := by
  simp only [msixPut, if_pos (msixAt_inside hk hj), msixAt_entry k hj, msixAt_word k hj]
  rfl

theorem bar2Word_msixPut_same (s : State) {k j : Nat} (v : BitVec 32) (hk : k < 2048) (hj : j < 4) :
    bar2Word (msixPut s (msixAt k j) v) (msixAt k j) = msixField j v := by
  rw [bar2Word_table _ (msixAt_inside hk hj).1 (msixAt_inside hk hj).2, msixAt_entry k hj, msixAt_word k hj,
    msixPut_msixAt s v hk hj, msixEntry_unmask, msixEntry_setMsix_same, msixWord_putWord_same _ v hj]

theorem bar2Word_msixPut_other (s : State) {k j o : Nat} (v : BitVec 32) (hk : k < 2048) (hj : j < 4) (ha : o % 4 = 0)
    (ho : o ≠ msixAt k j) (h : 0x10000 ≤ o) (h' : o < 0x18000) :
    bar2Word (msixPut s (msixAt k j) v) o = bar2Word s o := by
  rw [bar2Word_table _ h h', bar2Word_table _ h h', msixPut_msixAt s v hk hj, msixEntry_unmask]
  by_cases hn : (o - 0x10000) / 16 = k
  · have hw : o % 16 / 4 ≠ j := by
      simp only [msixAt] at ho
      omega
    rw [hn, msixEntry_setMsix_same, msixWord_putWord_other _ v hj (by omega) hw]
  · rw [msixEntry_setMsix_other _ _ hn]

/-- A 32-bit write of the host to a word of the table. -/
theorem bar2Write_msixAt {s : State} {k j : Nat} (v : Word) (hl : s.host.linkUp = true) (hr : s.plat.ready = true)
    (hj : j < 4) : bar2Write s (msixAt k j) 4 v = msixPut s (msixAt k j) (v.setWidth 32) := by
  have low : ¬msixAt k j < 0x10 := by simp only [msixAt]; omega
  have word : msixAt k j % 4 = 0 := by simp only [msixAt]; omega
  simp [bar2Write, hl, hr, low, aligned, word]

/-- REGISTER_WRITE of the host to a word of the table, with no hand-off to settle. -/
theorem exec_registerWrite_msixAt {s : State} {k j : Nat} (v : Word) (hh : HostIn s) (hr : s.plat.ready = true)
    (hf : s.fer.handoffs = []) (hk : k < 2048) (hj : j < 4) :
    exec (.registerWrite .host true (msixAt k j) 4 v) s = .next (msixPut s (msixAt k j) (v.setWidth 32)) := by
  show Host.Outcome.next (settle (hold s .host _ (bar2Write s (msixAt k j) 4 v))) = _
  rw [hold_hostIn _ _ fun _ => hh, bar2Write_msixAt v hh.link hr hj, settle_of_noHandoffs]
  rw [msixPut_msixAt s _ hk hj, unmask_fer]
  exact hf

/-! ## The clauses of the obligation -/

/-- A host read through BAR0 answers with the register, or with the half that it covers (00 R9, R10; 10 R366). -/
theorem bar0Read_register {o n : Nat} {s : State} (hr : reachesReg s .host o n) (ht : o / 8 * 8 ≠ rDevTime)
    (hm : o < 0x400000 ∨ rMbx 64 ≤ o) :
    leadsTo (.bar0Read false o n) s (fun u => sameMemory s u ∧ u.threads = s.threads ∧ u.ctl = s.ctl ∧
      u.out = s.out ++ [.readData .host (halfOf (regPeek s .ns (o / 8 * 8)) o n)]) := by
  refine ⟨readCommand s .host o n, rfl, ?_⟩
  rw [readCommand_reaches hr, regRead_plain n ht hm]
  simp [sameMemory, byteAt]

theorem regPeek_devId (s : State) (w : World) : regPeek s w rDevId = ctlGet s rDevId := by
  simp [regPeek, rDevId, rClksrc, rStraps, rAlarm, rStore, rTaskdb]

/-- A permitted write of a whole seed (04 R168). -/
theorem registerWrite_seed {a : Agent} {k : Nat} (v : Word) {s : State} (hk : k < 256) (hr : reachesReg s a (rSeed k) 8)
    (hf : s.fer.handoffs = []) (hw : k < 128 ∨ agentWorld s a = .s) :
    leadsTo (.registerWrite a false (rSeed k) 8 v) s (fun u => ctlGet u (rSeed k) = v ∧
      (∀ r, r ≠ rSeed k → ctlGet u r = ctlGet s r) ∧ onlyRegisters s u ∧ u.out = s.out) := by
  refine leadsTo_registerWrite (regCommand_rSeed v hk hw hr (rSeed_slot k)) hf
    ⟨?_, fun r h => ctlGet_ctlSet_other _ _ _ _ h, onlyRegisters_ctlSet _ _ _, rfl⟩
  simp [writeMask, writeVal, and_ones]

/-- A permitted write of the low half of a seed. -/
theorem registerWrite_seed_low {a : Agent} {k : Nat} (v : Word) {s : State} (hk : k < 256) (hr : reachesReg s a (rSeed k) 4)
    (hf : s.fer.handoffs = []) (hw : k < 128 ∨ agentWorld s a = .s) :
    leadsTo (.registerWrite a false (rSeed k) 4 v) s (fun u =>
      ctlGet u (rSeed k) = (ctlGet s (rSeed k) &&& 0xFFFFFFFF00000000#64) ||| (v &&& 0xFFFFFFFF#64) ∧ onlyRegisters s u) := by
  refine leadsTo_registerWrite (regCommand_rSeed v hk hw hr (rSeed_slot k)) hf ⟨?_, onlyRegisters_ctlSet _ _ _⟩
  simp [writeMask, writeVal, rSeed_mod, BitVec.and_assoc]

/-- A permitted write of the high half of a seed. -/
theorem registerWrite_seed_high {a : Agent} {k : Nat} (v : Word) {s : State} (hk : k < 256)
    (hr : reachesReg s a (rSeed k + 4) 4) (hf : s.fer.handoffs = []) (hw : k < 128 ∨ agentWorld s a = .s) :
    leadsTo (.registerWrite a false (rSeed k + 4) 4 v) s (fun u =>
      ctlGet u (rSeed k) = (ctlGet s (rSeed k) &&& 0xFFFFFFFF#64) ||| v <<< 32 ∧ onlyRegisters s u) := by
  refine leadsTo_registerWrite (regCommand_rSeed v hk hw hr (rSeed_slot_high k)) hf ⟨?_, onlyRegisters_ctlSet _ _ _⟩
  simp [writeMask, writeVal, rSeed_high_mod, BitVec.shiftLeft_and_distrib, shiftLeft_half_and_high]

/-- A write of a seed of the S half by an NS agent leaves it (15 R489). -/
theorem registerWrite_seed_refused {a : Agent} {k : Nat} (v : Word) {s : State} (h : 128 ≤ k) (h' : k < 256)
    (hr : reachesReg s a (rSeed k) 8) (hf : s.fer.handoffs = []) (hw : agentWorld s a = .ns) :
    leadsTo (.registerWrite a false (rSeed k) 8 v) s (fun u => ctlGet u (rSeed k) = ctlGet s (rSeed k)) := by
  obtain ⟨same, fer⟩ := rowWrite_rSeed_refused s 8 (writeVal v (rSeed k) 8) (writeMask (rSeed k) 8) h h' hw
  refine leadsTo_registerWrite ((regCommand_reaches v hr).trans (regWrite_rSeed s a 8 v h' (rSeed_slot k))) ?_ same
  rw [fer]
  exact hf

/-- A write of an NS agent in an S block is the entry in the violation log and nothing else (15 R489, R490). -/
theorem registerWrite_world {a : Agent} {o n : Nat} (v : Word) {s : State} (hg : regGate s .ns o n = some .world)
    (hw : agentWorld s a = .ns) (hh : a = .host → HostIn s ∧ hostReaches s o = true) (hf : s.fer.handoffs = []) :
    leadsTo (.registerWrite a false o n v) s (fun u => (∀ r, r ≠ rVstat → ctlGet u r = ctlGet s r) ∧
      u.threads = s.threads ∧ u.sec.pend = s.sec.pend ∧
      (s.sec.vlog.length < 4096 → ∃ e, u.sec.vlog = s.sec.vlog ++ [e] ∧ e.addr = BitVec.ofNat 64 (0x300000000000 + o) ∧
        e.agent = agentId a ∧ e.kind = 1 ∧ e.info = BitVec.ofNat 8 n ∧ e.time = s.plat.devTime)) := by
  have refusal : regCommand s a o n v = logVio s (BitVec.ofNat 64 (0x300000000000 + o)) (agentId a) 0 1 n := by
    rw [regCommand, hold_hostIn _ _ fun ha => (hh ha).1,
      agentWrite_refused (f := .world) v (fun ha => (hh ha).2) (by rw [hw, hg]), refusedWrite]
  refine leadsTo_registerWrite refusal (by rw [logVio_fer, hf]) ⟨fun r h => ctlGet_logVio_other _ _ _ _ _ _ h, ?_, ?_, ?_⟩
  · exact logVio_threads _ _ _ _ _ _
  · exact logVio_pend _ _ _ _ _ _
  · exact fun h => ⟨_, logVio_vlog _ _ _ _ _ _ h, rfl, rfl, rfl, rfl, rfl⟩

/-- A host read of a word through BAR2 (10 R363). -/
theorem bar2Read_word {o : Nat} {s : State} (hh : HostIn s) (ho : o % 4 = 0) :
    leadsTo (.bar0Read true o 4) s (fun u => onlyRegisters s u ∧ u.ctl = s.ctl ∧
      u.out = s.out ++ [.readData .host (if s.plat.ready then (bar2Word s o).setWidth 64 else 0)]) := by
  have read : bar2Read s o 4 = emit s (.readData .host (if s.plat.ready then (bar2Word s o).setWidth 64 else 0)) := by
    cases hr : s.plat.ready <;> simp [bar2Read, hh.link, hr, aligned, ho]
  refine ⟨bar2Read s o 4, ?_, ?_⟩
  · show Host.Outcome.next (hold s .host _ (bar2Read s o 4)) = _
    rw [hold_hostIn _ _ fun _ => hh]
  · rw [read]
    exact ⟨⟨rfl, rfl, rfl, rfl, rfl, rfl, rfl, rfl⟩, rfl, rfl⟩

/-- A host write of a word of the MSI-X table changes that word; one that unmasks a pending vector sends its message (10 R363,
R395). -/
theorem registerWrite_msix {k j : Nat} (v : Word) {s : State} (hk : k < 2048) (hj : j < 4) (hh : HostIn s)
    (hr : s.plat.ready = true) (hf : s.fer.handoffs = []) :
    leadsTo (.registerWrite .host true (msixAt k j) 4 v) s (fun u =>
      bar2Word u (msixAt k j) = msixField j (v.setWidth 32) ∧
      (∀ o, o % 4 = 0 → o ≠ msixAt k j → 0x10000 ≤ o → o < 0x18000 → bar2Word u o = bar2Word s o) ∧ u.ctl = s.ctl ∧
      sameMemory s u ∧
      (j = 3 → v.getLsbD 0 = false → k ∈ s.host.pba → u.out = s.out ++ [.msix k] ∧ k ∉ u.host.pba) ∧
      (k ∉ s.host.pba → u.out = s.out ∧ u.host.pba = s.host.pba)) := by
  refine ⟨_, exec_registerWrite_msixAt v hh hr hf hk hj, bar2Word_msixPut_same s _ hk hj,
    fun o ha ho h h' => bar2Word_msixPut_other s _ hk hj ha ho h h', ?_⟩
  rw [msixPut_msixAt s _ hk hj]
  refine ⟨unmask_ctl _ _, ?_, ?_, ?_⟩
  · intro c
    rw [byteAt, unmask_mem]
    rfl
  · rintro rfl hv hp
    exact unmask_pending (s := setMsix s k _) hp (by simpa [MsixEntry.putWord] using hv)
  · intro hp
    rw [unmask_not_pending (s := setMsix s k _) hp]
    exact ⟨rfl, rfl⟩

/-- Settles O39: each clause is the lemma on its access; a command that reaches its register is the register's read or write. -/
theorem registerAccess : Obligations.RegisterAccess := by
  unfold Obligations.RegisterAccess
  refine ⟨⟨?_, ?_, ?_, ?_, ?_, ?_⟩, ?_, ?_⟩
  · intro o n s hr ht hm
    obtain ⟨u, hu, hmem, hthr, hctl, hout⟩ := bar0Read_register hr ht hm
    refine ⟨u, hu, hmem, hthr, hctl, ?_, ?_⟩
    · rintro rfl
      exact hout
    · rintro rfl
      exact hout
  · intro s h
    rw [regPeek_devId, h]
  · intro a k v s hk hr hf hw
    exact registerWrite_seed v hk hr hf hw
  · intro a k v s hk hf hw
    exact ⟨fun hr => registerWrite_seed_low v hk hr hf hw, fun hr => registerWrite_seed_high v hk hr hf hw⟩
  · intro a k v s h h' hr hf hw
    exact registerWrite_seed_refused v h h' hr hf hw
  · intro a o n v s hg hw hh hf
    exact registerWrite_world v hg hw hh hf
  · intro o s hh ho
    exact bar2Read_word hh ho
  · intro k j v s hk hj hh hr hf
    exact registerWrite_msix v hk hj hh hr hf

end Sys2Proof.Machine
end

section
/-!
SUPPORT. Round trips of codes, words and packets (O17): a code of a format is the decoded value rounded (04 R152, Table 4-2), an
instruction word is the sum of its fields (02 R60, R61, Table 2-4), and a packet's fields are read at their offsets (11 Table 11-3).
-/

namespace Sys2Proof.Machine

/-! ## Bit fields and bit lengths of numbers -/

theorem nbits_eq_div_mod (x lo n : Nat) : nbits x lo n = x / 2 ^ lo % 2 ^ n := by
  rw [nbits, Nat.shiftRight_eq_div_pow]

theorem nbits_lt (x lo n : Nat) : nbits x lo n < 2 ^ n := Nat.mod_lt _ (Nat.two_pow_pos n)

/-- Two fields that meet are the digits of the field they form. -/
theorem nbits_append (x lo n k : Nat) : nbits x (lo + n) k * 2 ^ n + nbits x lo n = nbits x lo (n + k) := by
  simp only [nbits_eq_div_mod]
  rw [Nat.pow_add, Nat.pow_add, Nat.mod_mul, ← Nat.div_div_eq_div_mul, Nat.mul_comm, Nat.add_comm]

theorem nbits_zero_of_lt {x n : Nat} (h : x < 2 ^ n) : nbits x 0 n = x := by
  simp [nbits, Nat.mod_eq_of_lt h]

theorem bitLen_le {m k : Nat} (h : m < 2 ^ k) : bitLen m ≤ k := by
  by_cases hm : m = 0
  · simp [bitLen, hm]
  · rw [bitLen, if_neg hm]
    exact (Nat.log2_lt hm).2 h

theorem bitLen_of_leading_one {f k : Nat} (h : f < 2 ^ k) : bitLen (2 ^ k + f) = k + 1 := by
  have hp := Nat.two_pow_pos k
  have hm : 2 ^ k + f ≠ 0 := by omega
  have hl : (2 ^ k + f).log2 = k := (Nat.log2_eq_iff hm).2 ⟨by omega, by rw [Nat.pow_succ]; omega⟩
  rw [bitLen, if_neg hm, hl]

/-! ## The fields of a code (04 Table 4-2) -/

namespace FFmt

/-- The sign of a code, as `decode` reads it. -/
def signOf (F : FFmt) (c : Nat) : Bool := nbits c (F.eb + F.fb) 1 == 1

/-- The magnitude of a code: its exponent field and fraction together. -/
def magOf (F : FFmt) (c : Nat) : Nat := nbits c F.fb F.eb * 2 ^ F.fb + nbits c 0 F.fb

/-- A code is its sign and its magnitude. -/
theorem signAt_signOf_magOf {F : FFmt} {c : Nat} (h : c < 2 ^ (F.eb + F.fb + 1)) : F.signAt (F.signOf c) (F.magOf c) = c := by
  have hm : F.magOf c = nbits c 0 (F.eb + F.fb) := by
    have := nbits_append c 0 F.fb F.eb
    rwa [Nat.zero_add, Nat.add_comm F.fb] at this
  have hc : nbits c (F.eb + F.fb) 1 * 2 ^ (F.eb + F.fb) + F.magOf c = c := by
    have := nbits_append c 0 (F.eb + F.fb) 1
    rwa [Nat.zero_add, nbits_zero_of_lt h, ← hm] at this
  have hs : nbits c (F.eb + F.fb) 1 < 2 := nbits_lt _ _ _
  by_cases hb : nbits c (F.eb + F.fb) 1 = 1
  · rw [hb] at hc
    simp only [signAt, signOf, hb, beq_self_eq_true, if_true]
    omega
  · rw [show nbits c (F.eb + F.fb) 1 = 0 by omega] at hc
    simp only [signAt, signOf, beq_iff_eq, hb, if_false]
    omega

/-! ## The rounding of a value that the format represents -/

/-- Nothing remains when a value is rounded at its own unit: the code counts the units above the least exponent. -/
theorem roundMag_own_unit {F : FFmt} {m : Nat} {e : Int} (rm : RMode) (hm : m ≠ 0)
    (hq : max (e + (bitLen m : Int) - ((F.fb : Int) + 1)) F.emin = e) :
    (F.roundMag rm m e).code = (e - F.emin).toNat * 2 ^ F.fb + m ∧ (F.roundMag rm m e).inexact = false := by
  have hu : inUnits m e e = (m, 0, 1) := by simp [inUnits]
  have ht : takeHi rm (m, 0, 1) = false := by cases rm <;> simp [takeHi]
  simp [roundMag, hm, hq, hu, ht]

/-- A subnormal: exponent field 0. -/
theorem roundMag_subnormal {F : FFmt} {f : Nat} (rm : RMode) (h : f < 2 ^ F.fb) :
    (F.roundMag rm f F.emin).code = f ∧ (F.roundMag rm f F.emin).inexact = false := by
  by_cases h0 : f = 0
  · simp [roundMag, h0]
  · have hl := bitLen_le h
    have := roundMag_own_unit (F := F) (e := F.emin) rm h0 (by omega)
    simpa using this

/-- A normal number: the exponent field counts from 1, and the leading one carries into it. -/
theorem roundMag_normal {F : FFmt} {x f : Nat} (rm : RMode) (hx : x ≠ 0) (h : f < 2 ^ F.fb) :
    (F.roundMag rm (2 ^ F.fb + f) (F.emin + (x : Int) - 1)).code = x * 2 ^ F.fb + f ∧
    (F.roundMag rm (2 ^ F.fb + f) (F.emin + (x : Int) - 1)).inexact = false := by
  have hp := Nat.two_pow_pos F.fb
  obtain ⟨k, rfl⟩ := Nat.exists_eq_add_one_of_ne_zero hx
  have hl := bitLen_of_leading_one h
  obtain ⟨hc, hi⟩ := roundMag_own_unit (F := F) (e := F.emin + ((k + 1 : Nat) : Int) - 1) rm
    (show 2 ^ F.fb + f ≠ 0 by omega) (by omega)
  refine ⟨?_, hi⟩
  rw [hc, show (F.emin + ((k + 1 : Nat) : Int) - 1 - F.emin).toNat = k by omega, Nat.add_one_mul, Nat.add_assoc]

/-- An exact result that is in range sets no flag. -/
theorem deliver_exact {F : FFmt} {rm : RMode} {m mag : Nat} {e : Int} (neg : Bool)
    (hr : (F.roundMag rm m e).code = mag ∧ (F.roundMag rm m e).inexact = false) (hmax : mag ≤ F.maxCode) :
    F.deliver rm (.fin neg m e) = (F.signAt neg mag, 0) := by
  obtain ⟨hc, hi⟩ := hr
  simp [deliver, hc, hi, Nat.not_lt.2 hmax, fIf]

/-! ## What a code decodes to -/

/-- The magnitudes up to the largest finite one: those that are no infinity and no NaN. -/
theorem mag_le_maxCode {F : FFmt} {x f : Nat} (hx : x < 2 ^ F.eb) (hf : f < 2 ^ F.fb)
    (hi : ¬(F.kind = .ieee ∧ x = 2 ^ F.eb - 1)) (hn : ¬(F.kind = .e4m3 ∧ x = 2 ^ F.eb - 1 ∧ f = 2 ^ F.fb - 1)) :
    x * 2 ^ F.fb + f ≤ F.maxCode := by
  have hp := Nat.two_pow_pos F.fb
  have htop : x ≠ 2 ^ F.eb - 1 → (x + 1) * 2 ^ F.fb ≤ (2 ^ F.eb - 1) * 2 ^ F.fb :=
    fun h => Nat.mul_le_mul_right _ (by omega)
  have hall : (x + 1) * 2 ^ F.fb ≤ 2 ^ F.eb * 2 ^ F.fb := Nat.mul_le_mul_right _ hx
  rw [Nat.add_one_mul] at htop hall
  rw [Nat.sub_mul, Nat.one_mul] at htop
  cases hk : F.kind with
  | ieee =>
    have := htop fun h => hi ⟨hk, h⟩
    simp only [maxCode, hk, Nat.sub_mul, Nat.one_mul]
    omega
  | e4m3 =>
    simp only [maxCode, hk, Nat.pow_add]
    by_cases h : x = 2 ^ F.eb - 1
    · have hlast : f ≠ 2 ^ F.fb - 1 := fun h' => hn ⟨hk, h, h'⟩
      omega
    · have := htop h
      omega
  | e2m1 =>
    simp only [maxCode, hk, Nat.pow_add]
    omega

/-- A code is a NaN, an infinity, or a finite value that rounds to the code's own magnitude (04 R152). -/
theorem decode_cases (F : FFmt) (c : Nat) :
    (F.decode c).isNan = true ∨ (F.decode c = .inf (F.signOf c) ∧ F.magOf c = F.infCode) ∨
    (F.magOf c ≤ F.maxCode ∧ ∃ m e, F.decode c = .fin (F.signOf c) m e ∧
      ∀ rm, (F.roundMag rm m e).code = F.magOf c ∧ (F.roundMag rm m e).inexact = false) := by
  have hf : nbits c 0 F.fb < 2 ^ F.fb := nbits_lt _ _ _
  have hx : nbits c F.fb F.eb < 2 ^ F.eb := nbits_lt _ _ _
  by_cases hi : F.kind = .ieee ∧ nbits c F.fb F.eb = 2 ^ F.eb - 1
  · by_cases h0 : nbits c 0 F.fb = 0
    · exact .inr (.inl ⟨by simp only [decode, if_pos hi, if_pos h0, signOf], by rw [magOf, hi.2, h0, infCode, Nat.add_zero]⟩)
    · exact .inl (by simp only [decode, if_pos hi, if_neg h0, FVal.isNan])
  by_cases hn : F.kind = .e4m3 ∧ nbits c F.fb F.eb = 2 ^ F.eb - 1 ∧ nbits c 0 F.fb = 2 ^ F.fb - 1
  · exact .inl (by simp only [decode, if_neg hi, if_pos hn, FVal.isNan])
  refine .inr (.inr ⟨mag_le_maxCode hx hf hi hn, ?_⟩)
  by_cases h0 : nbits c F.fb F.eb = 0
  · refine ⟨nbits c 0 F.fb, F.emin, by simp only [decode, if_neg hi, if_neg hn, if_pos h0, signOf], fun rm => ?_⟩
    rw [magOf, h0, Nat.zero_mul, Nat.zero_add]
    exact roundMag_subnormal rm hf
  · exact ⟨2 ^ F.fb + nbits c 0 F.fb, F.emin + (nbits c F.fb F.eb : Int) - 1,
      by simp only [decode, if_neg hi, if_neg hn, if_neg h0, signOf], fun rm => roundMag_normal rm h0 hf⟩

theorem deliver_of_isNan {F : FFmt} {rm : RMode} {v : FVal} (h : v.isNan = true) : F.deliver rm v = (F.qnan, 0) := by
  cases v with
  | nan => rfl
  | inf | fin => cases h

/-- Whatever the format and the mode, a code that is no NaN is what its value converts to, with no flag. -/
theorem deliver_decode {F : FFmt} {c : Nat} (rm : RMode) (h : c < 2 ^ (F.eb + F.fb + 1)) (hn : (F.decode c).isNan = false) :
    F.deliver rm (F.decode c) = (c, 0) := by
  rcases F.decode_cases c with hnan | ⟨hinf, hmag⟩ | ⟨hmax, m, e, hfin, hround⟩
  · rw [hn] at hnan
    cases hnan
  · rw [hinf, deliver, ← hmag, signAt_signOf_magOf h]
  · rw [hfin, deliver_exact _ (hround rm) hmax, signAt_signOf_magOf h]

end FFmt

/-! ## Instruction words (02 Table 2-4) -/

/-- A word is the sum of its fields at their places; none reaches into the next. -/
theorem insWord_toNat (op : Nat) (f : Fld) : (insWord op f).toNat =
    f.gp.toNat * 2 ^ 60 + f.gi.toNat * 2 ^ 59 + op % 512 * 2 ^ 50 + f.d.toNat * 2 ^ 44 + f.s1.toNat * 2 ^ 38 +
      f.s2.toNat * 2 ^ 32 + f.imm.toNat := by
  have hg : (if f.gi then 1 else 0) = f.gi.toNat := by cases f.gi <;> rfl
  have hb := Bool.toNat_le f.gi
  rw [insWord, hg, BitVec.toNat_ofNat]
  omega

theorem wordOp_eq (w : Word) : wordOp w = w.toNat / 2 ^ 50 % 512 := nbits_eq_div_mod _ _ _

/-- Each field of a word as the digits at its place (02 Table 2-4). -/
theorem wordFld_toNat (w : Word) : (wordFld w).gp.toNat = w.toNat / 2 ^ 60 ∧ (wordFld w).gi.toNat = w.toNat / 2 ^ 59 % 2 ∧
    (wordFld w).d.toNat = w.toNat / 2 ^ 44 % 64 ∧ (wordFld w).s1.toNat = w.toNat / 2 ^ 38 % 64 ∧
    (wordFld w).s2.toNat = w.toNat / 2 ^ 32 % 64 ∧ (wordFld w).imm.toNat = w.toNat % 2 ^ 32 := by
  have hw := w.isLt
  simp only [wordFld, BitVec.toNat_setWidth, BitVec.toNat_ushiftRight, Nat.shiftRight_eq_div_pow, BitVec.getLsbD,
    Nat.toNat_testBit, and_true]
  omega

theorem Fld.eq_of_toNat_eq {f g : Fld} (hgp : f.gp.toNat = g.gp.toNat) (hgi : f.gi.toNat = g.gi.toNat)
    (hd : f.d.toNat = g.d.toNat) (hs1 : f.s1.toNat = g.s1.toNat) (hs2 : f.s2.toNat = g.s2.toNat)
    (himm : f.imm.toNat = g.imm.toNat) : f = g := by
  have hbool : ∀ a b : Bool, a.toNat = b.toNat → a = b := by decide
  cases f
  cases g
  rw [Fld.mk.injEq]
  exact ⟨BitVec.eq_of_toNat_eq hgp, hbool _ _ hgi, BitVec.eq_of_toNat_eq hd, BitVec.eq_of_toNat_eq hs1,
    BitVec.eq_of_toNat_eq hs2, BitVec.eq_of_toNat_eq himm⟩

/-- The opcode is read as it was put into the word (02 R60). -/
theorem wordOp_insWord {op : Nat} (f : Fld) (h : op < 512) : wordOp (insWord op f) = op := by
  have hb := Bool.toNat_le f.gi
  rw [wordOp_eq, insWord_toNat]
  omega

/-- The fields are read as they were put into the word (02 R61). -/
theorem wordFld_insWord (op : Nat) (f : Fld) : wordFld (insWord op f) = f := by
  have hb := Bool.toNat_le f.gi
  obtain ⟨hgp, hgi, hd, hs1, hs2, himm⟩ := wordFld_toNat (insWord op f)
  apply Fld.eq_of_toNat_eq
  · rw [hgp, insWord_toNat]; omega
  · rw [hgi, insWord_toNat]; omega
  · rw [hd, insWord_toNat]; omega
  · rw [hs1, insWord_toNat]; omega
  · rw [hs2, insWord_toNat]; omega
  · rw [himm, insWord_toNat]; omega

/-- Every word is made of its own opcode and fields: the fields leave no bit out. -/
theorem insWord_wordOp_wordFld (w : Word) : insWord (wordOp w) (wordFld w) = w := by
  obtain ⟨hgp, hgi, hd, hs1, hs2, himm⟩ := wordFld_toNat w
  have hw := w.isLt
  apply BitVec.eq_of_toNat_eq
  rw [insWord_toNat, hgp, hgi, hd, hs1, hs2, himm, wordOp_eq]
  omega

/-! ## Little-endian fields of a list of bytes (00 R7) -/

@[simp] theorem leBytes_length (n v : Nat) : (leBytes n v).length = n := by
  induction n generalizing v with
  | zero => rfl
  | succ n ih => simp [leBytes, ih]

theorem leNat_leBytes (n v : Nat) : leNat (leBytes n v) = v % 256 ^ n := by
  induction n generalizing v with
  | zero => simp [leBytes, leNat, Nat.mod_one]
  | succ n ih => rw [leBytes, leNat, ih, BitVec.toNat_ofNat, Nat.pow_succ' (m := 256), Nat.mod_mul]

/-- A field at the front of a list is read as it was written, where its bytes hold it. -/
theorem leAt_leBytes_append {n v : Nat} (r : List Byte) (h : v < 256 ^ n) : leAt (leBytes n v ++ r) 0 n = v := by
  rw [leAt, List.drop_zero, List.take_left' (leBytes_length n v), leNat_leBytes, Nat.mod_eq_of_lt h]

theorem leAt_leBytes_toNat {n w : Nat} (x : BitVec w) (r : List Byte) (h : w ≤ 8 * n) :
    leAt (leBytes n x.toNat ++ r) 0 n = x.toNat := by
  refine leAt_leBytes_append r (Nat.lt_of_lt_of_le x.isLt ?_)
  calc 2 ^ w ≤ 2 ^ (8 * n) := Nat.pow_le_pow_right (by decide) h
    _ = 256 ^ n := Nat.pow_mul 2 8 n

/-- A field behind the first is read in the rest of the list. -/
theorem leAt_append_of_le {k v off n : Nat} (r : List Byte) (h : k ≤ off) :
    leAt (leBytes k v ++ r) off n = leAt r (off - k) n := by
  have hfirst : (leBytes k v).drop off = [] := List.drop_eq_nil_of_le (by rwa [leBytes_length])
  rw [leAt, List.drop_append, hfirst, List.nil_append, leBytes_length, leAt]

theorem leAt_cons_one (b : Byte) (r : List Byte) : leAt (b :: r) 0 1 = b.toNat := by
  simp [leAt, leNat]

theorem leAt_cons_succ (b : Byte) (r : List Byte) (off n : Nat) : leAt (b :: r) (off + 1) n = leAt r off n := rfl

/-! ## Chain packets (11 Table 11-3) -/

/-- The header's fields stand at their offsets. -/
theorem packetBytes_header {k : Packet} (hv : k.vc < 4) (hp : k.payload.length < 2 ^ 16) :
    leAt (packetBytes k) 0 2 = k.dst.toNat ∧ leAt (packetBytes k) 2 2 = k.src.toNat ∧
    leAt (packetBytes k) 4 2 = k.epoch.toNat ∧ leAt (packetBytes k) 6 1 = k.type.toNat ∧
    leAt (packetBytes k) 7 1 = k.vc ∧ leAt (packetBytes k) 8 2 = k.hops.toNat ∧
    leAt (packetBytes k) 10 2 = k.payload.length ∧ leAt (packetBytes k) 12 2 = k.tag.toNat ∧
    leAt (packetBytes k) 14 2 = k.job.toNat ∧ leAt (packetBytes k) 16 8 = k.addr.toNat ∧
    leAt (packetBytes k) 24 8 = k.ext.toNat := by
  have hvc : (BitVec.ofNat 8 k.vc).toNat = k.vc := by rw [BitVec.toNat_ofNat]; omega
  have hlen : ∀ r, leAt (leBytes 2 k.payload.length ++ r) 0 2 = k.payload.length := fun r => leAt_leBytes_append r hp
  simp [packetBytes, leAt_append_of_le, leAt_leBytes_toNat, leAt_cons_one, leAt_cons_succ, hvc, hlen]

theorem packetBytes_drop_header (k : Packet) : (packetBytes k).drop 32 = k.payload :=
  List.drop_left' (by simp)

/-- A packet is read as it was written. -/
theorem packetOf_packetBytes {k : Packet} (hv : k.vc < 4) (hp : k.payload.length < 2 ^ 16) : packetOf (packetBytes k) = k := by
  obtain ⟨hdst, hsrc, hepoch, htype, hvc, hhops, hlen, htag, hjob, haddr, hext⟩ := packetBytes_header hv hp
  simp only [packetOf, hdst, hsrc, hepoch, htype, hvc, hhops, hlen, htag, hjob, haddr, hext, packetBytes_drop_header,
    List.take_length, BitVec.ofNat_toNat, BitVec.setWidth_eq, Nat.mod_eq_of_lt hv]

/-- Settles O17: a code, a word and a packet each by the lemma on its round trip, whatever the format and the mode. -/
theorem roundTrips : Obligations.RoundTrips := by
  unfold Obligations.RoundTrips
  refine ⟨fun F _ m c _ hc => ⟨FFmt.deliver_decode m hc, FFmt.deliver_of_isNan⟩, ⟨fun op f h => ?_, ?_⟩, ?_⟩
  · exact ⟨wordOp_insWord f h, wordFld_insWord op f⟩
  · exact insWord_wordOp_wordFld
  · exact fun k hv hp => packetOf_packetBytes hv hp

end Sys2Proof.Machine
end

section
/-!
SUPPORT. The release of tiles and of a tile context (O28): what the issue slot's choice of a thread, TREL and the end of a wait change
and leave (02 R55, 05 R192, R206, R207).
-/

namespace Sys2Proof.Machine

open Sys2Proof.Claims

/-! ## Contexts -/

theorem ckey_inj {t k : Tid} (h : ckey k.lathe.val k.core.val = ckey t.lathe.val t.core.val) :
    k.lathe.val = t.lathe.val ∧ k.core.val = t.core.val := by
  simp only [ckey] at h
  omega

@[simp] theorem State.setThr_ctx (s : State) (t : Tid) (x : Thread) (k : Tid) : (s.setThr t x).ctx k = s.ctx k := rfl
@[simp] theorem State.modThr_ctx (s : State) (t : Tid) (g : Thread → Thread) (k : Tid) : (s.modThr t g).ctx k = s.ctx k := rfl
@[simp] theorem State.setCore_ctx (s : State) (t : Tid) (x : Core) : (s.setCore t.lathe.val t.core.val x).ctx t = x :=
  State.setCore_core ..
@[simp] theorem State.modCore_ctx (s : State) (t : Tid) (g : Core → Core) :
    (s.modCore t.lathe.val t.core.val g).ctx t = g (s.ctx t) := State.setCore_ctx ..
@[simp] theorem State.modCore_thr (s : State) (l c : Nat) (g : Core → Core) (t : Tid) : (s.modCore l c g).thr t = s.thr t := rfl
@[simp] theorem State.modLathe_ctx (s : State) (n : Nat) (g : Lathe → Lathe) (k : Tid) : (s.modLathe n g).ctx k = s.ctx k := rfl
@[simp] theorem State.modLathe_thr (s : State) (n : Nat) (g : Lathe → Lathe) (k : Tid) : (s.modLathe n g).thr k = s.thr k := rfl

@[simp] theorem begun_ctx (s : State) (t : Tid) : (begun s t).ctx t = icTouch (s.ctx t) (lineOf t (s.thr t).pc) :=
  State.setCore_ctx ..

@[simp] theorem icTouch_tile (c : Core) (line k : Nat) : (icTouch c line).tile k = c.tile k := rfl
@[simp] theorem icTouch_owner (c : Core) (line : Nat) : (icTouch c line).owner = c.owner := rfl
@[simp] theorem tilesBusy_icTouch (c : Core) (line : Nat) (ks : List Nat) : tilesBusy (icTouch c line) ks = tilesBusy c ks := rfl

@[simp] theorem tile_putTile_same (c : Core) (k : Nat) (x : Tile) : (c.putTile k x).tile k = x := mget_mset_same ..
theorem tile_putTile_other (c : Core) {k j : Nat} (x : Tile) (h : j ≠ k) : (c.putTile k x).tile j = c.tile j :=
  mget_mset_other _ _ _ _ _ h

@[simp] theorem Tile.clear_conf (x : Tile) : x.clear.conf = false := rfl

/-- A thread is found by the number it has in its core. -/
theorem tidOf?_self (t : Tid) : tidOf? t.lathe.val t.core.val t.thread.val = some t := by
  simp [tidOf?, coreThreads, t.lathe.isLt, t.core.isLt]

/-- A thread that owns the context goes on with it (05 R190). -/
theorem withContext_owns {s : State} {t : Tid} (h : owns s t) (k : State → Res) : withContext s t k = k s := by
  have h' : (s.core t.lathe.val t.core.val).owner = some t.thread.val := h
  simp [withContext, h']

theorem owns_begun {s : State} {t : Tid} (h : owns s t) : owns (begun s t) t := by simpa [owns] using h

theorem sameMemory_of_mem {s u : State} (h : u.mem = s.mem) : sameMemory s u := fun _ => by rw [byteAt, h, byteAt]

@[simp] theorem advance_thr (s : State) (t : Tid) (pc : Word) : (advance s t pc).thr t = issuedAt (s.thr t) pc :=
  State.modThr_thr ..
@[simp] theorem advance_ctx (s : State) (t k : Tid) (pc : Word) : (advance s t pc).ctx k = s.ctx k := rfl
@[simp] theorem advance_mem (s : State) (t : Tid) (pc : Word) : (advance s t pc).mem = s.mem := rfl
@[simp] theorem issuedAt_pc (x : Thread) (pc : Word) : (issuedAt x pc).pc = pc := rfl
@[simp] theorem issuedAt_g (x : Thread) (pc : Word) : (issuedAt x pc).g = x.g := rfl
@[simp] theorem issuedAt_rep (x : Thread) (pc : Word) : (issuedAt x pc).rep = x.rep := rfl

/-! ## The issue slot (02 R55) -/

/-- The choice of a thread: none, or one that is READY becomes RUNNING. -/
theorem select_eq (s : State) (l c : Nat) :
    select s l c = s ∨ ∃ k, (mget s.threads (ckey l c * 8 + k) {}).st = .ready ∧
      select s l c = { s.setCore l c { s.core l c with running := some k } with
        threads := mmod s.threads (ckey l c * 8 + k) {} (fun x => { x with st := .running }) } := by
  simp only [select]
  split
  next k _ hk => exact .inr ⟨k, eq_of_beq (List.find?_some hk :), rfl⟩
  next => exact .inl rfl

theorem select_thr (s : State) (l c : Nat) (t : Tid) :
    (select s l c).thr t = s.thr t ∨ (s.thr t).st = .ready ∧ (select s l c).thr t = { s.thr t with st := .running } := by
  obtain h | ⟨k, hready, h⟩ := select_eq s l c
  · exact .inl (by rw [h])
  · rw [h]
    by_cases hkey : tkey t = ckey l c * 8 + k
    · exact .inr ⟨by rw [State.thr, hkey, hready], by simp [State.thr, mmod, hkey]⟩
    · exact .inl (mget_mset_other _ _ _ _ _ hkey)

/-- From `s` to `u` at most the states of threads and the issue slots of cores have changed. -/
structure OnlySlots (s u : State) : Prop where
  memory : u.mem = s.mem
  thread : ∀ t, ∃ st, u.thr t = { s.thr t with st := st }
  context : ∀ t, ∃ run last, u.ctx t = { s.ctx t with running := run, last := last }

namespace OnlySlots

theorem refl (s : State) : OnlySlots s s := ⟨rfl, fun _ => ⟨_, rfl⟩, fun _ => ⟨_, _, rfl⟩⟩

theorem trans {s u v : State} (h : OnlySlots s u) (k : OnlySlots u v) : OnlySlots s v where
  memory := k.memory.trans h.memory
  thread t := by
    obtain ⟨_, e⟩ := h.thread t
    obtain ⟨st, e'⟩ := k.thread t
    exact ⟨st, by rw [e', e]⟩
  context t := by
    obtain ⟨_, _, e⟩ := h.context t
    obtain ⟨run, last, e'⟩ := k.context t
    exact ⟨run, last, by rw [e', e]⟩

theorem setSt (s : State) (t : Tid) (st : TState) : OnlySlots s (s.modThr t (fun x => { x with st := st })) where
  memory := rfl
  thread k := by
    by_cases h : k = t
    · exact ⟨st, by rw [h, State.modThr_thr]⟩
    · exact ⟨(s.thr k).st, State.setThr_thr_other _ _ _ _ fun e => h (tkey_inj _ _ e)⟩
  context _ := ⟨_, _, rfl⟩

theorem setSlot (s : State) (t : Tid) (run : Option Nat) (last : Nat) :
    OnlySlots s (s.setCore t.lathe.val t.core.val { s.ctx t with running := run, last := last }) where
  memory := rfl
  thread _ := ⟨_, rfl⟩
  context k := by
    by_cases h : ckey k.lathe.val k.core.val = ckey t.lathe.val t.core.val
    · obtain ⟨hl, hc⟩ := ckey_inj h
      exact ⟨run, last, by simp [State.ctx, hl, hc]⟩
    · exact ⟨_, _, State.setCore_core_other _ _ _ _ _ _ h⟩

theorem select (s : State) (t : Tid) : OnlySlots s (select s t.lathe.val t.core.val) where
  memory := by
    obtain h | ⟨_, _, h⟩ := select_eq s t.lathe.val t.core.val <;> rw [h]
    rfl
  thread k := by
    obtain h | ⟨_, h⟩ := select_thr s t.lathe.val t.core.val k
    · exact ⟨_, h⟩
    · exact ⟨_, h⟩
  context k := by
    obtain h | ⟨n, _, h⟩ := select_eq s t.lathe.val t.core.val <;> rw [h]
    · exact ⟨_, _, rfl⟩
    · exact (setSlot s t (some n) (s.ctx t).last).context k

theorem leave (s : State) (t : Tid) (st : TState) : OnlySlots s (leave s t st) := by
  simp only [Machine.leave]
  split
  · exact ((setSt s t st).trans (setSlot _ t none t.thread.val)).trans (select _ t)
  · exact setSt s t st

theorem makeReady (s : State) (t : Tid) : OnlySlots s (makeReady s t) := (setSt s t .ready).trans (select _ t)

theorem tile {s u : State} (h : OnlySlots s u) (t : Tid) (k : Nat) : (u.ctx t).tile k = (s.ctx t).tile k := by
  obtain ⟨_, _, e⟩ := h.context t
  rw [e]; rfl

theorem owner {s u : State} (h : OnlySlots s u) (t : Tid) : (u.ctx t).owner = (s.ctx t).owner := by
  obtain ⟨_, _, e⟩ := h.context t
  rw [e]

theorem pc {s u : State} (h : OnlySlots s u) (t : Tid) : (u.thr t).pc = (s.thr t).pc := by
  obtain ⟨_, e⟩ := h.thread t
  rw [e]

theorem g {s u : State} (h : OnlySlots s u) (t : Tid) : (u.thr t).g = (s.thr t).g := by
  obtain ⟨_, e⟩ := h.thread t
  rw [e]

theorem rep {s u : State} (h : OnlySlots s u) (t : Tid) : (u.thr t).rep = (s.thr t).rep := by
  obtain ⟨_, e⟩ := h.thread t
  rw [e]

end OnlySlots

/-- A thread that is not READY is not chosen. -/
theorem select_thr_of_not_ready {s : State} {t : Tid} (l c : Nat) (h : (s.thr t).st ≠ .ready) :
    (select s l c).thr t = s.thr t :=
  (select_thr s l c t).resolve_right fun hr => h hr.1

theorem leave_waiting_thr (s : State) (t : Tid) (w : Wait) :
    (leave s t (.waiting w)).thr t = { s.thr t with st := .waiting w } := by
  simp only [leave]
  split
  · rw [select_thr_of_not_ready] <;> simp
  · simp

theorem makeReady_st (s : State) (t : Tid) : ((makeReady s t).thr t).st = .ready ∨ ((makeReady s t).thr t).st = .running := by
  simp only [makeReady]
  obtain h | ⟨_, h⟩ := select_thr (s.modThr t (fun x => { x with st := .ready })) t.lathe.val t.core.val t
  · exact .inl (by rw [h, State.modThr_thr])
  · exact .inr (by rw [h])

/-! ## The end of a wait -/

/-- The thread goes on behind its instruction, also where the state has changed elsewhere. -/
theorem completeWait_goesOn {s s' : State} {t : Tid} (hpc : (s'.thr t).pc = (s.thr t).pc)
    (hrep : (s'.thr t).rep = (s.thr t).rep) : GoesOn s (completeWait s' t) t := by
  simp only [completeWait]
  split
  next r hr =>
    have slots := OnlySlots.makeReady (s'.setThr t { s'.thr t with rep := some { r with held := true } }) t
    refine ⟨makeReady_st _ _, fun hn => ?_, fun q hq => ?_⟩
    · rw [← hrep, hr] at hn; cases hn
    · rw [← hrep, hr, Option.some.injEq] at hq
      subst hq
      exact ⟨(slots.pc t).trans (by simpa using hpc), (slots.rep t).trans (by simp)⟩
  next hr =>
    have slots := OnlySlots.makeReady (advance s' t ((s'.thr t).pc + 8)) t
    refine ⟨makeReady_st _ _, fun _ => ?_, fun q hq => ?_⟩
    · exact ⟨(slots.pc t).trans (by simp [hpc]), (slots.rep t).trans (by simpa using hr)⟩
    · rw [← hrep, hr] at hq; cases hq

/-- Nothing of a context or of memory changes at the end of a wait but the issue slot. -/
theorem completeWait_slots (s : State) (t : Tid) : ∃ x, OnlySlots (s.setThr t x) (completeWait s t) := by
  simp only [completeWait]
  split
  · exact ⟨_, OnlySlots.makeReady _ t⟩
  · exact ⟨_, OnlySlots.makeReady _ t⟩

/-! ## The release of a context (05 R192) -/

/-- The context without its owner, its tiles unconfigured and their storage free. -/
def unowned (s : State) (t : Tid) : State :=
  (s.modLathe t.lathe.val (fun y =>
    { y with tileFree := y.tileFree + fileGranules (s.ctx t), accFree := y.accFree + accGranules (s.ctx t) })).setCore
      t.lathe.val t.core.val { s.ctx t with owner := none, tiles := (s.ctx t).tiles.map (fun p => (p.1, p.2.clear)) }

/-- After the release only threads that waited for the context are put to the issue slot. -/
theorem releaseContext_slots (s : State) (t : Tid) :
    OnlySlots (unowned s t) (releaseContext s t.lathe.val t.core.val) := by
  have wakeAll : ∀ (ts : List Tid) (u : State), OnlySlots u
      (ts.foldl (fun s k => if (s.thr k).st = .waiting .tileContext then makeReady s k else s) u) := by
    intro ts
    induction ts with
    | nil => exact OnlySlots.refl
    | cons k ts ih =>
      intro u
      rw [List.foldl_cons]
      split
      · exact (OnlySlots.makeReady u k).trans (ih _)
      · exact ih u
  exact wakeAll _ _

theorem unowned_owner (s : State) (t : Tid) : ((unowned s t).ctx t).owner = none := by simp [unowned]

theorem mget?_map_snd {α : Type} (f : α → α) (m : SMap α) (k : Nat) :
    mget? (m.map (fun p => (p.1, f p.2))) k = (mget? m k).map f := by
  induction m with
  | nil => rfl
  | cons p r ih =>
    simp only [List.map_cons, mget?]
    split
    · rfl
    · exact ih

theorem unowned_conf (s : State) (t : Tid) (k : Nat) : (((unowned s t).ctx t).tile k).conf = false := by
  simp only [unowned, State.setCore_ctx, Core.tile, mget, mget?_map_snd]
  cases mget? (s.ctx t).tiles k <;> rfl

/-! ## TREL (05 R206, R207) -/

/-- The context with the named tiles unconfigured. -/
def clearTiles (c : Core) (ks : List Nat) : Core := ks.foldl (fun c k => c.putTile k (c.tile k).clear) c

/-- Only tiles are cleared. -/
theorem clearTiles_fields (c : Core) (ks : List Nat) : clearTiles c ks = { c with tiles := (clearTiles c ks).tiles } := by
  induction ks generalizing c with
  | nil => rfl
  | cons k ks ih => exact ih (c.putTile k (c.tile k).clear)

theorem clearTiles_tile_of_not_mem (c : Core) {ks : List Nat} {k : Nat} (h : k ∉ ks) : (clearTiles c ks).tile k = c.tile k := by
  induction ks generalizing c with
  | nil => rfl
  | cons j ks ih =>
    obtain ⟨hj, hks⟩ := not_or.1 (mt List.mem_cons.2 h)
    exact (ih _ hks).trans (tile_putTile_other _ _ hj)

theorem clearTiles_conf_of_mem (c : Core) {ks : List Nat} {k : Nat} (h : k ∈ ks) : ((clearTiles c ks).tile k).conf = false := by
  induction ks generalizing c with
  | nil => cases h
  | cons j ks ih =>
    by_cases hks : k ∈ ks
    · exact ih _ hks
    · obtain rfl : k = j := (List.mem_cons.1 h).resolve_right hks
      have kept := clearTiles_tile_of_not_mem (c.putTile k (c.tile k).clear) hks
      exact (congrArg Tile.conf kept).trans (by simp)

@[simp] theorem relTiles_ctx (s : State) (t : Tid) (ks : List Nat) : (relTiles s t ks).ctx t = clearTiles (s.ctx t) ks :=
  State.modCore_ctx ..
@[simp] theorem relTiles_thr (s : State) (t k : Tid) (ks : List Nat) : (relTiles s t ks).thr k = s.thr k := rfl
@[simp] theorem relTiles_mem (s : State) (t : Tid) (ks : List Nat) : (relTiles s t ks).mem = s.mem := rfl

/-- What a thread has queued does not depend on its tiles. -/
theorem hasQueued_relTiles (s : State) (t : Tid) (ks : List Nat) : hasQueued (relTiles s t ks) t = hasQueued s t := by
  have hctx : (relTiles s t ks).core t.lathe.val t.core.val = { s.ctx t with tiles := (clearTiles (s.ctx t) ks).tiles } :=
    (relTiles_ctx s t ks).trans (clearTiles_fields _ _)
  simp only [hasQueued, hctx]
  rfl

theorem hasQueued_begun (s : State) (t : Tid) : hasQueued (begun s t) t = hasQueued s t := by
  have hctx : (begun s t).core t.lathe.val t.core.val = icTouch (s.ctx t) (lineOf t (s.thr t).pc) := begun_ctx s t
  simp only [hasQueued, hctx]
  rfl

theorem maskTiles_setWidth (m : BitVec 32) : maskTiles (m.setWidth 10) = (List.range 10).filter (fun k => m.getLsbD k) := by
  refine List.filter_congr fun k hk => ?_
  simp [List.mem_range.1 hk]

theorem noTiles_iff (c : Core) : noTiles c = true ↔ ∀ k, k < 10 → (c.tile k).conf = false := by simp [noTiles]

/-- No tile is left when each was named or unconfigured already. -/
theorem noTiles_clearTiles_iff (c : Core) (ks : List Nat) :
    noTiles (clearTiles c ks) = true ↔ ∀ k, k < 10 → k ∈ ks ∨ (c.tile k).conf = false := by
  rw [noTiles_iff]
  refine forall₂_congr fun k _ => ?_
  by_cases h : k ∈ ks
  · simp [h, clearTiles_conf_of_mem]
  · simp [h, clearTiles_tile_of_not_mem]

/-- An instruction with a legal form under guard 1 ends as its effect does. -/
theorem issue_plain {s : State} {t : Tid} {f : Fld} (op : Nat) (act : State → Res) (h : CanIssue s t) (hg : guarded s t f) :
    issue t op f (plain true act) s = .next (finish (begun s t) t (insWord op f) (act (begun s t))) := by
  have hg' : guardOf (found s t) f = true := hg
  simp [issue_run op f _ h, Body.run, plain, hg']

/-- The tiles that a TREL names. -/
def namedTiles (f : Fld) : List Nat := (List.range 10).filter (fun k => f.imm.getLsbD k)

section
variable {s : State} {t : Tid} {f : Fld} (hi : CanIssue s t) (hg : guarded s t f) (ho : owns s t)
  (hl : fieldsOk .z .z .z f = true) (hm : f.imm.toNat < 2 ^ 10)
include hi hg ho hl hm

/-- A TREL of a thread that owns the context: its wait, else its release. -/
theorem exec_trel :
    exec (.trel t f) s = .next (finish (begun s t) t (insWord 0x181 f)
      (let r := relTiles (begun s t) t (namedTiles f)
       if tilesBusy (s.ctx t) (namedTiles f) then .wait (.trel (f.imm.setWidth 10)) (begun s t)
       else if !noTiles (r.ctx t) then .ok r
       else if hasQueued s t then .wait (.trel 0) r
       else .ok (releaseContext r t.lathe.val t.core.val))) := by
  have legal : (fieldsOk .z .z .z f && immBelow f 10) = true := by rw [hl, immBelow, decide_eq_true hm]; rfl
  show issue t 0x181 f (bodyTrel t f) s = _
  rw [bodyTrel, legal, issue_plain _ _ hi hg, withContext_owns (owns_begun ho)]
  simp only [maskTiles_setWidth, hasQueued_relTiles, hasQueued_begun, begun_ctx, tilesBusy_icTouch, namedTiles]
  rfl

/-- A queued operation touches a named tile: the thread waits. -/
theorem trel_busy (hb : tilesBusy (s.ctx t) (namedTiles f) = true) :
    exec (.trel t f) s = .next (leaveBound (begun s t) t (.trel (f.imm.setWidth 10))) := by
  rw [exec_trel hi hg ho hl hm, if_pos hb]
  rfl

/-- A tile is left: the named ones become unconfigured and the thread keeps the context. -/
theorem trel_some_left (hb : tilesBusy (s.ctx t) (namedTiles f) = false)
    (hn : ¬∀ k, k < 10 → k ∈ namedTiles f ∨ ((s.ctx t).tile k).conf = false) :
    leadsTo (.trel t f) s (fun u => (∀ k ∈ namedTiles f, ((u.ctx t).tile k).conf = false) ∧
      (∀ k, k ∉ namedTiles f → (u.ctx t).tile k = (s.ctx t).tile k) ∧ owns u t ∧
      u.thr t = issuedAt (found s t) (pcNext s t) ∧ sameMemory s u) := by
  have left : noTiles (clearTiles (icTouch (s.ctx t) (lineOf t (s.thr t).pc)) (namedTiles f)) = false :=
    Bool.eq_false_iff.2 fun h => hn ((noTiles_clearTiles_iff (icTouch _ _) _).1 h)
  refine ⟨advance (relTiles (begun s t) t (namedTiles f)) t (pcNext s t), ?_, fun k hk => ?_, fun k hk => ?_, ?_, ?_, ?_⟩
  · simp [exec_trel hi hg ho hl hm, hb, left, finish, pcNext]
  · simp [clearTiles_conf_of_mem _ hk]
  · simp [clearTiles_tile_of_not_mem _ hk]
  · rw [owns, advance_ctx, relTiles_ctx, clearTiles_fields]
    exact owns_begun ho
  · simp
  · exact sameMemory_of_mem rfl

/-- No tile is left and nothing queued: the context is released at once. -/
theorem trel_last (hb : tilesBusy (s.ctx t) (namedTiles f) = false)
    (hn : ∀ k, k < 10 → k ∈ namedTiles f ∨ ((s.ctx t).tile k).conf = false) (hq : hasQueued s t = false) :
    leadsTo (.trel t f) s (fun u => (u.ctx t).owner = none ∧ (∀ k, k < 10 → ((u.ctx t).tile k).conf = false) ∧
      (u.thr t).pc = pcNext s t ∧ (u.thr t).g = (found s t).g ∧ sameMemory s u) := by
  have none_left := (noTiles_clearTiles_iff (icTouch (s.ctx t) (lineOf t (s.thr t).pc)) _).2 hn
  have slots := releaseContext_slots (relTiles (begun s t) t (namedTiles f)) t
  refine ⟨advance (releaseContext (relTiles (begun s t) t (namedTiles f)) t.lathe.val t.core.val) t (pcNext s t),
    ?_, ?_, fun k _ => ?_, ?_, ?_, ?_⟩
  · simp [exec_trel hi hg ho hl hm, hb, none_left, hq, finish, pcNext, slots.pc, unowned]
  · rw [advance_ctx, slots.owner, unowned_owner]
  · rw [advance_ctx, slots.tile, unowned_conf]
  · simp
  · simp [slots.g, unowned]
  · exact sameMemory_of_mem slots.memory

/-- No tile is left but work is queued: the thread waits for TILE_CONTEXT_RELEASE. -/
theorem trel_last_queued (hb : tilesBusy (s.ctx t) (namedTiles f) = false)
    (hn : ∀ k, k < 10 → k ∈ namedTiles f ∨ ((s.ctx t).tile k).conf = false) (hq : hasQueued s t = true) :
    leadsTo (.trel t f) s (fun u => (u.thr t).st = .waiting (.trel 0) ∧
      (∀ k, k < 10 → ((u.ctx t).tile k).conf = false) ∧ owns u t ∧ (u.thr t).pc = (s.thr t).pc ∧ sameMemory s u) := by
  have none_left := (noTiles_clearTiles_iff (icTouch (s.ctx t) (lineOf t (s.thr t).pc)) _).2 hn
  have slots := OnlySlots.leave ((relTiles (begun s t) t (namedTiles f)).modThr t (fun x =>
    { x with bound := !interruptible (.trel 0) })) t (.waiting (.trel 0))
  refine ⟨leaveBound (relTiles (begun s t) t (namedTiles f)) t (.trel 0), ?_, ?_, ?_, ?_, ?_, ?_⟩
  · simp [exec_trel hi hg ho hl hm, hb, none_left, hq, finish]
  · rw [leaveBound, leave_waiting_thr]
  · intro k hk
    rw [leaveBound, slots.tile, State.modThr_ctx, relTiles_ctx, begun_ctx]
    exact (noTiles_iff _).1 none_left k hk
  · rw [owns, leaveBound, slots.owner, State.modThr_ctx, relTiles_ctx, clearTiles_fields]
    exact owns_begun ho
  · exact (slots.pc t).trans (by simp)
  · exact sameMemory_of_mem slots.memory

end

/-- TILE_CONTEXT_RELEASE of an owner whose TREL has left no tile and whose queues are empty (05 R192, R207). -/
theorem tileContextRelease_done {s : State} {t : Tid} (ho : owns s t) (hst : (s.thr t).st = .waiting (.trel 0))
    (hc : ∀ k, k < 10 → ((s.ctx t).tile k).conf = false) (hq : hasQueued s t = false) (hr : clockRuns s t = true) :
    leadsTo (.tileContextRelease (cidOf t)) s (fun u => (u.ctx t).owner = none ∧ GoesOn s u t ∧ sameMemory s u) := by
  have owner : (s.core t.lathe.val t.core.val).owner = some t.thread.val := ho
  have none_left : noTiles (s.core t.lathe.val t.core.val) = true := (noTiles_iff _).2 hc
  have released := releaseContext_slots s t
  obtain ⟨x, slots⟩ := completeWait_slots (releaseContext s t.lathe.val t.core.val) t
  refine ⟨completeWait (releaseContext s t.lathe.val t.core.val) t, ?_, ?_, ?_, ?_⟩
  · show execTileContextRelease (cidOf t) s = _
    simp [execTileContextRelease, cidOf, owner, tidOf?_self, hst, none_left, hq, hr]
  · rw [slots.owner, State.setThr_ctx, released.owner, unowned_owner]
  · exact completeWait_goesOn (released.pc t) (released.rep t)
  · exact sameMemory_of_mem (slots.memory.trans released.memory)

/-- Settles O28: TREL's wait and its three ends by what is left and queued, then the release that a waiting TREL awaits. -/
theorem tileRelease : Obligations.TileRelease := by
  unfold Obligations.TileRelease
  refine ⟨fun t f s hi hg ho hl hm => ⟨?_, ?_, ?_, ?_⟩, ?_⟩
  · exact trel_busy hi hg ho hl hm
  · exact trel_some_left hi hg ho hl hm
  · exact trel_last hi hg ho hl hm
  · exact trel_last_queued hi hg ho hl hm
  · exact fun t s ho hst hc hq hr => tileContextRelease_done ho hst hc hq hr

end Sys2Proof.Machine
end

section
/-!
SUPPORT. Refutations of O27, O29 and O30. A trap of an instruction that has read a record leaves every byte of memory, but not all of
`State.mem`: the read may make a die cache evict a line, and a copy of a remote line goes with it (08 R310, R316), where `Entered`
asks that `State.mem` stand as it was. And an entry of the tile queue whose kind is TZERO may, in an arbitrary state, hold a
descriptor, which TILE_OP_COMPLETE then follows.
-/

namespace Sys2Proof.Machine

open Sys2Proof.Claims

/-! ## A record's read that evicts a copy of a remote line -/

/-- The thread that reads the record: the only one of its state. -/
def readerTid : Tid := ⟨0, 0, 0⟩

/-- Thread 0 of core 0 of lathe 0 runs at 0x1000, owns the tile context and holds 0x2000 in g1, where a record begins whose first entry
names the reserved format 14 and which names it as a descriptor too. Each way of the die-cache set of 0x2000 holds the line of another
device at 2^48, of which memory lists the copy. -/
def evicting : State :=
  { plat := { pwrOk := true, perstN := true, started := true, stage := 6, ready := true }
    threads := [(0, { st := .running, pc := 0x1000, level := .k, g := [(1, 0x2000)] })]
    cores := [(0, { running := some 0, owner := some 0, icache := [(0, [⟨1, false, 3⟩])] })]
    lathes := [(0, { svc := .inService, epoch := 1, carried := 1 })]
    mem := { cells := [(0x2000, 1), (0x2002, 1), (0x2004, 14), (0x2022, 14)], rcopies := [⟨0, 2 ^ 48, []⟩] }
    caches := { die := [(dieKey 0 (0x2000 / 64), List.replicate 16 { line := some (2 ^ 42) })] } }

/-- The fields of an instruction that names g1 as s1, with an immediate. -/
def recordFld (imm : BitVec 32) : Fld := ⟨0, false, 0, 1, 0, imm⟩

/-- The `n` bytes of the record. -/
def recordIn (n : Nat) : List Byte := (List.range n).map (fun k => byteAt evicting (0x2000 + k))

theorem evicting_canIssue : CanIssue evicting readerTid := by constructor <;> decide
theorem evicting_canTrap : CanTrap evicting readerTid := by constructor <;> decide
theorem evicting_owns : owns evicting readerTid := rfl
theorem evicting_guarded (imm : BitVec 32) : guarded evicting readerTid (recordFld imm) := by
  simp [guarded, guardOf, recordFld]

theorem evicting_loads (t : Tid) : (evicting.thr t).loads = [] := by
  unfold State.thr mget evicting mget? mget?
  split <;> rfl

theorem evicting_quiet (a n : Nat) : Quiet evicting readerTid a n := by
  intro l _ t q hq
  rw [evicting_loads] at hq
  cases hq

/-- The descriptor and the configuration record can be read at issue. -/
theorem evicting_readable {n : Nat} (h : n = 64 ∨ n = 128) :
    Readable evicting readerTid ((found evicting readerTid).rg 1) n (recordIn n) := by
  obtain rfl | rfl := h
  all_goals exact ⟨by decide, by decide, by decide, by decide, evicting_quiet _ _, by decide, rfl⟩

/-- The copies of remote lines that a command leaves. -/
def copiesAfter (c : Instr) (s : State) : Option (List RCopy) :=
  match exec c s with
  | .next u => some u.mem.rcopies
  | _ => none

/-- A command that leads to the entry of a trap leaves every copy. -/
theorem copiesAfter_of_entered {c : Instr} {s : State} {t : Tid} {cause : Nat} {v inst : Word}
    (h : leadsTo c s (fun u => Entered s u t cause v inst)) : copiesAfter c s = some s.mem.rcopies := by
  obtain ⟨u, hu, entered⟩ := h
  simp only [copiesAfter, hu, entered.memory]

theorem copiesAfter_tcfg : copiesAfter (.tcfg readerTid (recordFld 1)) evicting = some [] := by decide
theorem copiesAfter_tld : copiesAfter (.tld readerTid (recordFld 0)) evicting = some [] := by decide

/-- Refutes O27: the record names a reserved format, so TCFG traps, and its read has evicted the copy of a remote line. -/
theorem not_tileConfigure : ¬ Obligations.TileConfigure := by
  unfold Obligations.TileConfigure
  intro ⟨configure, _⟩
  obtain ⟨_, checked⟩ :=
    configure readerTid (recordFld 1) evicting evicting_canIssue (evicting_guarded 1) evicting_owns rfl (by decide)
  obtain ⟨reserved, _⟩ := checked (recordIn 128) (by decide) rfl (evicting_readable (.inr rfl))
  have trapped := reserved 14 (by decide) evicting_canTrap
  have kept := copiesAfter_tcfg.symm.trans (copiesAfter_of_entered trapped)
  exact absurd kept (by decide)

/-- Refutes O29: the descriptor names a reserved format, so TLD traps, and its read has evicted the copy of a remote line. -/
theorem not_tileIssue : ¬ Obligations.TileIssue := by
  unfold Obligations.TileIssue
  intro issues
  obtain ⟨moves, _⟩ := issues readerTid (recordFld 0) evicting evicting_canIssue (evicting_guarded 0) evicting_owns
  obtain ⟨_, read⟩ := moves false (by decide)
  obtain ⟨bad, _⟩ := read (recordIn 64) (by decide) rfl (evicting_readable (.inl rfl))
  have trapped := bad (by decide) evicting_canTrap
  have kept := copiesAfter_tld.symm.trans (copiesAfter_of_entered trapped)
  exact absurd kept (by decide)

/-! ## A TZERO that holds a descriptor of another device's tensor -/

def farDesc : TDesc :=
  { at_ := 0x3000, data := 0x0005000000000000#64, shift := 0, escape := 0, rows := 1, cols := 1, tensor := 0, fmt := 1, base := 0
    initBase := 0, escGroup := 0 }

/-- A TZERO of accumulator 0 with that descriptor, which no instruction queues. -/
def farZero : TileOp := { seq := 0, thread := 0, kind := .tzero, d := 0, desc := some farDesc }

/-- The entry stands at the head of the queue; accumulator 0 holds one element, not zero, and no route leads to the other device. -/
def farState : State :=
  { evicting with cores := [(0, { running := some 0, owner := some 0, tileQ := [farZero], tiles :=
      [(0, { rows := 1, cols := 1, fmt := 1 }), (8, { rows := 1, cols := 1, loaded := true, data := [1] })] })] }

theorem farState_head : TileHead farState readerTid farZero [] := by constructor <;> decide

/-- The element of accumulator 0 that TILE_OP_COMPLETE leaves. -/
def zeroedAfter (s : State) : Option F32 :=
  match exec (.tileOpComplete (cidOf readerTid) none) s with
  | .next u => some (tileVal u readerTid 8 0)
  | _ => none

theorem zeroedAfter_farState : zeroedAfter farState = some 1 := by decide

/-- Refutes O30: the read of the descriptor's tensor meets an error, and the TZERO is dropped with its accumulator as it was. -/
theorem not_tileOpComplete : ¬ Obligations.TileOpComplete := by
  unfold Obligations.TileOpComplete
  intro completes
  obtain ⟨zeroes, _⟩ := completes readerTid farState farZero [] farState_head
  obtain ⟨u, hu, _, zero, _⟩ := zeroes rfl
  have left : tileVal u readerTid 8 0 = 1 := by
    simpa only [zeroedAfter, hu, Option.some.injEq] using zeroedAfter_farState
  obtain h | h := zero 0
  · exact absurd (left.symm.trans h) (by decide)
  · exact absurd rfl h

end Sys2Proof.Machine
end

section
/-!
SUPPORT. Refutation of O33. TDRAIN reads its record before its shapes are judged, and the read may make a die cache evict a line with the
copy of a remote line (08 R310, R316), where `Entered` asks that `State.mem` stand as it was.
-/

namespace Sys2Proof.Machine

open Sys2Proof.Claims

/-- `evicting` with a drain record at 0x2000 that names tile 0 as its output; accumulator 0 is not configured. -/
def drainEvicting : State := { evicting with mem := { evicting.mem with cells := [(0x2029, 1)] } }

/-- The drain record. -/
def drainRecord : List Byte := (List.range 64).map (fun k => byteAt drainEvicting (0x2000 + k))

theorem drainEvicting_canIssue : CanIssue drainEvicting readerTid := by constructor <;> decide
theorem drainEvicting_canTrap : CanTrap drainEvicting readerTid := by constructor <;> decide
theorem drainEvicting_guarded : guarded drainEvicting readerTid (recordFld 0) := by unfold guarded; decide

/-- Its threads are those of `evicting`, which have no loads. -/
theorem drainEvicting_quiet (a n : Nat) : Quiet drainEvicting readerTid a n := by
  intro l _ t q hq
  have loads : (drainEvicting.thr t).loads = [] := evicting_loads t
  rw [loads] at hq
  cases hq

/-- The drain record can be read at issue. -/
theorem drainEvicting_readable :
    Readable drainEvicting readerTid ((found drainEvicting readerTid).rg 1) 64 drainRecord :=
  ⟨by decide, by decide, by decide, by decide, drainEvicting_quiet _ _, by decide, rfl⟩

/-- The record names a tile for its output and saves no input, so no descriptor is read. -/
theorem drainRecord_destinations :
    (drainRecOf drainRecord).outTile.isNone = false ∧ (drainRecOf drainRecord).saveEn = false := by decide

theorem copiesAfter_tdrain : copiesAfter (.tdrain readerTid (recordFld 0)) drainEvicting = some [] := by decide

/-- Refutes O33: the accumulator is not configured, so TDRAIN traps, and the read of its record has evicted the copy of a remote line. -/
theorem not_drain : ¬ Obligations.Drain := by
  unfold Obligations.Drain
  intro ⟨issues, _⟩
  obtain ⟨toTile, noSave⟩ := drainRecord_destinations
  obtain ⟨misfit, _⟩ := issues readerTid (recordFld 0) drainEvicting drainRecord [] [] drainEvicting_canIssue
    drainEvicting_guarded rfl (by decide) (by decide) (by decide) (by decide) rfl drainEvicting_readable
    (fun h => absurd h (by simp [toTile])) (fun h => absurd h (by simp [noSave]))
    (fun d h => absurd h (by simp [toTile, noSave]))
  obtain ⟨u, hu, trapped, _⟩ := misfit ⟨0, 1, dRows, 0, 8⟩ (by decide) drainEvicting_canTrap
  have kept := copiesAfter_tdrain.symm.trans (copiesAfter_of_entered ⟨u, hu, trapped⟩)
  exact absurd kept (by decide)

end Sys2Proof.Machine
end

section
/-!
SUPPORT. What an instruction's trap, a shape that does not fit and an operation entered into the finishing queue leave (02 R97, 05 R209,
07 R270).
-/

namespace Sys2Proof.Machine

open Sys2Proof.Claims

/-! ## Loads that are due are written once -/

/-- With no load due but those to g0, nothing is written. -/
theorem settleLoads_g_of_none_due {x : Thread} (h : ∀ p ∈ x.loads, p.cnt = 0 → p.dst = 0) : (settleLoads x).g = x.g := by
  have kept : ∀ (l : List PendLoad) (y : Thread), (∀ p ∈ l, p.cnt = 0 → p.dst = 0) →
      l.foldl (fun y p => if p.cnt = 0 then y.wg p.dst (p.val.getD 0) else y) y = y := by
    intro l
    induction l with
    | nil => exact fun _ _ => rfl
    | cons p r ih =>
      intro y hl
      obtain ⟨hp, hr⟩ := List.forall_mem_cons.1 hl
      have first : (if p.cnt = 0 then y.wg p.dst (p.val.getD 0) else y) = y := by
        split
        next hc => rw [hp hc, Thread.wg_zero]
        next => rfl
      rw [List.foldl_cons, first, ih y hr]
  simp only [settleLoads, kept x.loads x h]

/-- After the due loads have been written none is due. -/
theorem settleLoads_none_due (x : Thread) : ∀ p ∈ (settleLoads x).loads, p.cnt = 0 → p.dst = 0 := by
  intro p hp hc
  have hf := (List.mem_filter.1 hp).2
  simp only [hc, bne_self_eq_false, Bool.false_or, Bool.and_eq_true, beq_iff_eq] at hf
  exact hf.1

@[simp] theorem settleLoads_sbuf (x : Thread) : (settleLoads x).sbuf = x.sbuf := by
  obtain ⟨g, e⟩ := settleLoads_fields x; rw [e]

@[simp] theorem found_sbuf (s : State) (t : Tid) : (found s t).sbuf = (s.thr t).sbuf := settleLoads_sbuf _
@[simp] theorem found_level (s : State) (t : Tid) : (found s t).level = (s.thr t).level := settleLoads_level _

/-! ## Traps -/

/-- The state in which an instruction's trap is taken, with TFAULT at `w`. -/
def faulted (s : State) (t : Tid) (w : Word) : State := (begun s t).modThr t (fun x => { x with tfault := w })

/-- A trap that changes no TFAULT is one that leaves TFAULT where it was. -/
theorem begun_eq_faulted (s : State) (t : Tid) : begun s t = faulted s t (found s t).tfault := by
  rw [faulted, State.modThr, begun_thr, begun, State.setThr_setThr]

/-- The trap of an instruction enters the runtime level and leaves the core and TFAULT as the instruction has left them (R97). -/
theorem trap_entered {s : State} {t : Tid} {c : Nat} {v inst w : Word} (ht : CanTrap s t) (hc : c ≠ xFenced) :
    let u := finish (begun s t) t inst (.trap c v (faulted s t w))
    Entered s u t c v inst ∧ (u.thr t).tfault = w ∧ u.ctx t = icTouch (s.ctx t) (lineOf t (s.thr t).pc) := by
  have thr : (faulted s t w).thr t = { found s t with tfault := w } := by simp [faulted]
  have single : (((faulted s t w).thr t).tl && !((faulted s t w).thr t).nest) = false := by
    obtain ⟨g, e⟩ := settleLoads_fields (s.thr t)
    rw [thr, found, e]
    rcases ht.single with h | h <;> simp [h]
  have taken : finish (begun s t) t inst (.trap c v (faulted s t w)) =
      enter (faulted s t w) t (s.thr t).pc (BitVec.ofNat 64 c) v inst (trapOffset c) none := by
    rw [finish, trapOrWait_taken (by rw [thr]; exact ht.arrived) single, takeTrap_enter single hc, begun_thr, found_pc]
  rw [taken]
  obtain ⟨g, e⟩ := settleLoads_fields (s.thr t)
  obtain ⟨g', e'⟩ := settleLoads_fields { found s t with tfault := w }
  have general : (settleLoads { found s t with tfault := w }).g = (found s t).g :=
    settleLoads_g_of_none_due (x := { found s t with tfault := w }) (settleLoads_none_due (s.thr t))
  have level : (settleLoads { found s t with tfault := w }).level = (s.thr t).level := by simp
  have ie : (settleLoads { found s t with tfault := w }).ie = (s.thr t).ie := by rw [e', found, e]
  have tfault : (settleLoads { found s t with tfault := w }).tfault = w := by rw [e']
  have lathe : (faulted s t w).lathe t.lathe.val = s.lathe t.lathe.val := rfl
  have core : (faulted s t w).core t.lathe.val t.core.val = icTouch (s.ctx t) (lineOf t (s.thr t).pc) := begun_ctx s t
  refine ⟨?_, ?_, ?_⟩
  · constructor <;> simp only [enter, State.setThr_thr, thr, lathe, core]
    case general => exact general
    case ppl => exact level
    case pie => exact ie
    case pc => rfl
    case predicates => simp
    case vectors => simp
    case memory => rfl
    case registers => rfl
    case others =>
      intro k hk
      simp [faulted, State.modThr, begun, mget?_mset_other _ _ _ _ hk]
  · simpa only [enter, State.setThr_thr, thr] using tfault
  · simp only [enter, State.setThr_ctx]
    exact core

/-- An instruction whose shapes do not fit raises XC_TILE_SHAPE, names the failing check and queues nothing (05 R209). -/
theorem withShape_misfit {s : State} {t : Tid} {inst : Word} {cs : List (Bool × TFault)} {q : TFault} (k : State → Res)
    (ht : CanTrap s t) (hq : firstBad cs = some q) :
    let u := finish (begun s t) t inst (withShape (begun s t) t cs k)
    Entered s u t xShape 0 inst ∧ (u.thr t).tfault = q.word ∧ (u.ctx t).finQ = (s.ctx t).finQ := by
  obtain ⟨entered, tfault, ctx⟩ := trap_entered (v := 0) (inst := inst) (w := q.word) ht (by decide : xShape ≠ xFenced)
  simp only [withShape, hq, shapeTrap]
  exact ⟨entered, tfault, (congrArg Core.finQ ctx :)⟩

theorem withShape_fits {s : State} {t : Tid} {cs : List (Bool × TFault)} (k : State → Res) (h : firstBad cs = none) :
    withShape s t cs k = k s := by rw [withShape, h]

/-! ## The finishing queue -/

/-- An instruction that enters the finishing queue issues, and only that queue has changed. -/
theorem enqueueFin_queued {s : State} {t : Tid} (inst : Word) (o : FinOp) :
    let u := finish (begun s t) t inst (.ok (enqueueFin (begun s t) t o))
    OnlyQueued s u t ∧ (u.ctx t).finQ = (s.ctx t).finQ ++ [o] := by
  have thr : (enqueueFin (begun s t) t o).thr t = found s t := begun_thr s t
  have ctx : (enqueueFin (begun s t) t o).ctx t =
      { icTouch (s.ctx t) (lineOf t (s.thr t).pc) with
        finQ := (s.ctx t).finQ ++ [o], nextSeq := (s.ctx t).nextSeq + 1 } := by
    simp only [enqueueFin, bumpSeq, State.modCore_ctx, begun_ctx]
    rfl
  have queued : finish (begun s t) t inst (.ok (enqueueFin (begun s t) t o)) =
      advance (enqueueFin (begun s t) t o) t (pcNext s t) := by
    rw [finish, thr, found_pc, pcNext]
  simp only [queued, advance_ctx, ctx, and_true]
  exact ⟨by rw [advance_thr, thr], by rw [advance_ctx, ctx]; rfl, by rw [advance_ctx, ctx]; rfl, by rw [advance_ctx, ctx]; rfl,
    by rw [advance_ctx, ctx]; rfl, sameMemory_of_mem rfl, rfl⟩

end Sys2Proof.Machine
end

section
/-!
SUPPORT. The issue of FTAB, FAPPLY and FDERIV (07 R281, R285, R287, R288).
-/

namespace Sys2Proof.Machine

open Sys2Proof.Claims

/-- A field of an immediate, as its digits and as the bits under a mask. -/
theorem nbits_imm (x : BitVec 32) (lo : Nat) {n : Nat} (h : n ≤ 32) :
    nbits x.toNat lo n = (x >>> lo &&& BitVec.ofNat 32 (2 ^ n - 1)).toNat := by
  have small : 2 ^ n - 1 < 2 ^ 32 := by
    have := Nat.pow_le_pow_right (n := 2) (by decide) h
    have := Nat.two_pow_pos n
    omega
  rw [BitVec.toNat_and, BitVec.toNat_ushiftRight, BitVec.toNat_ofNat, Nat.mod_eq_of_lt small, Nat.and_two_pow_sub_one_eq_mod, nbits]

/-! ## FTAB -/

/-- A thread with no buffered store drains at once. -/
theorem drainAll_of_empty {s : State} {t : Tid} (h : (s.thr t).sbuf = []) (k : State → Res) : drainAll s t k = k s := by
  simp [drainAll, afterDrain, h, upTo, indexed, drainN]

section
variable {s : State} {t : Tid} {f : Fld} (hi : CanIssue s t) (hl : fieldsOk .z .g .z f = true) (hm : f.imm.toNat < 16)
include hi hl hm

/-- A slot of 12 or more is not for level U (R281). -/
theorem ftab_privileged (hs : 12 ≤ f.imm.toNat) (hu : (s.thr t).level = .u) (ht : CanTrap s t) :
    leadsTo (.ftab t f) s (fun u => Entered s u t xPriv 0 (insWord 0x198 f)) := by
  have slot : nbits f.imm.toNat 0 4 = f.imm.toNat := Nat.mod_eq_of_lt hm
  have always : (bodyFtab t f).always (begun s t) = some (xPriv, 0) := by
    simp [bodyFtab, hl, immBelow, hm, slot, hs, hu]
  obtain ⟨entered, -⟩ := trap_entered (v := 0) (inst := insWord 0x198 f) (w := (found s t).tfault) ht
    (by decide : xPriv ≠ xFenced)
  rw [← begun_eq_faulted] at entered
  refine ⟨_, issue_run 0x198 f (bodyFtab t f) hi, ?_⟩
  rw [Body.run, always]
  exact entered

variable (hg : guarded s t f) (hp : f.imm.toNat < 12 ∨ (s.thr t).level ≠ .u)
include hg hp

/-- An FTAB whose slot its level may load ends as its effect does. -/
theorem exec_ftab : exec (.ftab t f) s = .next (finish (begun s t) t (insWord 0x198 f) ((bodyFtab t f).act (begun s t))) := by
  have slot : nbits f.imm.toNat 0 4 = f.imm.toNat := Nat.mod_eq_of_lt hm
  have allowed : (decide (12 ≤ f.imm.toNat) && (s.thr t).level == .u) = false := by
    rcases hp with h | h
    · simp [Nat.not_le.2 h]
    · simp [h]
  have always : (bodyFtab t f).always (begun s t) = none := by
    simp only [bodyFtab, hl, immBelow, slot, begun_thr, found_level, allowed]
    simp [hm]
  have guard : guardOf (found s t) f = true := hg
  show issue t 0x198 f (bodyFtab t f) s = _
  rw [issue_run 0x198 f _ hi, Body.run, always, begun_thr, guard, Bool.or_true, if_pos rfl]

/-- The image starts at a multiple of 64. -/
theorem ftab_misaligned (ha : ((found s t).rg f.s1.toNat).toNat % 64 ≠ 0) (ht : CanTrap s t) :
    leadsTo (.ftab t f) s (fun u => Entered s u t xAlign ((found s t).rg f.s1.toNat) (insWord 0x198 f)) := by
  obtain ⟨entered, -⟩ := trap_entered (v := (found s t).rg f.s1.toNat) (inst := insWord 0x198 f) (w := (found s t).tfault) ht
    (by decide : xAlign ≠ xFenced)
  rw [← begun_eq_faulted] at entered
  refine ⟨_, exec_ftab hi hl hm hg hp, ?_⟩
  simp only [bodyFtab, begun_thr, if_pos ha]
  exact entered

/-- An FTAB whose checks pass waits for its tables; no store of its thread stands before it. -/
theorem ftab_waits (ha : ((found s t).rg f.s1.toNat).toNat % 64 = 0)
    (hc : checkRun (begun s t) t .r ((found s t).rg f.s1.toNat) 6272 = .ok) (hb : (s.thr t).sbuf = []) :
    exec (.ftab t f) s = .next (leaveBound (begun s t) t (.ftab f.imm.toNat ((found s t).rg f.s1.toNat))) := by
  have slot : nbits f.imm.toNat 0 4 = f.imm.toNat := Nat.mod_eq_of_lt hm
  have drained := drainAll_of_empty (s := begun s t) (t := t) (by rw [begun_thr, found_sbuf, hb])
  rw [exec_ftab hi hl hm hg hp]
  simp only [bodyFtab, begun_thr, ha, imageBytes, hc, drained, slot]
  rfl

end

/-! ## FAPPLY and FDERIV -/

/-- The queue entry of an FAPPLY or FDERIV. -/
def fnQueued (s : State) (t : Tid) (f : Fld) (kind : FinKind) (bare : Bool) : FinOp :=
  { seq := nextSeq s t, thread := t.thread.val, kind := kind, d := f.d.toNat, s1 := f.s1.toNat, s2 := f.s2.toNat
    rm := BitVec.ofNat 2 ((s.thr t).rmOf (fnRm f)), me := fnMe f, mreg := fnMk f, slot := fnSlot f, tile := fnTile f
    bare := bare, hold := ftabThreads s t.lathe.val (fnSlot f) }

section
variable {s : State} {t : Tid} {f : Fld} {kind : FinKind} {legal bare : Bool} (op : Nat) (hi : CanIssue s t)
  (hg : guarded s t f) (ho : owns s t) (hl : (legal && kindOk f) = true)
include hi hg ho hl

/-- The issue of an FAPPLY or FDERIV is the check of its shapes, then its entry into the queue. -/
theorem issue_fnBody : issue t op f (fnBody kind legal (!bare) t f) s = .next (finish (begun s t) t (insWord op f)
    (withShape (begun s t) t (if fnTile f then fnChecks (s.ctx t) f.d.toNat f.s1.toNat f.s2.toNat (!bare) else [])
      fun u => .ok (enqueueFin u t (fnQueued u t f kind bare)))) := by
  rw [fnBody, hl, issue_plain _ _ hi hg, withContext_owns (owns_begun ho), begun_ctx]
  simp only [fnQueued, Bool.not_not]
  rfl

theorem fnBody_misfit {q : TFault} (ht : CanTrap s t)
    (hq : firstBad (if fnTile f then fnChecks (s.ctx t) f.d.toNat f.s1.toNat f.s2.toNat (!bare) else []) = some q) :
    ∃ u, issue t op f (fnBody kind legal (!bare) t f) s = .next u ∧ Entered s u t xShape 0 (insWord op f) ∧
      (u.thr t).tfault = q.word ∧ (u.ctx t).finQ = (s.ctx t).finQ :=
  ⟨_, issue_fnBody op hi hg ho hl, withShape_misfit _ ht hq⟩

theorem fnBody_fits
    (hq : firstBad (if fnTile f then fnChecks (s.ctx t) f.d.toNat f.s1.toNat f.s2.toNat (!bare) else []) = none) :
    ∃ u, issue t op f (fnBody kind legal (!bare) t f) s = .next u ∧ OnlyQueued s u t ∧
      (u.ctx t).finQ = (s.ctx t).finQ ++ [fnQueued (begun s t) t f kind bare] := by
  refine ⟨_, issue_fnBody op hi hg ho hl, ?_⟩
  rw [withShape_fits _ hq]
  exact enqueueFin_queued _ _

end

end Sys2Proof.Machine
end

section
/-!
SUPPORT. The completion of FAPPLY and FDERIV (03 R148, 07 R282, R284, R287, R288): what the end of a queued operation leaves, the value of
each lane or element, and the value of a table.
-/

namespace Sys2Proof.Machine

open Sys2Proof.Claims

/-! ## Waking a core's threads -/

/-- A wake puts threads to the issue slot and changes nothing else. -/
theorem wakeCore_slots (s : State) (l c : Nat) : OnlySlots s (wakeCore s l c) := by
  have wakeAll : ∀ (ts : List Tid) (u : State), OnlySlots u (ts.foldl wakeIf u) := by
    intro ts
    induction ts with
    | nil => exact OnlySlots.refl
    | cons k ts ih =>
      intro u
      have one : OnlySlots u (wakeIf u k) := by
        simp only [wakeIf]
        split
        · split
          · exact OnlySlots.makeReady u k
          · exact OnlySlots.refl u
        · exact OnlySlots.refl u
      exact one.trans (ih _)
  exact wakeAll _ s

/-- Between two states the context of `t` differs at most in its issue slot. -/
theorem OnlySlots.ctx_fields {s u : State} (h : OnlySlots s u) (t : Tid) :
    (u.ctx t).finQ = (s.ctx t).finQ ∧ (u.ctx t).lv = (s.ctx t).lv ∧ (u.ctx t).lm = (s.ctx t).lm ∧
      (u.ctx t).tiles = (s.ctx t).tiles := by
  obtain ⟨_, _, e⟩ := h.context t
  rw [e]
  exact ⟨rfl, rfl, rfl, rfl⟩

@[simp] theorem cvtStat_ctx (s : State) (l : Nat) (c : CStat) (t : Tid) : (cvtStat s l c).ctx t = s.ctx t := by
  simp only [cvtStat]; split <;> rfl
@[simp] theorem cvtStat_mem (s : State) (l : Nat) (c : CStat) : (cvtStat s l c).mem = s.mem := by
  simp only [cvtStat]; split <;> rfl

theorem tile_eq_of_tiles {c d : Core} (h : c.tiles = d.tiles) (k : Nat) : c.tile k = d.tile k := by
  rw [Core.tile, h, Core.tile]

/-! ## The end of an FAPPLY or FDERIV -/

/-- The context whose oldest finishing operation has been taken. -/
def popped (s : State) (t : Tid) (r : List FinOp) : Core := { s.ctx t with finQ := r }

/-- The state in which the head's effect takes place. -/
def poppedState (s : State) (t : Tid) (r : List FinOp) : State := s.modCore t.lathe.val t.core.val (fun x => { x with finQ := r })

/-- The head of a finishing queue that reads no other device takes effect, and the core's waiting threads wake. -/
theorem exec_longVectorOpComplete {s : State} {t : Tid} {o : FinOp} {r : List FinOp} (h : FinHead s t o r) (hd : o.drain = none) :
    exec (.longVectorOpComplete (cidOf t)) s =
      .next (wakeCore (dropLines (runFin (poppedState s t r) t o) t) t.lathe.val t.core.val) := by
  have head : (s.core t.lathe.val t.core.val).finQ = o :: r := h.head
  have thread : tidOf? t.lathe.val t.core.val o.thread = some t := by rw [h.thread, tidOf?_self]
  have noDrain : (s.core t.lathe.val t.core.val).drainEnd = none := h.noDrain
  have order : behindTile (s.core t.lathe.val t.core.val) o = false := h.order
  have near : finFar s t o = .ready s := by rw [finFar, hd]
  show execLongVectorOpComplete (cidOf t) s = _
  simp only [execLongVectorOpComplete, cidOf, head, thread, noDrain, order, h.free, h.clock, near]
  rfl

/-- An FAPPLY or FDERIV at the head leaves its context as `runFn` does, and no other memory. -/
theorem longVectorOpComplete_fn {s : State} {t : Tid} {o : FinOp} {r : List FinOp} (h : FinHead s t o r) (hd : o.drain = none)
    (hk : o.kind = .fapply ∨ o.kind = .fderiv) :
    leadsTo (.longVectorOpComplete (cidOf t)) s (fun u =>
      let c := (runFn s t.lathe.val (popped s t r) o).1
      (u.ctx t).finQ = c.finQ ∧ (u.ctx t).lv = c.lv ∧ (u.ctx t).lm = c.lm ∧ (u.ctx t).tiles = c.tiles ∧ sameMemory s u) := by
  refine ⟨_, exec_longVectorOpComplete h hd, ?_⟩
  have effect : runFin (poppedState s t r) t o =
      let q := runFn s t.lathe.val (popped s t r) o
      cvtStat (((poppedState s t r).setCore t.lathe.val t.core.val q.1).modThr t (fun x => x.raise q.2.1)) t.lathe.val q.2.2 := by
    have ctx : (poppedState s t r).ctx t = popped s t r := State.modCore_ctx ..
    have slots : runFn (poppedState s t r) t.lathe.val (popped s t r) o = runFn s t.lathe.val (popped s t r) o := rfl
    obtain hk | hk := hk <;> simp only [runFin, hk, hd, ctx, slots]
  have slots := wakeCore_slots (dropLines (runFin (poppedState s t r) t o) t) t.lathe.val t.core.val
  obtain ⟨finQ, lv, lm, tiles⟩ := slots.ctx_fields t
  have ctx : (dropLines (runFin (poppedState s t r) t o) t).ctx t =
      { (runFn s t.lathe.val (popped s t r) o).1 with lines := [] } := by
    simp [effect, dropLines]
  have mem : (dropLines (runFin (poppedState s t r) t o) t).mem = s.mem := by
    rw [dropLines, State.modCore_mem, effect]
    exact cvtStat_mem _ _ _
  rw [ctx] at finQ lv lm tiles
  exact ⟨finQ, lv, lm, tiles, sameMemory_of_mem (slots.memory.trans mem)⟩

/-- The value of one element: f of the slot, its derivative, or the gradient times it. -/
def fnValue (s : State) (l : Nat) (o : FinOp) (x g : F32) : F32 :=
  if o.kind = .fapply then slotF s l o.slot x
  else if o.bare then slotD s l o.slot x else fmul32 g (slotD s l o.slot x)

theorem fnElem_fst (s : State) (l : Nat) (o : FinOp) (x g : F32) (hk : o.kind = .fapply ∨ o.kind = .fderiv) :
    (fnElem s l o x g).1 = fnValue s l o x g := by
  obtain hk | hk := hk
  · simp [fnElem, fnValue, hk]
  · cases hb : o.bare <;> simp [fnElem, fnValue, hk, hb, fmul32, toF32]

/-! ## Lanes -/

/-- Lane `i` of an operation over lanes: its value where active, else the old lane. -/
theorem getD_mapLv (old : Lanes) (on : Nat → Bool) (g : Nat → F32 × FFlags) {i : Nat} (h : i < 512) :
    (mapLv old on g).1.getD i 0 = if on i then (g i).1 else laneOf old i := by
  have lanes : ∀ is : List Nat, (is.foldr (fun i r =>
      if on i then let y := g i; (y.1 :: r.1, y.2 ||| r.2) else (laneOf old i :: r.1, r.2)) ([], (0 : FFlags))).1 =
      is.map (fun i => if on i then (g i).1 else laneOf old i) := by
    intro is
    induction is with
    | nil => rfl
    | cons i is ih =>
      rw [List.foldr_cons, List.map_cons, ← ih]
      by_cases hi : on i = true
      · rw [if_pos hi, if_pos hi]
      · rw [if_neg hi, if_neg hi]
  rw [mapLv, lanes, List.getD_eq_getElem?_getD]
  simp [h]

section
variable {s : State} {t : Tid} {o : FinOp} {r : List FinOp} (h : FinHead s t o r) (hd : o.drain = none)
  (hk : o.kind = .fapply ∨ o.kind = .fderiv)
include h hd hk

/-- Over a long-vector register each active lane takes its value, and no other lane, mask, tile or byte changes (R287). -/
theorem longVectorOpComplete_lanes (htile : o.tile = false) :
    leadsTo (.longVectorOpComplete (cidOf t)) s (fun u => (u.ctx t).finQ = r ∧
      (∀ i, i < 512 → lvLane (u.ctx t) o.d i = if lvOn (s.ctx t) o.me o.mreg i then
        fnValue s t.lathe.val o (lvLane (s.ctx t) o.s1 i) (lvLane (s.ctx t) o.s2 i) else lvLane (s.ctx t) o.d i) ∧
      (∀ n i, n ≠ o.d → lvLane (u.ctx t) n i = lvLane (s.ctx t) n i) ∧ (u.ctx t).lm = (s.ctx t).lm ∧
      (u.ctx t).tiles = (s.ctx t).tiles ∧ sameMemory s u) := by
  obtain ⟨u, hu, finQ, lv, lm, tiles, mem⟩ := longVectorOpComplete_fn h hd hk
  have lanes : runFn s t.lathe.val (popped s t r) o =
      let x := mapLv ((s.ctx t).lvr o.d) (laneOn (s.ctx t) o.me o.mreg)
        (fun i => fnElem s t.lathe.val o (laneOf ((s.ctx t).lvr o.s1) i) (laneOf ((s.ctx t).lvr o.s2) i))
      ({ popped s t r with lv := mset (s.ctx t).lv o.d x.1 }, x.2, 0) := by
    rw [runFn, htile]
    rfl
  rw [lanes] at finQ lv lm tiles
  refine ⟨u, hu, finQ, fun i hi => ?_, fun n i hn => ?_, lm, tiles, mem⟩
  · rw [lvLane, lv, mget_mset_same, getD_mapLv _ _ _ hi, fnElem_fst _ _ _ _ _ hk]
    rfl
  · rw [lvLane, lv, mget_mset_other _ _ _ _ _ hn, lvLane]

/-- Over tiles each element of tile d takes its value in the tile's format, and no other tile, long vector or byte changes (R288). -/
theorem longVectorOpComplete_tile (htile : o.tile = true) :
    leadsTo (.longVectorOpComplete (cidOf t)) s (fun u => (u.ctx t).finQ = r ∧
      (let x := (s.ctx t).tile o.s1
        let g := (s.ctx t).tile o.s2
        (u.ctx t).tile o.d = (((s.ctx t).tile o.d).fill o.rm.toNat
          ((List.range (x.rows * x.cols)).map (fun i => fnValue s t.lathe.val o (x.elem i) (g.elem i)))).1) ∧
      (∀ k, k ≠ o.d → (u.ctx t).tile k = (s.ctx t).tile k) ∧ (u.ctx t).lv = (s.ctx t).lv ∧ sameMemory s u) := by
  obtain ⟨u, hu, finQ, lv, lm, tiles, mem⟩ := longVectorOpComplete_fn h hd hk
  have filled : (runFn s t.lathe.val (popped s t r) o).1 = (popped s t r).putTile o.d (((s.ctx t).tile o.d).fill o.rm.toNat
      ((List.range (((s.ctx t).tile o.s1).rows * ((s.ctx t).tile o.s1).cols)).map (fun i =>
        fnValue s t.lathe.val o (((s.ctx t).tile o.s1).elem i) (((s.ctx t).tile o.s2).elem i)))).1 := by
    simp only [runFn, htile, if_true, fnElem_fst _ _ _ _ _ hk]
    rfl
  rw [filled] at finQ lv tiles
  refine ⟨u, hu, finQ, ?_, fun k hk => ?_, lv, mem⟩
  · rw [tile_eq_of_tiles tiles, tile_putTile_same]
  · rw [tile_eq_of_tiles tiles, tile_putTile_other _ _ hk]
    rfl

end

/-! ## The value of a table (R282, R284) -/

/-- A tail is linear, and its constant at an infinite input where its slope is 0. -/
theorem tailOf_eq (a b x : F32) :
    tailOf a b x = if infinite (fp32.decode x.toNat) && (fp32.decode b.toNat).isZero then a else fma32 b x a := by
  rw [tailOf, f32v]
  cases fp32.decode x.toNat <;> rfl

section
variable (T : FTable) {x : F32}

theorem eval_nan (h : (fp32.decode x.toNat).isNan = true) : T.eval x = 0x7FC00000#32 := by
  rw [FTable.eval, f32v, if_pos h]

variable (hn : (fp32.decode x.toNat).isNan = false)
include hn

theorem eval_below (h : (fp32.decode x.toNat).lt (fp32.decode T.lo.toNat) = true) : T.eval x = tailOf T.la T.lb x := by
  simp [FTable.eval, f32v, hn, h]

theorem eval_above (hl : (fp32.decode x.toNat).lt (fp32.decode T.lo.toNat) = false)
    (h : (fp32.decode x.toNat).lt (fp32.decode T.hi.toNat) = false) : T.eval x = tailOf T.ra T.rb x := by
  simp [FTable.eval, f32v, hn, hl, h]

theorem eval_inside (hl : (fp32.decode x.toNat).lt (fp32.decode T.lo.toNat) = false)
    (h : (fp32.decode x.toNat).lt (fp32.decode T.hi.toNat) = true) : T.eval x = quadratic T x := by
  simp [FTable.eval, f32v, hn, hl, h, quadratic]

end

theorem slot_empty {s : State} {l k : Nat} (x : F32) (h : mget? (s.lathe l).slots k = none) :
    slotF s l k x = x ∧ slotD s l k x = 0x3F800000#32 := by
  constructor
  · rw [slotF, h]
  · rw [slotD, h]
    rfl

end Sys2Proof.Machine
end

section
/-!
SUPPORT. TAMAX (07 R289): the largest magnitude of a list, the merge into a tensor's entry, and the wait.
-/

namespace Sys2Proof.Machine

open Sys2Proof.Claims

/-! ## The largest magnitude -/

/-- What an element contributes: its magnitude, or 0 where it is a NaN. -/
theorem amaxOf_eq (x : F32) : amaxOf x = if (fp32.decode x.toNat).isNan = true then 0 else x &&& 0x7FFFFFFF#32 := by
  rw [amaxOf, f32v, fabs32]

/-- The fold's value is its start or the magnitude of an element, and no magnitude is larger. -/
theorem foldl_amaxMerge (xs : List F32) (b : F32) :
    let a := xs.foldl (fun a x => amaxMerge a (amaxOf x)) b
    b.toNat ≤ a.toNat ∧ (∀ x ∈ xs, (amaxOf x).toNat ≤ a.toNat) ∧ (a = b ∨ ∃ x ∈ xs, amaxOf x = a) := by
  induction xs generalizing b with
  | nil => exact ⟨Nat.le_refl _, fun _ h => absurd h List.not_mem_nil, .inl rfl⟩
  | cons y ys ih =>
    obtain ⟨start, below, attained⟩ := ih (amaxMerge b (amaxOf y))
    have merged : b.toNat ≤ (amaxMerge b (amaxOf y)).toNat ∧ (amaxOf y).toNat ≤ (amaxMerge b (amaxOf y)).toNat ∧
        (amaxMerge b (amaxOf y) = b ∨ amaxMerge b (amaxOf y) = amaxOf y) := by
      rw [amaxMerge]
      split
      next h => exact ⟨Nat.le_of_lt h, Nat.le_refl _, .inr rfl⟩
      next h => exact ⟨Nat.le_refl _, Nat.le_of_not_lt h, .inl rfl⟩
    obtain ⟨old, new, which⟩ := merged
    refine ⟨Nat.le_trans old start, List.forall_mem_cons.2 ⟨Nat.le_trans new start, below⟩, ?_⟩
    rcases attained with h | ⟨x, hx, h⟩
    · rcases which with h' | h'
      · exact .inl (h.trans h')
      · exact .inr ⟨y, List.mem_cons_self, h'.symm.trans h.symm⟩
    · exact .inr ⟨x, List.mem_cons_of_mem _ hx, h⟩

/-- No magnitude has a sign. -/
theorem amaxOf_sign (x : F32) : (amaxOf x).getLsbD 31 = false := by
  rw [amaxOf_eq]
  split
  · rfl
  · simp

/-- The largest magnitude of the elements of a list that are no NaN; 0 with none (R289). -/
theorem amaxList_spec (xs : List F32) :
    (amaxList xs).getLsbD 31 = false ∧
    (∀ x ∈ xs, (fp32.decode x.toNat).isNan = false → (x &&& 0x7FFFFFFF#32).toNat ≤ (amaxList xs).toNat) ∧
    (amaxList xs = 0 ∨ ∃ x ∈ xs, (fp32.decode x.toNat).isNan = false ∧ x &&& 0x7FFFFFFF#32 = amaxList xs) := by
  obtain ⟨-, below, attained⟩ := foldl_amaxMerge xs 0
  have number : ∀ x : F32, (fp32.decode x.toNat).isNan = false → amaxOf x = x &&& 0x7FFFFFFF#32 := fun x h => by
    rw [amaxOf_eq, h, if_neg Bool.false_ne_true]
  refine ⟨?_, fun x hx hn => ?_, ?_⟩
  · rcases attained with h | ⟨x, -, h⟩
    · rw [amaxList, h]
      rfl
    · rw [amaxList, ← h, amaxOf_sign]
  · rw [← number x hn]
    exact below x hx
  · rcases attained with h | ⟨x, hx, h⟩
    · exact .inl h
    · cases hn : (fp32.decode x.toNat).isNan
      · exact .inr ⟨x, hx, hn, (number x hn).symm.trans h⟩
      · rw [amaxOf_eq, if_pos hn] at h
        exact .inl h.symm

/-! ## Merges into an entry of the scale table -/

/-- Between two states no byte outside a tensor's entry has changed, and nothing else but memory (04 R185). -/
structure OnlyEntry (s u : State) (T : BitVec 16) : Prop where
  outside : sameOutside s u (scaleAt s T) 128
  ctl : u.ctl = s.ctl
  threads : u.threads = s.threads
  cores : u.cores = s.cores

namespace OnlyEntry

theorem refl (s : State) (T : BitVec 16) : OnlyEntry s s T := ⟨fun _ _ => rfl, rfl, rfl, rfl⟩

theorem trans {s u v : State} {T : BitVec 16} (h : OnlyEntry s u T) (k : OnlyEntry u v T) : OnlyEntry s v T where
  outside c hc := by
    have at_ : scaleAt u T = scaleAt s T := by rw [scaleAt, ctlGet, h.ctl, scaleAt, ctlGet]
    rw [k.outside c (by rwa [at_]), h.outside c hc]
  ctl := k.ctl.trans h.ctl
  threads := k.threads.trans h.threads
  cores := k.cores.trans h.cores

/-- A field of the entry is written. -/
theorem ePut (s : State) (T : BitVec 16) {off n : Nat} (v : Nat) (h : off + n ≤ 128) : OnlyEntry s (ePut s T off n v) T where
  outside c hc := memWrite_outside s _ c _ (by rw [leBytes_length]; omega)
  ctl := rfl
  threads := rfl
  cores := rfl

theorem ringPut (s : State) (T : BitVec 16) (m a : Nat) : OnlyEntry s (ringPut s T m a) T :=
  ((ePut s T a (by simp only [eRing]; omega)).trans (ePut _ T _ (by simp only [eTag]; omega))).trans
    (ePut _ T _ (by simp only [eValid]; omega))

theorem mergeAmax (s : State) (T : BitVec 16) (n : Nat) (a : F32) : OnlyEntry s (mergeAmax s T n a) T := by
  have current : ∀ u, OnlyEntry u (Machine.ePut (Machine.ePut u T eCur 4 a.toNat) T eCurStep 4 n) T := fun u =>
    (ePut u T _ (by decide)).trans (ePut _ T _ (by decide))
  simp only [Machine.mergeAmax]
  split
  · exact ePut s T _ (by decide)
  · split
    · refine OnlyEntry.trans ?_ ((current _).trans (ePut _ T _ (by decide)))
      split
      · exact ringPut s T _ _
      · exact refl s T
    · split
      · exact ePut s T _ (by simp only [eRing]; omega)
      · split
        · exact ringPut s T _ _
        · exact refl s T

theorem thr {s u : State} {T : BitVec 16} (h : OnlyEntry s u T) (t : Tid) : u.thr t = s.thr t := by
  rw [State.thr, h.threads, State.thr]

theorem ctx {s u : State} {T : BitVec 16} (h : OnlyEntry s u T) (t : Tid) : u.ctx t = s.ctx t := by
  rw [State.ctx, State.core, h.cores, State.ctx, State.core]

end OnlyEntry

/-! ## TAMAX -/

/-- Element `i` of TAMAX's operand. -/
def amaxLane (c : Core) (f : Fld) (i : Nat) : F32 :=
  if f.imm.getLsbD 0 then (c.tile f.s1.toNat).elem i else lvLane c f.s1.toNat i

/-- Element `i` of TAMAX's operand is active: each of a tile, those under the mask of a long vector. -/
def amaxActive (c : Core) (f : Fld) (i : Nat) : Prop :=
  i < (if f.imm.getLsbD 0 then (c.tile f.s1.toNat).rows * (c.tile f.s1.toNat).cols else 512) ∧
    (f.imm.getLsbD 0 = true ∨ lvOn c (f.imm.getLsbD 2) (f.imm >>> 3 &&& 3#32).toNat i = true)

theorem mem_amElems (c : Core) (f : Fld) (x : F32) : x ∈ amElems c f ↔ ∃ i, amaxActive c f i ∧ amaxLane c f i = x := by
  have mask : amMk f = (f.imm >>> 3 &&& 3#32).toNat := nbits_imm f.imm 3 (by decide)
  by_cases h : f.imm.getLsbD 0 = true
  · simp only [amElems, amTile, h, amaxActive, amaxLane, Tile.vals, List.mem_map, List.mem_range, if_true, true_or, and_true]
  · have h' : f.imm.getLsbD 0 = false := Bool.eq_false_iff.2 h
    simp only [amElems, amTile, h', amaxActive, amaxLane, List.mem_map, List.mem_filter, List.mem_range, Bool.false_eq_true,
      if_false, false_or, mask]
    rfl

/-- The largest magnitude of the active elements that are no NaN (R289). -/
theorem amaxList_amElems (c : Core) (f : Fld) :
    let a := amaxList (amElems c f)
    let on (i : Nat) : Prop := amaxActive c f i ∧ (fp32.decode (amaxLane c f i).toNat).isNan = false
    a.getLsbD 31 = false ∧ (∀ i, on i → (amaxLane c f i &&& 0x7FFFFFFF#32).toNat ≤ a.toNat) ∧
      (a = 0 ∨ ∃ i, on i ∧ amaxLane c f i &&& 0x7FFFFFFF#32 = a) := by
  obtain ⟨sign, below, attained⟩ := amaxList_spec (amElems c f)
  refine ⟨sign, fun i ⟨hi, hn⟩ => below _ ((mem_amElems c f _).2 ⟨i, hi, rfl⟩) hn, attained.imp_right ?_⟩
  rintro ⟨x, hx, hn, ha⟩
  obtain ⟨i, hi, rfl⟩ := (mem_amElems c f x).1 hx
  exact ⟨i, ⟨hi, hn⟩, ha⟩

/-- The check of TAMAX's operand. -/
def amaxChecks (c : Core) (f : Fld) : List (Bool × TFault) :=
  if f.imm.getLsbD 0 then [((c.tile f.s1.toNat).conf, ⟨0, 1, dRows, 1, f.s1.toNat⟩)] else []

/-- The tensor into whose entry TAMAX merges. -/
def amaxTensor (s : State) (t : Tid) (f : Fld) : BitVec 16 := ((found s t).rg f.s2.toNat).setWidth 16

/-- The state after the merge, if asked. -/
def amaxMerged (s : State) (t : Tid) (f : Fld) : State :=
  if amMerge f then
    mergeAmax (begun s t) (amaxTensor s t f) (taskStep (found s t)).toNat (amaxList (amElems (s.ctx t) f))
  else begun s t

theorem amaxMerged_entry (s : State) (t : Tid) (f : Fld) : OnlyEntry (begun s t) (amaxMerged s t f) (amaxTensor s t f) := by
  rw [amaxMerged]
  split
  · exact OnlyEntry.mergeAmax _ _ _ _
  · exact OnlyEntry.refl _ _

/-- The thread with TAMAX's value on its way. -/
def withAmax (s : State) (f : Fld) (u : State) (t : Tid) : State :=
  u.modThr t (fun x => { x with result := some (f.d.toNat, (amaxList (amElems (s.ctx t) f)).setWidth 64) })

@[simp] theorem amElems_icTouch (c : Core) (line : Nat) (f : Fld) : amElems (icTouch c line) f = amElems c f := rfl

/-- TAMAX behind the check of its shape. -/
def amaxRest (t : Tid) (f : Fld) (s : State) : Res :=
  afterQueues s t fun s =>
    withEntryOpt s t (if amMerge f then some (((s.thr t).rg f.s2.toNat).setWidth 16, 0) else none) fun u =>
      .hold .longLatency (withAmax s f (if amMerge f then
        mergeAmax u (((s.thr t).rg f.s2.toNat).setWidth 16) (taskStep (s.thr t)).toNat (amaxList (amElems (s.ctx t) f)) else u) t)

/-- Without queued operations, and with leave to merge, TAMAX holds its value. -/
theorem amaxRest_holds {s : State} {t : Tid} {f : Fld} (hq : hasQueued s t = false)
    (hm : amMerge f = true → mayMerge s (s.lathe t.lathe.val).world (amaxTensor s t f) = true) :
    amaxRest t f (begun s t) = .hold .longLatency (withAmax s f (amaxMerged s t f) t) := by
  have free : hasQueued (begun s t) t = false := (hasQueued_begun s t).trans hq
  rw [amaxRest, afterQueues, free, if_neg Bool.false_ne_true]
  cases h : amMerge f
  · simp [withEntryOpt, withAmax, amaxMerged, h]
  · have may : mayMerge (begun s t) (reqOf (begun s t) t).world (amaxTensor s t f) = true := hm h
    rw [amaxTensor] at may
    simp [withEntryOpt, withEntry, withAmax, amaxMerged, h, may, amaxTensor]

section
variable {s : State} {t : Tid} {f : Fld} (hi : CanIssue s t) (hg : guarded s t f) (ho : owns s t) (hl : amaxLegal f = true)
include hi hg ho hl

/-- TAMAX checks its shape, waits for the thread's queued operations, and then waits with its value. -/
theorem exec_tamax : exec (.tamax t f) s = .next (finish (begun s t) t (insWord 0x191 f)
    (withShape (begun s t) t (amaxChecks (s.ctx t) f) (amaxRest t f))) := by
  show issue t 0x191 f (bodyTamax t f) s = _
  rw [bodyTamax, hl, issue_plain _ _ hi hg, withContext_owns (owns_begun ho), begun_ctx]
  rfl

/-- A tile that is not configured raises XC_TILE_SHAPE. -/
theorem tamax_misfit (ht : f.imm.getLsbD 0 = true) (hc : ((s.ctx t).tile f.s1.toNat).conf = false) (hx : CanTrap s t) :
    leadsTo (.tamax t f) s (fun u => Entered s u t xShape 0 (insWord 0x191 f)) := by
  have bad : firstBad (amaxChecks (s.ctx t) f) = some ⟨0, 1, dRows, 1, f.s1.toNat⟩ := by
    simp [amaxChecks, ht, hc, firstBad]
  exact ⟨_, exec_tamax hi hg ho hl, (withShape_misfit _ hx bad).1⟩

variable (hc : f.imm.getLsbD 0 = true → ((s.ctx t).tile f.s1.toNat).conf = true)
include hc

theorem exec_tamax_fits : exec (.tamax t f) s =
    .next (finish (begun s t) t (insWord 0x191 f) (amaxRest t f (begun s t))) := by
  have fits : firstBad (amaxChecks (s.ctx t) f) = none := by
    rw [amaxChecks]
    split
    next ht => simp [firstBad, hc ht]
    next => rfl
  rw [exec_tamax hi hg ho hl, withShape_fits _ fits]

/-- TAMAX waits while operations of its thread are queued. -/
theorem tamax_queued (hq : hasQueued s t = true) : exec (.tamax t f) s = .next (leaveBound (begun s t) t .queues) := by
  have busy : hasQueued (begun s t) t = true := (hasQueued_begun s t).trans hq
  rw [exec_tamax_fits hi hg ho hl hc, amaxRest, afterQueues, busy, if_pos rfl, finish]

/-- TAMAX waits with its value; a merge changes the entry of its tensor alone. -/
theorem tamax_waits (hq : hasQueued s t = false)
    (hm : amMerge f = true → mayMerge s (s.lathe t.lathe.val).world (amaxTensor s t f) = true) :
    leadsTo (.tamax t f) s (fun u =>
      (u.thr t).result = some (f.d.toNat, (amaxList (amElems (s.ctx t) f)).setWidth 64) ∧
      (u.thr t).st = .waiting .longLatency ∧ (u.thr t).pc = pcNext s t ∧ (u.ctx t).lv = (s.ctx t).lv ∧
      (u.ctx t).tiles = (s.ctx t).tiles ∧ (amMerge f = false → sameMemory s u) ∧
      (amMerge f = true → sameOutside s u (scaleAt s (amaxTensor s t f)) 128)) := by
  have entry := amaxMerged_entry s t f
  have ctx : (amaxMerged s t f).ctx t = icTouch (s.ctx t) (lineOf t (s.thr t).pc) := (entry.ctx t).trans (begun_ctx s t)
  have thr : (withAmax s f (amaxMerged s t f) t).thr t =
      { found s t with result := some (f.d.toNat, (amaxList (amElems (s.ctx t) f)).setWidth 64) } := by
    rw [withAmax, State.modThr_thr, entry.thr, begun_thr]
  have next_ : ((withAmax s f (amaxMerged s t f) t).thr t).pc + 8 = pcNext s t := by rw [thr, pcNext, ← found_pc]
  have run : exec (.tamax t f) s =
      .next (leave (advance (withAmax s f (amaxMerged s t f) t) t (pcNext s t)) t (.waiting .longLatency)) := by
    rw [exec_tamax_fits hi hg ho hl hc, amaxRest_holds hq hm, finish, next_]
  have thread := leave_waiting_thr (advance (withAmax s f (amaxMerged s t f) t) t (pcNext s t)) t .longLatency
  have slots := OnlySlots.leave (advance (withAmax s f (amaxMerged s t f) t) t (pcNext s t)) t (.waiting .longLatency)
  obtain ⟨-, lv, -, tiles⟩ := slots.ctx_fields t
  rw [advance_thr, thr] at thread
  rw [advance_ctx, withAmax, State.modThr_ctx, ctx] at lv tiles
  have bytes := sameMemory_of_mem slots.memory
  refine ⟨_, run, ?_, ?_, ?_, lv, tiles, fun h c => ?_, fun h c hout => ?_⟩
  · rw [thread]
    rfl
  · rw [thread]
  · rw [thread]
    rfl
  · refine (bytes c).trans ?_
    rw [withAmax, amaxMerged, h, if_neg Bool.false_ne_true]
    rfl
  · exact (bytes c).trans (entry.outside c hout)

end

end Sys2Proof.Machine
end

section
/-!
SUPPORT. FTAB_LOAD (07 R281, R283, R285): a path's read of this device's memory that no older request stands before, the slot's tables,
and the end of the wait.
-/

namespace Sys2Proof.Machine

open Sys2Proof.Claims

/-! ## What the issue slot leaves -/

@[simp] theorem select_ctl (s : State) (l c : Nat) : (select s l c).ctl = s.ctl := by
  obtain h | ⟨_, _, h⟩ := select_eq s l c <;> rw [h]
  rfl
@[simp] theorem select_lathes (s : State) (l c : Nat) : (select s l c).lathes = s.lathes := by
  obtain h | ⟨_, _, h⟩ := select_eq s l c <;> rw [h]
  rfl
@[simp] theorem makeReady_ctl (s : State) (t : Tid) : (makeReady s t).ctl = s.ctl := select_ctl ..
@[simp] theorem makeReady_lathes (s : State) (t : Tid) : (makeReady s t).lathes = s.lathes := select_lathes ..
@[simp] theorem completeWait_ctl (s : State) (t : Tid) : (completeWait s t).ctl = s.ctl := by
  simp only [completeWait]
  split <;> exact makeReady_ctl _ _
@[simp] theorem completeWait_lathes (s : State) (t : Tid) : (completeWait s t).lathes = s.lathes := by
  simp only [completeWait]
  split <;> exact makeReady_lathes _ _

theorem completeWait_mem (s : State) (t : Tid) : (completeWait s t).mem = s.mem := by
  obtain ⟨_, slots⟩ := completeWait_slots s t
  exact slots.memory

/-! ## A read that nothing stands before -/

/-- With no request selected none is served. -/
theorem serveUp_of_none {s : State} {sel : Tid → PendLoad → Bool} (h : ∀ u, ∀ q ∈ (s.thr u).loads, sel u q = false) (n : Nat) :
    serveUp n sel s = s := by
  have nothing : ∀ ts : List Tid, ts.foldl (fun b t =>
      ((s.thr t).loads.filter (fun p => servable s t p && sel t p)).foldl (fun b p => elder b (t, p)) b) none = none := by
    intro ts
    induction ts with
    | nil => rfl
    | cons u ts ih =>
      have unselected : (s.thr u).loads.filter (fun p => servable s u p && sel u p) = [] :=
        List.filter_eq_nil_iff.2 fun q hq => by simp [h u q hq]
      rw [List.foldl_cons, unselected]
      exact ih
  cases n with
  | zero => rfl
  | succ n =>
    have none_ : eldest s sel = none := nothing _
    rw [serveUp, none_]

/-- The part of a run that lies in one of its lines lies in the run. -/
theorem overlaps_run {x m a n l : Nat} (hl : l ∈ runLines a n)
    (h : overlaps x m (max a l) (min (a + n) (l + 64) - max a l) = true) : overlaps x m a n = true := by
  have inside : l ≤ a + n := by
    rw [runLines] at hl
    split at hl
    · cases hl
    · obtain ⟨k, hk, rfl⟩ := List.mem_map.1 hl
      have := List.mem_range.1 hk
      omega
  simp only [overlaps, Bool.and_eq_true, decide_eq_true_eq] at h ⊢
  omega

/-- A path's read that no older request stands before serves none. -/
theorem serveRun_quiet {s : State} {t : Tid} {a n : Nat} (h : Quiet s t a n) : serveRun s (some t) a n = s := by
  have line : ∀ l ∈ runLines a n, serveAhead s (some t) (some (bankOf s l)) s.mem.presented (max a l)
      (min (a + n) (l + 64) - max a l) = s := by
    intro l hl
    refine serveUp_of_none (fun u q hq => ?_) _
    have first := h l hl u q hq
    rw [← Bool.not_eq_true] at first ⊢
    refine mt (fun before => ?_) first
    simp only [ahead, Bool.and_eq_true, Bool.or_eq_true] at before ⊢
    obtain ⟨older, bank | ⟨own, meets⟩⟩ := before
    · exact ⟨older, .inl bank⟩
    · exact ⟨older, .inr ⟨own, overlaps_run hl meets⟩⟩
  have lines : ∀ ls : List Nat, (∀ l ∈ ls, l ∈ runLines a n) → ls.foldl (fun s l =>
      serveAhead s (some t) (some (bankOf s l)) s.mem.presented (max a l) (min (a + n) (l + 64) - max a l)) s = s := by
    intro ls
    induction ls with
    | nil => exact fun _ => rfl
    | cons l ls ih =>
      intro hls
      rw [List.foldl_cons, line l (hls l List.mem_cons_self)]
      exact ih fun k hk => hls k (List.mem_cons_of_mem _ hk)
  rw [serveRun]
  split
  · rfl
  · exact lines _ fun _ h => h

/-- From `s` to `u` at most the caches and the copies of remote lines have changed. -/
structure OnlyCached (s u : State) : Prop where
  cells : u.mem.cells = s.mem.cells
  ctl : u.ctl = s.ctl
  threads : u.threads = s.threads
  cores : u.cores = s.cores
  lathes : u.lathes = s.lathes

namespace OnlyCached

theorem refl (s : State) : OnlyCached s s := ⟨rfl, rfl, rfl, rfl, rfl⟩

theorem trans {s u v : State} (h : OnlyCached s u) (k : OnlyCached u v) : OnlyCached s v :=
  ⟨k.cells.trans h.cells, k.ctl.trans h.ctl, k.threads.trans h.threads, k.cores.trans h.cores, k.lathes.trans h.lathes⟩

/-- A use of a die cache may evict a line, and with it the copy of a remote line (08 R310). -/
theorem dieUse (s : State) (die l : Nat) (stream dirty alloc : Bool) : OnlyCached s (dieUse s die l stream dirty alloc) := by
  have evict : ∀ (u : State) (v : Option DWay), OnlyCached s u → OnlyCached s (evictCopy u die v) := by
    intro u v h
    simp only [evictCopy]
    split
    · split
      · exact h.trans ⟨rfl, rfl, rfl, rfl, rfl⟩
      · exact h
    · exact h
  simp only [Machine.dieUse]
  split
  · exact ⟨rfl, rfl, rfl, rfl, rfl⟩
  · split
    · exact evict _ _ ⟨rfl, rfl, rfl, rfl, rfl⟩
    · exact refl s

theorem homeRead (s : State) (a : Nat) : OnlyCached s (homeRead s a) := by
  simp only [Machine.homeRead]
  split
  · exact dieUse s _ _ _ _ _
  · exact refl s

theorem homeReads (as : List Nat) (s : State) : OnlyCached s (as.foldl Machine.homeRead s) := by
  induction as generalizing s with
  | nil => exact refl s
  | cons a as ih => exact (homeRead s a).trans (ih _)

end OnlyCached

/-- A path reads the bytes of this device's memory where no older request stands before it (02 R57, 08 R326). -/
theorem pathRead_quiet {s : State} {t : Tid} {w : Word} {n : Nat} (hs : isSelf s (chainOf w) = true)
    (hn : localOf w + n ≤ 2 ^ 48) (hq : Quiet s t (canon s t w) n) :
    (pathRead s t w n).1 = (List.range n).map (fun k => byteAt s (canon s t w + k)) ∧ OnlyCached s (pathRead s t w n).2 := by
  have inside : (isSelf s (chainOf w) && !decide (2 ^ 48 < localOf w + n)) = true := by
    rw [hs, decide_eq_false (Nat.not_lt.2 hn)]
    rfl
  simp only [pathRead, inside, if_true, serveRun_quiet hq]
  exact ⟨rfl, OnlyCached.homeReads _ _⟩

/-! ## A field of a word -/

/-- Bit `i` of a word with a field replaced. -/
theorem getLsbD_wput (x v : Word) {lo n : Nat} (h : lo + n ≤ 64) (i : Nat) :
    (wput x lo n v).getLsbD i = if lo ≤ i ∧ i < lo + n then v.getLsbD (i - lo) else x.getLsbD i := by
  have mask : (BitVec.ofNat 64 (2 ^ n - 1) <<< lo).getLsbD i = decide (lo ≤ i ∧ i < lo + n) := by
    simp only [BitVec.getLsbD_shiftLeft, BitVec.getLsbD_ofNat, Nat.testBit_two_pow_sub_one]
    by_cases hlo : lo ≤ i ∧ i < lo + n
    · simp [hlo]
      omega
    · simp [hlo]
      omega
  simp only [wput, BitVec.getLsbD_or, BitVec.getLsbD_and, BitVec.getLsbD_not, mask, BitVec.getLsbD_shiftLeft]
  by_cases hlo : lo ≤ i ∧ i < lo + n
  · have : i < 64 := by omega
    simp [hlo, this]
  · by_cases hi : i < 64
    · simp [hlo, hi]
    · simp [hlo, BitVec.getLsbD_of_ge x i (Nat.le_of_not_lt hi), hi]

/-- A field is read as it was written. -/
theorem wbits_wput (x : Word) {lo n k : Nat} (hn : lo + n ≤ 64) (hk : k < 2 ^ n) :
    wbits (wput x lo n (BitVec.ofNat 64 k)) lo n = k := by
  refine Nat.eq_of_testBit_eq fun i => ?_
  have bit := getLsbD_wput x (BitVec.ofNat 64 k) hn (lo + i)
  simp only [wbits, nbits, Nat.testBit_mod_two_pow, Nat.testBit_shiftRight]
  rw [← BitVec.getLsbD, bit]
  by_cases hi : i < n
  · have : i < 64 := by omega
    rw [if_pos ⟨Nat.le_add_right lo i, Nat.add_lt_add_left hi lo⟩, Nat.add_sub_cancel_left, BitVec.getLsbD_ofNat]
    simp [hi, this]
  · have high : k.testBit i = false :=
      Nat.testBit_lt_two_pow (Nat.lt_of_lt_of_le hk (Nat.pow_le_pow_right (by decide) (Nat.le_of_not_lt hi)))
    simp [hi, high]

/-! ## The tables of a slot -/

@[simp] theorem ctlSet_lathe (s : State) (off : Nat) (v : Word) (n : Nat) : (ctlSet s off v).lathe n = s.lathe n := rfl
@[simp] theorem modLathe_lathe (s : State) (n : Nat) (g : Lathe → Lathe) : (s.modLathe n g).lathe n = g (s.lathe n) :=
  State.setLathe_lathe ..

@[simp] theorem putSlot_thr (s : State) (l k : Nat) (b : List Byte) (t : Tid) : (putSlot s l k b).thr t = s.thr t := by
  simp only [putSlot]; split <;> rfl
@[simp] theorem putSlot_mem (s : State) (l k : Nat) (b : List Byte) : (putSlot s l k b).mem = s.mem := by
  simp only [putSlot]; split <;> rfl

/-- Another slot keeps its tables. -/
theorem putSlot_other (s : State) (l : Nat) {k j : Nat} (b : List Byte) (h : j ≠ k) :
    mget? ((putSlot s l k b).lathe l).slots j = mget? (s.lathe l).slots j := by
  simp only [putSlot]
  split
  · simp [mget?_mset_other _ _ _ _ h]
  · simp [mget?_mdel, h]

/-- Two valid tables are loaded, and no register changes. -/
theorem putSlot_valid (s : State) (l k : Nat) {b : List Byte} (hf : (tableOf b).valid = true)
    (hd : (tableOf (b.drop 0xC40)).valid = true) :
    mget? ((putSlot s l k b).lathe l).slots k =
        some ⟨BitVec.ofNat 32 (leNat (b.take 4)), tableOf b, tableOf (b.drop 0xC40)⟩ ∧
      (putSlot s l k b).ctl = s.ctl := by
  simp only [putSlot, hf, hd]
  exact ⟨by simp [f32At, leAt], rfl⟩

/-- A table that is not valid empties the slot and sets slot_err with the slot's number (R283). -/
theorem putSlot_invalid (s : State) (l : Nat) {k : Nat} {b : List Byte} (hk : k < 16)
    (h : (tableOf b).valid = false ∨ (tableOf (b.drop 0xC40)).valid = false) :
    mget? ((putSlot s l k b).lathe l).slots k = none ∧
      (ctlGet (putSlot s l k b) (rFnstat l)).getLsbD 1 = true ∧ wbits (ctlGet (putSlot s l k b) (rFnstat l)) 8 4 = k := by
  have bad : ((tableOf b).valid && (tableOf (b.drop 0xC40)).valid) = false := by
    rcases h with h | h <;> simp [h]
  simp only [putSlot, bad, Bool.false_eq_true, if_false, ctlGet_ctlSet_same]
  refine ⟨?_, ?_, wbits_wput _ (by decide) hk⟩
  · simp [mget?_mdel]
  · rw [getLsbD_wput _ _ (by decide)]
    simp

/-! ## FTAB_LOAD -/

/-- The state in which the tables are loaded: no queued operation waits for the thread any more. -/
def ftabFreed (s : State) (t : Tid) : State :=
  (unholdFin s t.lathe.val (tkey t)).modThr t (fun x => { x with recLines := [] })

/-- FTAB_LOAD of an image in this device's memory ends the wait with the slot loaded (R285). -/
theorem exec_ftabLoad {s : State} {t : Tid} {k : Nat} {a : Word} (hw : (s.thr t).st = .waiting (.ftab k a))
    (hf : slotFree s t k = true) (hc : clockRuns s t = true) (hs : isSelf s (chainOf a) = true)
    (hp : poisonAt s (canon s t a) 6272 = none) :
    exec (.ftabLoad t) s = .next (completeWait (putSlot (ftabFreed (pathRead s t a 6272).2 t) t.lathe.val k
      (pathRead s t a 6272).1) t) := by
  have clean : spansPoison s t [(a, 6272)] = none := by simp [spansPoison, hp]
  show execFtabLoad t s = _
  simp only [execFtabLoad, hw, hf, hc, imageBytes, clean, hs]
  rfl

theorem ftabLoad_loads {s : State} {t : Tid} {k : Nat} {a : Word} {b : List Byte} (hw : (s.thr t).st = .waiting (.ftab k a))
    (hk : k < 16) (hf : slotFree s t k = true) (hc : clockRuns s t = true) (hs : isSelf s (chainOf a) = true)
    (hn : localOf a + 6272 ≤ 2 ^ 48) (hp : poisonAt s (canon s t a) 6272 = none) (hq : Quiet s t (canon s t a) 6272)
    (hb : b = (List.range 6272).map (fun i => byteAt s (canon s t a + i))) :
    leadsTo (.ftabLoad t) s (fun u => GoesOn s u t ∧ sameMemory s u ∧
      (∀ j, j ≠ k → mget? (u.lathe t.lathe.val).slots j = mget? (s.lathe t.lathe.val).slots j) ∧
      ((tableOf b).valid = true → (tableOf (b.drop 0xC40)).valid = true →
        mget? (u.lathe t.lathe.val).slots k = some ⟨BitVec.ofNat 32 (leNat (b.take 4)), tableOf b, tableOf (b.drop 0xC40)⟩ ∧
        u.ctl = s.ctl) ∧
      ((tableOf b).valid = false ∨ (tableOf (b.drop 0xC40)).valid = false → mget? (u.lathe t.lathe.val).slots k = none ∧
        (ctlGet u (rFnstat t.lathe.val)).getLsbD 1 = true ∧ wbits (ctlGet u (rFnstat t.lathe.val)) 8 4 = k)) := by
  obtain ⟨bytes, cached⟩ := pathRead_quiet hs hn hq
  rw [← hb] at bytes
  have run := exec_ftabLoad hw hf hc hs hp
  rw [bytes] at run
  generalize (pathRead s t a 6272).2 = v at run cached
  have thr : (ftabFreed v t).thr t = { s.thr t with recLines := [] } := by
    have same : (unholdFin v t.lathe.val (tkey t)).thr t = s.thr t := by
      show mget v.threads (tkey t) {} = _
      rw [cached.threads]
      rfl
    rw [ftabFreed, State.modThr_thr, same]
  have lathe : (ftabFreed v t).lathe t.lathe.val = s.lathe t.lathe.val := by
    show mget v.lathes t.lathe.val _ = _
    rw [cached.lathes]
    rfl
  have ctl : (ftabFreed v t).ctl = s.ctl := cached.ctl
  have latheAfter : (completeWait (putSlot (ftabFreed v t) t.lathe.val k b) t).lathe t.lathe.val =
      (putSlot (ftabFreed v t) t.lathe.val k b).lathe t.lathe.val := by
    rw [State.lathe, completeWait_lathes, State.lathe]
  have ctlAfter : ∀ r, ctlGet (completeWait (putSlot (ftabFreed v t) t.lathe.val k b) t) r =
      ctlGet (putSlot (ftabFreed v t) t.lathe.val k b) r := fun r => by
    rw [ctlGet, completeWait_ctl, ctlGet]
  refine ⟨_, run, completeWait_goesOn (by rw [putSlot_thr, thr]) (by rw [putSlot_thr, thr]), fun c => ?_, fun j hj => ?_,
    fun hv hd => ?_, fun h => ?_⟩
  · rw [byteAt, completeWait_mem, putSlot_mem]
    show cellGet v.mem.cells c = _
    rw [cached.cells]
    rfl
  · rw [latheAfter, putSlot_other _ _ _ hj, lathe]
  · obtain ⟨slot, registers⟩ := putSlot_valid (ftabFreed v t) t.lathe.val k hv hd
    rw [latheAfter, completeWait_ctl, registers, ctl]
    exact ⟨slot, rfl⟩
  · rw [latheAfter, ctlAfter]
    exact putSlot_invalid _ _ hk h

/-! ## The obligation -/

/-- The fields of the queue entry, as the instruction's word gives them. -/
theorem fnQueued_fields (s : State) (t : Tid) (f : Fld) (kind : FinKind) (bare : Bool) :
    let o := fnQueued s t f kind bare
    o.kind = kind ∧ o.thread = t.thread.val ∧ o.d = f.d.toNat ∧ o.s1 = f.s1.toNat ∧ o.s2 = f.s2.toNat ∧
      o.slot = (f.imm &&& 15#32).toNat ∧ o.tile = f.imm.getLsbD 4 ∧ o.bare = bare ∧ o.me = f.imm.getLsbD 7 ∧
      o.mreg = (f.imm >>> 8 &&& 3#32).toNat := by
  have slot : fnSlot f = (f.imm &&& 15#32).toNat := nbits_imm f.imm 0 (by decide)
  have mask : fnMk f = (f.imm >>> 8 &&& 3#32).toNat := nbits_imm f.imm 8 (by decide)
  exact ⟨rfl, rfl, rfl, rfl, rfl, slot, rfl, rfl, rfl, mask⟩

/-- Settles O32: the issue of each instruction by its checks in order, the end of each queued operation by the lemma on its effect. -/
theorem functionUnit : Obligations.FunctionUnit := by
  unfold Obligations.FunctionUnit
  refine ⟨⟨fun t f s hi hg hl hm => ⟨?_, fun hp => ⟨?_, ?_⟩⟩, ?_⟩, ⟨?_, ?_, ?_, ?_⟩, fun t f s hi hg ho hl => ⟨?_, fun hc => ⟨?_, ?_⟩⟩⟩
  · exact ftab_privileged hi hl hm
  · exact ftab_misaligned hi hl hm hg hp
  · exact ftab_waits hi hl hm hg hp
  · intro t s k a b hw hk hf hc hs hn hp hq hb
    exact ftabLoad_loads hw hk hf hc hs hn hp hq hb
  · -- both instructions are `fnBody` at the issue; FAPPLY reads no gradient
    intro p hp t f s hi hg ho hl
    rw [List.mem_cons, List.mem_singleton] at hp
    rcases hp with rfl | rfl
    · refine ⟨fun q hq ht => ?_, fun hq => ?_⟩
      · exact fnBody_misfit (bare := true) 0x199 hi hg ho hl ht hq
      · obtain ⟨u, hu, queued, finQ⟩ := fnBody_fits (bare := true) 0x199 hi hg ho hl hq
        exact ⟨u, hu, queued, _, finQ, fnQueued_fields _ _ _ _ _⟩
    · refine ⟨fun q hq ht => ?_, fun hq => ?_⟩
      · exact fnBody_misfit (bare := f.imm.getLsbD 10) 0x19A hi hg ho hl ht hq
      · obtain ⟨u, hu, queued, finQ⟩ := fnBody_fits (bare := f.imm.getLsbD 10) 0x19A hi hg ho hl hq
        exact ⟨u, hu, queued, _, finQ, fnQueued_fields _ _ _ _ _⟩
  · intro t s o r h hd hk
    exact ⟨longVectorOpComplete_lanes h hd hk, longVectorOpComplete_tile h hd hk⟩
  · intro T x _
    refine ⟨eval_nan T, fun hn hl => ?_, fun hn hl hh => ?_, eval_inside T⟩
    · rw [eval_below T hn hl, tailOf_eq]
    · rw [eval_above T hn hl hh, tailOf_eq]
  · exact fun s l k x h => slot_empty x h
  · exact tamax_misfit hi hg ho hl
  · exact tamax_queued hi hg ho hl hc
  · intro hq hm
    obtain ⟨u, hu, result, st, pc, lv, tiles, same, outside⟩ := tamax_waits hi hg ho hl hc hq hm
    obtain ⟨sign, below, attained⟩ := amaxList_amElems (s.ctx t) f
    refine ⟨u, hu, _, result, st, pc, lv, tiles, sign, ?_, ?_, same, outside⟩
    · rintro i ⟨hi, hon, hn⟩
      exact below i ⟨⟨hi, hon⟩, hn⟩
    · refine attained.imp_right ?_
      rintro ⟨i, ⟨⟨hi, hon⟩, hn⟩, ha⟩
      exact ⟨i, ⟨hi, hon, hn⟩, ha⟩

end Sys2Proof.Machine
end

section
/-!
SUPPORT. Refutation of O44. A firing reads its window set from another device, and the READ takes the next tag. Tags are 16 bits wide: when
it is that of an older request that is still held, `setOutPort` gives the older one the port of the READ too. If the older request goes to
the source of the token, the answer then waits for it (11 R411) where the statement has it leave at once.
-/

namespace Sys2Proof.Machine

open Sys2Proof.Claims

/-! ## A token whose firing reuses the tag of a held request -/

/-- The token: device 2 signals the descriptor at 0x3000. -/
def firingToken : Packet := ⟨1, 2, 5, pToken, 0, 3, 7, 0, 0x3000, 0, []⟩

/-- A READ of this device at device 2, held under tag 9 since device 2 is under probe (11 R417). -/
def heldRead : Outstanding := { tag := 9, dst := 2, origin := .engine, pkt := ⟨2, 1, 5, pRead, 0, 4095, 9, 0, 0x1000, 0, [8, 0]⟩ }

/-- Device 1 of a domain of three, with device 2 behind port 0 and device 3 behind port 1. The next tag is 9 again. -/
def tagReused : Chain :=
  { st := .member, addr := 1, epoch := 5, head := 2, rec_ := some ⟨5, 2, [(1, 55), (2, 66), (3, 77)], [], [], []⟩
    ports := [(0, { st := .up, partner := 2 }), (1, { st := .up, partner := 3 })]
    rxq := [(0, firingToken)], heldTx := [heldRead.pkt], outst := [heldRead], nextTag := 9, probes := [(2, 0)] }

/-- The descriptor at 0x3000 is WAITING for one more token; its window set lies at local address 0 of device 3. -/
def firingState : State :=
  { plat := { pwrOk := true, perstN := true, started := true, stage := 6, ready := true }
    mem := { cells := [(0x300E, 3), (0x302C, 1), (0x3049, 1)] }
    chain := tagReused }

theorem firingState_arrives : Arrives firingState 0 pToken firingToken 0 := by constructor <;> decide

theorem firingState_tokenCheck : tokenCheck firingState ⟨.ns, none⟩ (firingToken.addr.setWidth 64) = .ok := by decide

/-- The packets that a state has put on port `o`. -/
def packetsOn (o : Nat) (s : State) : List Packet :=
  s.out.filterMap (fun x => match x with
    | .packet p k => if p = o then some k else none
    | _ => none)

theorem mem_packetsOn {o : Nat} {s : State} {k : Packet} (h : Out.packet o k ∈ s.out) : k ∈ packetsOn o s :=
  List.mem_filterMap.2 ⟨_, h, if_pos rfl⟩

/-- The packets on port `o` after a command. -/
def packetsAfter (c : Instr) (o : Nat) (s : State) : Option (List Packet) :=
  match exec c s with
  | .next u => some (packetsOn o u)
  | _ => none

/-- The firing's READ has left on port 1, and nothing on port 0: the ACK is held. -/
theorem packetsAfter_tokenPacket : packetsAfter (.tokenPacket 0) 0 firingState = some [] := by decide

/-- Refutes O44: the ACK of a token stays behind an older request whose tag the firing's READ has reused. -/
theorem not_chainRequests : ¬ Obligations.ChainRequests := by
  unfold Obligations.ChainRequests
  intro ⟨⟨_, _, _, tokens⟩, _⟩
  obtain ⟨applied, _⟩ := tokens 0 firingToken 0 firingState firingState_arrives rfl
  obtain ⟨u, hu, ⟨k, hk, _⟩, _⟩ := applied (.inl firingState_tokenCheck)
  have none_sent : packetsOn 0 u = [] := by
    simpa only [packetsAfter, hu, Option.some.injEq] using packetsAfter_tokenPacket
  have there : k ∈ packetsOn 0 u := mem_packetsOn hk
  rw [none_sent] at there
  cases there

end Sys2Proof.Machine
end

section
/-!
SUPPORT. Refutation of O51. The new record of a row replaces all its records. A state that lists a row more than once, which no command
builds and the statement does not exclude, therefore has fewer spares in use after a scrub's record than the statement counts before it,
and the scrub finds room for a copy (08 R323).
-/

namespace Sys2Proof.Machine

open Sys2Proof.Claims

/-! ## The retirement of a row -/

@[simp] theorem strike_mem (s : State) (ev : FaultEv) : (strike s ev).mem = s.mem := by
  simp only [strike]
  split
  · rfl
  · split
    · split <;> rfl
    · rfl

@[simp] theorem takeSeq_mem (s : State) : (takeSeq s).2.mem = s.mem := by
  simp only [takeSeq]
  split <;> rfl

/-- A detected fault changes no memory. -/
@[simp] theorem detect_mem (s : State) (ev : FaultEv) : (detect s ev).mem = s.mem := by
  have numbered : (takeSeq (strike s ev)).2.mem = s.mem := by simp
  rw [← numbered]
  simp only [detect, detectFor]
  split
  · split
    · rfl
    · split <;> rfl
  · split <;> rfl

theorem setRow_rowCopy (s : State) (x : DramRow) : (setRow s x).mem.rowCopy = s.mem.rowCopy := rfl

/-- With no copy under way, a row without a spare of which more than 2 positions were corrected is copied if, with the row's new record in
place, a spare row is left. -/
theorem rowCorrected_copies {s : State} {e : ScrubEv} {n : Nat} {x : DramRow}
    (hx : rowOf s e.kind e.index (Config.dramRow e.kind.toNat e.index.toNat e.addr.toNat) = x) (hspare : x.spare = none)
    (hcopy : s.mem.rowCopy = []) (hn : 2 < n)
    (hroom : ∀ times, sparesUsed (setRow s { x with times := times, spare := none }) e.kind e.index < spareRows e.kind) :
    (rowCorrected s e n).mem.rowCopy = [(e.kind, e.index, Config.dramRow e.kind.toNat e.index.toNat e.addr.toNat)] := by
  simp [rowCorrected, hx, hspare, hcopy, hn, hroom, setRow_rowCopy]

/-! ## A row listed more than once -/

/-- The row of MRDIMM channel 0 that holds address 0. -/
def scrubbedRow : Word := Config.dramRow 5 0 0

/-- Its records: one without a spare, then `n` of which each counts as a spare in use. -/
def rowListed (n : Nat) : State :=
  { mem := { rows := ⟨5, 0, scrubbedRow, [], none⟩ :: List.replicate n ⟨5, 0, scrubbedRow, [], some 0⟩ } }

theorem rowListed_rowOf (n : Nat) : rowOf (rowListed n) 5 0 scrubbedRow = ⟨5, 0, scrubbedRow, [], none⟩ := by
  simp [rowOf, rowListed]

theorem rowListed_sparesUsed (n : Nat) : sparesUsed (rowListed n) 5 0 = n := by
  simp [sparesUsed, rowListed]

/-- The row's new record is the only one left, and it has no spare. -/
theorem rowListed_sparesUsed_setRow (n : Nat) (times : List Word) :
    sparesUsed (setRow (rowListed n) ⟨5, 0, scrubbedRow, times, none⟩) 5 0 = 0 := by
  simp [sparesUsed, setRow, rowListed]

/-- Three positions of a line of the row were corrected. -/
def threeCorrected : ScrubEv := ⟨5, 0, 0, .corrected 3⟩

/-- The state in which the scrub records the row: the corrected error has been detected, which leaves the row's records. -/
def errorLogged (n : Nat) : State := detect (rowListed n) ⟨cEccSingle, 5, 0, 0, none, 0, false⟩

theorem errorLogged_mem (n : Nat) : (errorLogged n).mem = (rowListed n).mem := detect_mem _ _

theorem errorLogged_rowOf (n : Nat) : rowOf (errorLogged n) 5 0 scrubbedRow = ⟨5, 0, scrubbedRow, [], none⟩ := by
  rw [← rowListed_rowOf n]
  simp only [rowOf, errorLogged_mem]

theorem errorLogged_sparesUsed_setRow (n : Nat) (times : List Word) :
    sparesUsed (setRow (errorLogged n) ⟨5, 0, scrubbedRow, times, none⟩) 5 0 = 0 := by
  rw [← rowListed_sparesUsed_setRow n times]
  simp only [sparesUsed, setRow, errorLogged_mem]

/-- However many spares the state counts, the scrub queues the row for a copy. -/
theorem scrub_rowListed (n : Nat) :
    leadsTo (.scrub threeCorrected) (rowListed n) (fun u => u.mem.rowCopy = [(5, 0, scrubbedRow)]) := by
  refine ⟨rowCorrected (errorLogged n) threeCorrected 3, rfl, ?_⟩
  refine rowCorrected_copies (errorLogged_rowOf n) rfl ?_ (by decide) fun times => ?_
  · rw [errorLogged_mem]
    rfl
  · have used : sparesUsed (setRow (errorLogged n) ⟨5, 0, scrubbedRow, times, none⟩) 5 0 < spareRows 5 := by
      rw [errorLogged_sparesUsed_setRow]
      decide
    exact used

/-- Refutes O51: a row listed once without a spare and 256 times with one has no spare left by the statement's count, yet the scrub that
retires it queues its copy. -/
theorem not_memorySystem : ¬ Obligations.MemorySystem := by
  unfold Obligations.MemorySystem
  intro ⟨scrubs, _⟩
  -- the count stays a name, so that no list of 256 records is unfolded
  obtain ⟨n, hn⟩ : ∃ n, n = 256 := ⟨256, rfl⟩
  obtain ⟨_, _, _, corrected⟩ := scrubs threeCorrected (rowListed n)
  obtain ⟨_, inRow⟩ := corrected 3
  obtain ⟨u, hu, _, _, _, full, _⟩ := inRow (.inr ⟨rfl, by decide⟩)
  have retires : (rowOf (rowListed n) 5 0 scrubbedRow).spare = none := by rw [rowListed_rowOf]
  have noRoom : ¬ sparesUsed (rowListed n) 5 0 + 0 < 256 := by
    rw [rowListed_sparesUsed]
    omega
  obtain ⟨kept, _⟩ := full ⟨retires, List.forall_mem_nil _, .inr (by decide)⟩ noRoom
  obtain ⟨v, hv, copied⟩ := scrub_rowListed n
  obtain rfl : u = v := Host.Outcome.next.inj (hu.symm.trans hv)
  exact absurd (copied.symm.trans kept) (List.cons_ne_nil _ _)

end Sys2Proof.Machine
end
